-- ==== Sys2Proof/Word.lean ====
section
/-!
DEFINITION. The word types of the W880 model. A memory byte, the 32-bit word of a register page and the
64-bit word of a thread register are bit vectors, since the spec adds, shifts and masks them; addresses are
natural numbers once computed (R16 bounds them to 64 bits).
-/

namespace Sys2Proof

/-- One byte of any memory. -/
abbrev Byte := BitVec 8

/-- One 32-bit word of a register page (R414). -/
abbrev Reg32 := BitVec 32

/-- One 64-bit general register of a thread, or a 64-bit register value (R4). -/
abbrev Word := BitVec 64

end Sys2Proof
end

