-- ==== Sys2Proof/Syntax.lean ====
section
/-!
DEFINITION. The commands of the W880 block: one constructor of Instr for every row of the spec's operation
table, in the table's order, with the operands the row's rule names. A command that a thread executes names
the thread (Who) and the fields of its encoding (Table 3.4); a command of an engine names the engine's core;
an arrival carries the arriving packet; a register write carries its requester.
-/

namespace Sys2Proof

/-- A thread: its logical core (0–511) and its number within the core (R14, Table 3.3). -/
structure Who where
  core : BitVec 9
  thr  : BitVec 4
deriving DecidableEq, Repr

/-- The requester of a register access (R414, R417): the host, or a thread. -/
inductive Req where
  | host
  | thread (w : Who)
deriving DecidableEq, Repr

/-- The four engines of a core (descriptor byte 1, Table 3.8), in the order of their codes 1 to 4. -/
inductive Engine where
  | mxe
  | rge
  | mkx
  | dma
deriving DecidableEq, Repr

/-- A frame that arrives on an Ethernet port (R239): its IPv6 addresses and whether it has an extension header, its UDP
ports and checksum, and the bytes after the UDP header. -/
structure Frame where
  port    : BitVec 3
  src     : BitVec 128
  dst     : BitVec 128
  extHdr  : Bool
  udpSrc  : BitVec 16
  udpPort : BitVec 16
  udpSum  : BitVec 16
  body    : List Byte
deriving DecidableEq, Repr

/-- A Joist packet (Table 10.2). Its TYPE is the row it arrives as. -/
structure JPkt where
  cls      : BitVec 2
  src      : BitVec 6
  dst      : BitVec 6
  status   : BitVec 8
  rpid     : BitVec 16
  tag      : BitVec 16
  addr     : BitVec 40
  size     : BitVec 8
  op       : BitVec 8
  released : Bool
  payload  : List Byte
deriving DecidableEq, Repr

/-- What happens outside the model's state while the start-up stages run (R454, R455): how often the training of each stack
fails, where it does, and a compute die that fails power-good or lock. -/
structure BootEnv where
  stackFails : List (BitVec 4 × Nat)
  dieFail    : Option (BitVec 2)
deriving DecidableEq, Repr, Inhabited

/-- How a PCIe reset is asserted (Table 15.3). -/
inductive PcieResetKind where
  | perst
  | hot
deriving DecidableEq, Repr

/-- The activity counts of the previous epoch, by block (R404): of the work of each class at full admission, and of what
belongs to no class beside leakage: idle clocks, HBM refresh and SerDes idle. -/
structure EpochDemand where
  idle : List (Nat × Nat)
  c0   : List (Nat × Nat)
  c1   : List (Nat × Nat)
  c2   : List (Nat × Nat)
  c3   : List (Nat × Nat)
deriving DecidableEq, Repr

/-- A firmware image as a PLDM update brings it (R452): version, security version, the SHA-384 digest of the key that signed
it, whether the ML-DSA-65 and the ECDSA P-384 half of its signature verify under that key, and its bytes. -/
structure FwImage where
  version  : BitVec 32
  security : BitVec 6
  signer   : BitVec 384
  mldsa    : Bool
  ecdsa    : Bool
  body     : List Byte
deriving DecidableEq, Repr

/-- The commands of the block, one constructor per row of the operation table. -/
inductive Instr where
  -- thread instructions (R70 to R99)
  | add  (w : Who) (gp : BitVec 3) (rd ra rb : BitVec 5)
  | sub  (w : Who) (gp : BitVec 3) (rd ra rb : BitVec 5)
  | and  (w : Who) (gp : BitVec 3) (rd ra rb : BitVec 5)
  | or   (w : Who) (gp : BitVec 3) (rd ra rb : BitVec 5)
  | xor  (w : Who) (gp : BitVec 3) (rd ra rb : BitVec 5)
  | shl  (w : Who) (gp : BitVec 3) (rd ra rb : BitVec 5)
  | shr  (w : Who) (gp : BitVec 3) (rd ra rb : BitVec 5)
  | sra  (w : Who) (gp : BitVec 3) (rd ra rb : BitVec 5)
  | mul  (w : Who) (gp : BitVec 3) (rd ra rb : BitVec 5)
  | mulhu (w : Who) (gp : BitVec 3) (rd ra rb : BitVec 5)
  | min  (w : Who) (gp : BitVec 3) (rd ra rb : BitVec 5)
  | max  (w : Who) (gp : BitVec 3) (rd ra rb : BitVec 5)
  | addi (w : Who) (gp : BitVec 3) (rd ra : BitVec 5) (imm : BitVec 13)
  | andi (w : Who) (gp : BitVec 3) (rd ra : BitVec 5) (imm : BitVec 13)
  | ori  (w : Who) (gp : BitVec 3) (rd ra : BitVec 5) (imm : BitVec 13)
  | xori (w : Who) (gp : BitVec 3) (rd ra : BitVec 5) (imm : BitVec 13)
  | shli (w : Who) (gp : BitVec 3) (rd ra : BitVec 5) (sh : BitVec 6)
  | shri (w : Who) (gp : BitVec 3) (rd ra : BitVec 5) (sh : BitVec 6)
  | srai (w : Who) (gp : BitVec 3) (rd ra : BitVec 5) (sh : BitVec 6)
  | movz (w : Who) (gp : BitVec 3) (rd : BitVec 5) (hw : BitVec 2) (imm : BitVec 16)
  | movk (w : Who) (gp : BitVec 3) (rd : BitVec 5) (hw : BitVec 2) (imm : BitVec 16)
  | cmp  (w : Who) (gp pd pe : BitVec 3) (ra rb : BitVec 5) (cond : BitVec 4)
  | cmpi (w : Who) (gp pd pe : BitVec 3) (ra : BitVec 5) (cond : BitVec 4) (imm : BitVec 8)
  | plog (w : Who) (gp pd pa pb : BitVec 3) (op : BitVec 2)
  | ld8   (w : Who) (gp : BitVec 3) (rd ra : BitVec 5) (imm : BitVec 13)
  | ld16  (w : Who) (gp : BitVec 3) (rd ra : BitVec 5) (imm : BitVec 13)
  | ld32  (w : Who) (gp : BitVec 3) (rd ra : BitVec 5) (imm : BitVec 13)
  | ld64  (w : Who) (gp : BitVec 3) (rd ra : BitVec 5) (imm : BitVec 13)
  | lds8  (w : Who) (gp : BitVec 3) (rd ra : BitVec 5) (imm : BitVec 13)
  | lds16 (w : Who) (gp : BitVec 3) (rd ra : BitVec 5) (imm : BitVec 13)
  | lds32 (w : Who) (gp : BitVec 3) (rd ra : BitVec 5) (imm : BitVec 13)
  | st8   (w : Who) (gp : BitVec 3) (rs ra : BitVec 5) (imm : BitVec 13)
  | st16  (w : Who) (gp : BitVec 3) (rs ra : BitVec 5) (imm : BitVec 13)
  | st32  (w : Who) (gp : BitVec 3) (rs ra : BitVec 5) (imm : BitVec 13)
  | st64  (w : Who) (gp : BitVec 3) (rs ra : BitVec 5) (imm : BitVec 13)
  | lda  (w : Who) (gp : BitVec 3) (rd ra : BitVec 5) (size : BitVec 2) (sext : Bool)
  | stl  (w : Who) (gp : BitVec 3) (rs ra : BitVec 5) (size : BitVec 2)
  | fadd    (w : Who) (gp : BitVec 3) (rd ra rb : BitVec 5) (order : BitVec 2) (is64 : Bool)
  | swap    (w : Who) (gp : BitVec 3) (rd ra rb : BitVec 5) (order : BitVec 2) (is64 : Bool)
  | cas     (w : Who) (gp : BitVec 3) (rd ra rb : BitVec 5) (order : BitVec 2) (is64 : Bool)
  | atomMax (w : Who) (gp : BitVec 3) (rd ra rb : BitVec 5) (order : BitVec 2) (is64 : Bool)
  | atomLfadd (w : Who) (gp : BitVec 3) (rd ra rb : BitVec 5) (order : BitVec 2)
  | br   (w : Who) (gp : BitVec 3) (off : BitVec 23)
  | call (w : Who) (gp : BitVec 3) (off : BitVec 23)
  | jalr (w : Who) (gp : BitVec 3) (rd ra : BitVec 5)
  | beq  (w : Who) (gp : BitVec 3) (ra rb : BitVec 5) (off : BitVec 13)
  | bne  (w : Who) (gp : BitVec 3) (ra rb : BitVec 5) (off : BitVec 13)
  | blt  (w : Who) (gp : BitVec 3) (ra rb : BitVec 5) (off : BitVec 13)
  | bge  (w : Who) (gp : BitVec 3) (ra rb : BitVec 5) (off : BitVec 13)
  | fenceAcq  (w : Who) (gp : BitVec 3)
  | fenceRel  (w : Who) (gp : BitVec 3)
  | fenceFull (w : Who) (gp : BitVec 3)
  | ifence    (w : Who) (gp : BitVec 3)
  | barSync   (w : Who) (gp : BitVec 3) (ra rb : BitVec 5)
  | barArrive (w : Who) (gp : BitVec 3) (ra rb : BitVec 5)
  | issue (w : Who) (gp : BitVec 3) (ra rb : BitVec 5) (remote : Bool)
  | waitc (w : Who) (gp : BitVec 3) (cnt : BitVec 2) (ra : BitVec 5) (imm : BitVec 13)
  | park  (w : Who) (gp : BitVec 3) (rd ra rb : BitVec 5) (t : BitVec 6)
  | parkTimeout (w : Who)
  | parkPoll (w : Who)
  | next (w : Who) (gp : BitVec 3) (rd ra : BitVec 5) (pd : BitVec 3) (nowait : Bool)
  | put  (w : Who) (gp : BitVec 3) (ra rb : BitVec 5)
  | mfs  (w : Who) (gp : BitVec 3) (rd : BitVec 5) (sr : BitVec 4)
  | mts  (w : Who) (gp : BitVec 3) (sr : BitVec 4) (ra : BitVec 5)
  | halt (w : Who) (gp : BitVec 3)
  | loadReturn (w : Who) (idx : Nat)
  | fetchLineReturn (w : Who)
  | start (r : Req) (w : Who)
  | stop  (r : Req) (w : Who)
  | ibufInvalidate (r : Req) (core : BitVec 9)
  | engineCompletion (core : BitVec 9) (eng : Engine) (waits : BitVec 24)
  -- matrix engine (chapter 04)
  | opn  (core : BitVec 9)
  | mma  (core : BitVec 9)
  | smma (core : BitVec 9)
  | exportSlot (core : BitVec 9)
  | importSlot (core : BitVec 9)
  | drain (core : BitVec 9)
  -- ring engine (chapter 05)
  | loadRps (core : BitVec 9)
  | dropRps (core : BitVec 9)
  | vadd (core : BitVec 9)
  | vsub (core : BitVec 9)
  | vmul (core : BitVec 9)
  | vconv (core : BitVec 9)
  | ntt (core : BitVec 9)
  | intt (core : BitVec 9)
  | auto (core : BitVec 9)
  | basext (core : BitVec 9)
  | decomp (core : BitVec 9)
  | cadd (core : BitVec 9)
  | csub (core : BitVec 9)
  | cmul (core : BitVec 9)
  | padd (core : BitVec 9)
  | pmul (core : BitVec 9)
  | cauto (core : BitVec 9)
  | cntt (core : BitVec 9)
  | moddown (core : BitVec 9)
  | keyswitch (core : BitVec 9)
  | macc (core : BitVec 9)
  | scatterAdd (core : BitVec 9)
  | lagrange (core : BitVec 9)
  | lfadd (core : BitVec 9)
  -- mask expander (chapters 06 and 07)
  | seedLoad (core : BitVec 9)
  | seedClear (core : BitVec 9)
  | expand (core : BitVec 9)
  | sampleCount (core : BitVec 9)
  | sampleIndex (core : BitVec 9)
  -- DMA helper (chapter 08)
  | copy (core : BitVec 9)
  | fill (core : BitVec 9)
  -- noise sampler (chapter 06)
  | nsuSubmit (r : Req) (cluster : BitVec 5) (addr : Word)
  | addNoise (cluster : BitVec 5)
  | unfreeze (cluster : BitVec 5)
  | unfreezeComplete (cluster : BitVec 5)
  | sample (cluster : BitVec 5)
  | nsuCompletion (cluster : BitVec 5) (waits : BitVec 24)
  | nsuReseed (cluster : BitVec 5)
  -- expert router (chapter 07)
  | routerSubmit (r : Req) (cluster : BitVec 5) (addr : Word)
  | gateLoad (cluster : BitVec 5)
  | route (cluster : BitVec 5)
  | routerItemDispatch (cluster : BitVec 5)
  | routerCompletion (cluster : BitVec 5)
  -- memory system (chapter 08)
  | accessAcceptance (w : Who) (idx : Nat)
  | pageReencrypt (addr : BitVec 40)
  | pageRetire (stack : BitVec 4) (lpage : Nat)
  | eccWriteback (addr : BitVec 40)
  | scrubComplete (idx : Nat)
  -- Mitre (chapter 09)
  | send (die : BitVec 2) (q : BitVec 12)
  | waitCount (die : BitVec 2) (q : BitVec 12)
  | queueSetup (die : BitVec 2) (q : BitVec 12)
  | peerSetup (die : BitVec 2) (q : BitVec 12)
  | peerCmdRekey (die : BitVec 2) (q : BitVec 12)
  | peerCmdReset (die : BitVec 2) (q : BitVec 12)
  | peerCmdRemove (die : BitVec 2) (q : BitVec 12)
  | peerCmdQuery (die : BitVec 2) (q : BitVec 12)
  | recv (die : BitVec 2) (q : BitVec 12)
  | sendPacketTransmit (peer : BitVec 22)
  | mitreData (f : Frame)
  | mitreZero (f : Frame)
  | mitreAck (f : Frame)
  | creditReq (f : Frame)
  | nonMitreFrame (f : Frame)
  | pctFetchComplete (peer : BitVec 22)
  | ackDelayExpiry (peer : BitVec 22)
  | retransmitTimeout (peer : BitVec 22)
  | messageAbandon (peer : BitVec 22) (msn : BitVec 32)
  | rxKeyRelease (peer : BitVec 22)
  | rekeyDue (peer : BitVec 22)
  | keyExhausted (peer : BitVec 22)
  | cqSpaceResume (die : BitVec 2) (cq : BitVec 10)
  | portUp (port : BitVec 3) (status : Word)
  | portDown (port : BitVec 3) (status : Word)
  -- Dresser and Joist (chapter 10)
  | qselWrite (r : Req) (die : BitVec 2) (q : BitVec 12)
  | qcmdConfigure (r : Req) (die : BitVec 2)
  | qcmdFlush (r : Req) (die : BitVec 2)
  | qcmdDisable (r : Req) (die : BitVec 2)
  | qcmdEnable (r : Req) (die : BitVec 2)
  | hostPost (die : BitVec 2) (item : Word)
  | rdReq (die : BitVec 2) (lane : BitVec 6) (p : JPkt)
  | rdResp (die : BitVec 2) (lane : BitVec 6) (p : JPkt)
  | wr (die : BitVec 2) (lane : BitVec 6) (p : JPkt)
  | joistAtom (die : BitVec 2) (lane : BitVec 6) (p : JPkt)
  | wrAck (die : BitVec 2) (lane : BitVec 6) (p : JPkt)
  | linkReplay (die : BitVec 2) (lane : BitVec 6)
  | linkDown (die : BitVec 2) (lane : BitVec 6)
  | linkUp (die : BitVec 2) (lane : BitVec 6) (dev : BitVec 6) (partnerLane : BitVec 6)
  -- root of trust (chapter 11)
  | doorbell
  | psubmit (w : Who) (addr : Word)
  | getInfo
  | derive
  | invalidate
  | invalidateComplete
  | rearm
  | slotDestroy
  | keyToSeed
  | ownerReplace
  | ownerConfirm
  | ownerWindowEnd (slot : BitVec 8)
  | wrapToOwner
  | chalresp
  -- partitions (chapter 12), host interface, Trim store, spares, power requests
  | partCreate
  | partTeardown
  | bundleLoad
  | attest
  | openRegion
  | trimRead
  | trimWrite
  | coreRemap
  | clusterRemap
  | laneSpare
  | faultLogRead
  | powerSetActive
  | powerSetDoze
  | powerSetSleep
  | dieERetentionReturn
  | keyLoad (slot : BitVec 8) (mask : BitVec 16)
  | remaskSweep
  | remaskAgeLimit
  | brambleAlarm (sensor : BitVec 3) (keyop : Bool)
  -- Seedbed (chapter 13)
  | sourceBlockEnd (samples : List (BitVec 4 × List Byte))
  | healthTestFail (src : BitVec 4) (samples : List Byte)
  | sourceStartupPass (src : BitVec 4)
  | seedConditioned
  | drbgReseed
  | randRead (r : Req)
  | rawRead (r : Req)
  | rawModeEnter (src : BitVec 4)
  | rawModeExit
  -- Event Controller (chapter 14)
  | eventLineSample (src : BitVec 12)
  | eventRoute
  | moderationTimeout (t : BitVec 6)
  | complete (src : BitVec 12)
  | tgtRdWrite (t : BitVec 6) (count : BitVec 32)
  | tgtEnable (cfg : BitVec 32)
  | enSet (src : BitVec 12)
  | enClr (src : BitVec 12)
  | enpendWrite (n : BitVec 8) (val : BitVec 32)
  | gateHoldWrite (hold : Bool)
  | hostD3hot
  | busMasterResume
  -- register pages, Gauge, Journal (chapter 16)
  | gaugeTrig
  | gaugeInEdge
  | snapshotLatch (page : BitVec 18)
  | gaugeDone
  | registerWrite (r : Req) (addr : Word) (size : Nat) (val : Word)
  | journalCapture
  | disableReq (r : Req) (page : BitVec 18)
  | disableComplete (page : BitVec 18)
  | enableResume (r : Req) (page : BitVec 18)
  | softReset (r : Req) (page : BitVec 18)
  | evtSet (r : Req) (page : BitVec 18) (val : BitVec 32)
  | evtPendingClear (r : Req) (page : BitVec 18) (val : BitVec 32)
  -- host interface, wear, power, faults (chapters 15, 17, 18, 19)
  | bar2Read (off : BitVec 36) (len : Nat)
  | bar2Write (off : BitVec 36) (data : List Byte)
  | mctpMessage (msg : List Byte)
  | pldmFirmwareUpdate (img : FwImage)
  | wearThreshold (kind : BitVec 3) (unit : BitVec 10)
  | wearHotTick (kind : BitVec 3) (unit : BitVec 10) (celsius : BitVec 8)
  | sparesRecordWrite
  | wearCounterSave
  | ledgerEpoch (d : EpochDemand)
  | tempReading (celsius : BitVec 8)
  | pllLockLoss (die : BitVec 3) (pll : BitVec 2)
  | controlUe (pageId : BitVec 24)
  | rtpFirmwareException (code : BitVec 32)
  | rtpWatchdogExpiry (code : BitVec 32)
  | thermtrip
  | porAssert (cause : BitVec 4)
  | porRelease (env : BootEnv)
  | pcieReset (kind : PcieResetKind)
  | functionLevelReset
  | pcieLinkUp (width : BitVec 6) (speed : BitVec 3)
  | pcieLinkDown
  | perstRelease
  | busMasterDisable
  | vcCreditGrant (die : BitVec 2) (lane : BitVec 6) (cls : BitVec 2) (cells : BitVec 6)
  | teardownLimit
  | journalEntryAbsorbed
  | failureLeavesWindow
  | drbgGenerate
  | testAccessUnlock
  | registerRead (r : Req) (addr : Word) (size : Nat)
deriving DecidableEq, Repr

end Sys2Proof
end

