-- ==== Sys2Proof/Decode.lean ====
section
/-!
DEFINITION. The operation table gives its rows no bits, so decodeTableWord answers none. The instruction words
of the threads (R75 to R77, Tables 3.4 to 3.7) are decoded here: a word is one command of its thread, or
illegal. The encoder beside it is written from the same tables.
-/

namespace Sys2Proof

/-- The command that a word of the operation table spells: the table gives no bits, so none. -/
def decodeTableWord (_nbits _w : Nat) : Option Instr := none

/-- Bits [lo + n − 1 : lo] of an instruction word. -/
def wbits (v : BitVec 32) (lo n : Nat) : BitVec n := v.extractLsb' lo n

/-- ALU functions (Table 3.6). -/
def decodeAlu (w : Who) (gp : BitVec 3) (rd ra rb : BitVec 5) (func : BitVec 8) : Option Instr :=
  match func.toNat with
  | 0x00 => some (.add w gp rd ra rb)
  | 0x01 => some (.sub w gp rd ra rb)
  | 0x02 => some (.and w gp rd ra rb)
  | 0x03 => some (.or w gp rd ra rb)
  | 0x04 => some (.xor w gp rd ra rb)
  | 0x05 => some (.shl w gp rd ra rb)
  | 0x06 => some (.shr w gp rd ra rb)
  | 0x07 => some (.sra w gp rd ra rb)
  | 0x08 => some (.mul w gp rd ra rb)
  | 0x09 => some (.mulhu w gp rd ra rb)
  | 0x0A => some (.min w gp rd ra rb)
  | 0x0B => some (.max w gp rd ra rb)
  | _ => none

/-- ATOM functions (Table 3.7): bit 7 zero, ORDER [6:5], SIZE [4], OP [3:0]; LFADD needs SIZE 0. -/
def decodeAtom (w : Who) (gp : BitVec 3) (rd ra rb : BitVec 5) (func : BitVec 8) : Option Instr :=
  let order : BitVec 2 := func.extractLsb' 5 2
  let is64 := func.getLsbD 4
  if func.getLsbD 7 then none
  else match func.toNat % 16 with
    | 0 => some (.fadd w gp rd ra rb order is64)
    | 1 => some (.swap w gp rd ra rb order is64)
    | 2 => some (.cas w gp rd ra rb order is64)
    | 3 => some (.atomMax w gp rd ra rb order is64)
    | 4 => if is64 then none else some (.atomLfadd w gp rd ra rb order)
    | _ => none

/-- The command that an instruction word makes its thread execute; none where the word is illegal (R77). -/
def decodeThreadWord (w : Who) (v : BitVec 32) : Option Instr :=
  let gp := wbits v 23 3
  let rd := wbits v 18 5
  let ra := wbits v 13 5
  let rb := wbits v 8 5
  let func := wbits v 0 8
  let imm := wbits v 0 13
  let pd := wbits v 20 3
  let pe := wbits v 17 3
  let cra := wbits v 12 5
  match (wbits v 26 6).toNat with
  | 0x01 => decodeAlu w gp rd ra rb func
  | 0x02 => some (.addi w gp rd ra imm)
  | 0x03 => some (.andi w gp rd ra imm)
  | 0x04 => some (.ori w gp rd ra imm)
  | 0x05 => some (.xori w gp rd ra imm)
  | 0x06 => if wbits v 6 7 = 0 then some (.shli w gp rd ra (wbits v 0 6)) else none
  | 0x07 => if wbits v 6 7 = 0 then some (.shri w gp rd ra (wbits v 0 6)) else none
  | 0x08 => if wbits v 6 7 = 0 then some (.srai w gp rd ra (wbits v 0 6)) else none
  | 0x09 => some (.movz w gp rd (wbits v 16 2) (wbits v 0 16))
  | 0x0A => some (.movk w gp rd (wbits v 16 2) (wbits v 0 16))
  | 0x0C =>
    if wbits v 0 3 = 0 ∧ wbits v 3 4 ≤ 9 ∧ ¬ (pd = pe ∧ pd ≠ 0) then
      some (.cmp w gp pd pe cra (wbits v 7 5) (wbits v 3 4))
    else none
  | 0x0D =>
    if wbits v 8 4 ≤ 9 ∧ ¬ (pd = pe ∧ pd ≠ 0) then
      some (.cmpi w gp pd pe cra (wbits v 8 4) (wbits v 0 8))
    else none
  | 0x0E => if wbits v 0 12 = 0 then some (.plog w gp pd pe (wbits v 14 3) (wbits v 12 2)) else none
  | 0x10 => some (.ld8 w gp rd ra imm)
  | 0x11 => some (.ld16 w gp rd ra imm)
  | 0x12 => some (.ld32 w gp rd ra imm)
  | 0x13 => some (.ld64 w gp rd ra imm)
  | 0x14 => some (.lds8 w gp rd ra imm)
  | 0x15 => some (.lds16 w gp rd ra imm)
  | 0x16 => some (.lds32 w gp rd ra imm)
  | 0x18 => some (.st8 w gp rd ra imm)
  | 0x19 => some (.st16 w gp rd ra imm)
  | 0x1A => some (.st32 w gp rd ra imm)
  | 0x1B => some (.st64 w gp rd ra imm)
  | 0x1C => if rb = 0 ∧ wbits v 3 5 = 0 then some (.lda w gp rd ra (wbits v 0 2) (v.getLsbD 2)) else none
  | 0x1D => if rb = 0 ∧ wbits v 2 6 = 0 then some (.stl w gp rd ra (wbits v 0 2)) else none
  | 0x20 => decodeAtom w gp rd ra rb func
  | 0x24 => some (.br w gp (wbits v 0 23))
  | 0x25 => some (.call w gp (wbits v 0 23))
  | 0x26 => if rb = 0 ∧ func = 0 then some (.jalr w gp rd ra) else none
  | 0x28 => some (.beq w gp rd ra imm)
  | 0x29 => some (.bne w gp rd ra imm)
  | 0x2A => some (.blt w gp rd ra imm)
  | 0x2B => some (.bge w gp rd ra imm)
  | 0x30 =>
    if rd = 0 ∧ ra = 0 ∧ rb = 0 then
      match func.toNat with
      | 1 => some (.fenceAcq w gp)
      | 2 => some (.fenceRel w gp)
      | 3 => some (.fenceFull w gp)
      | 4 => some (.ifence w gp)
      | _ => none
    else none
  | 0x31 =>
    if rd = 0 then
      match func.toNat with
      | 0 => some (.barSync w gp ra rb)
      | 1 => some (.barArrive w gp ra rb)
      | _ => none
    else none
  | 0x34 => if rd = 0 ∧ wbits v 1 7 = 0 then some (.issue w gp ra rb (v.getLsbD 0)) else none
  | 0x35 => if wbits v 18 3 = 0 then some (.waitc w gp (wbits v 21 2) ra imm) else none
  | 0x36 => if wbits v 6 2 = 0 ∧ wbits v 0 6 ≤ 40 then some (.park w gp rd ra rb (wbits v 0 6)) else none
  | 0x37 => if rb = 0 ∧ wbits v 4 4 = 0 then some (.next w gp rd ra (wbits v 0 3) (v.getLsbD 3)) else none
  | 0x38 => if rd = 0 ∧ func = 0 then some (.put w gp ra rb) else none
  | 0x3C => if ra = 0 ∧ rb = 0 ∧ func ≤ 15 then some (.mfs w gp rd (wbits v 0 4)) else none
  | 0x3D => if rd = 0 ∧ rb = 0 ∧ func ≤ 15 then some (.mts w gp (wbits v 0 4) ra) else none
  | 0x3E => if wbits v 0 23 = 0 then some (.halt w gp) else none
  | _ => none

/-! ### The encoder -/

/-- Format R. -/
def encR (op : BitVec 6) (gp : BitVec 3) (rd ra rb : BitVec 5) (func : BitVec 8) : BitVec 32 :=
  op ++ gp ++ rd ++ ra ++ rb ++ func

/-- Format I. -/
def encI (op : BitVec 6) (gp : BitVec 3) (rd ra : BitVec 5) (imm : BitVec 13) : BitVec 32 :=
  op ++ gp ++ rd ++ ra ++ imm

/-- Format M. -/
def encM (op : BitVec 6) (gp : BitVec 3) (rd : BitVec 5) (hw : BitVec 2) (imm : BitVec 16) : BitVec 32 :=
  op ++ gp ++ rd ++ hw ++ imm

/-- Format J. -/
def encJ (op : BitVec 6) (gp : BitVec 3) (off : BitVec 23) : BitVec 32 := op ++ gp ++ off

/-- The func byte of ATOM (Table 3.7). -/
def atomFunc (order : BitVec 2) (is64 : Bool) (op : BitVec 4) : BitVec 8 :=
  (0 : BitVec 1) ++ order ++ BitVec.ofBool is64 ++ op

/-- The word of a thread instruction; none for a command that no instruction word spells. -/
def encodeThreadWord : Instr → Option (BitVec 32)
  | .add _ gp rd ra rb => some (encR 0x01 gp rd ra rb 0x00)
  | .sub _ gp rd ra rb => some (encR 0x01 gp rd ra rb 0x01)
  | .and _ gp rd ra rb => some (encR 0x01 gp rd ra rb 0x02)
  | .or _ gp rd ra rb => some (encR 0x01 gp rd ra rb 0x03)
  | .xor _ gp rd ra rb => some (encR 0x01 gp rd ra rb 0x04)
  | .shl _ gp rd ra rb => some (encR 0x01 gp rd ra rb 0x05)
  | .shr _ gp rd ra rb => some (encR 0x01 gp rd ra rb 0x06)
  | .sra _ gp rd ra rb => some (encR 0x01 gp rd ra rb 0x07)
  | .mul _ gp rd ra rb => some (encR 0x01 gp rd ra rb 0x08)
  | .mulhu _ gp rd ra rb => some (encR 0x01 gp rd ra rb 0x09)
  | .min _ gp rd ra rb => some (encR 0x01 gp rd ra rb 0x0A)
  | .max _ gp rd ra rb => some (encR 0x01 gp rd ra rb 0x0B)
  | .addi _ gp rd ra imm => some (encI 0x02 gp rd ra imm)
  | .andi _ gp rd ra imm => some (encI 0x03 gp rd ra imm)
  | .ori _ gp rd ra imm => some (encI 0x04 gp rd ra imm)
  | .xori _ gp rd ra imm => some (encI 0x05 gp rd ra imm)
  | .shli _ gp rd ra sh => some (encI 0x06 gp rd ra ((0 : BitVec 7) ++ sh))
  | .shri _ gp rd ra sh => some (encI 0x07 gp rd ra ((0 : BitVec 7) ++ sh))
  | .srai _ gp rd ra sh => some (encI 0x08 gp rd ra ((0 : BitVec 7) ++ sh))
  | .movz _ gp rd hw imm => some (encM 0x09 gp rd hw imm)
  | .movk _ gp rd hw imm => some (encM 0x0A gp rd hw imm)
  | .cmp _ gp pd pe ra rb cond =>
    some ((0x0C : BitVec 6) ++ gp ++ pd ++ pe ++ ra ++ rb ++ cond ++ (0 : BitVec 3))
  | .cmpi _ gp pd pe ra cond imm => some ((0x0D : BitVec 6) ++ gp ++ pd ++ pe ++ ra ++ cond ++ imm)
  | .plog _ gp pd pa pb op => some ((0x0E : BitVec 6) ++ gp ++ pd ++ pa ++ pb ++ op ++ (0 : BitVec 12))
  | .ld8 _ gp rd ra imm => some (encI 0x10 gp rd ra imm)
  | .ld16 _ gp rd ra imm => some (encI 0x11 gp rd ra imm)
  | .ld32 _ gp rd ra imm => some (encI 0x12 gp rd ra imm)
  | .ld64 _ gp rd ra imm => some (encI 0x13 gp rd ra imm)
  | .lds8 _ gp rd ra imm => some (encI 0x14 gp rd ra imm)
  | .lds16 _ gp rd ra imm => some (encI 0x15 gp rd ra imm)
  | .lds32 _ gp rd ra imm => some (encI 0x16 gp rd ra imm)
  | .st8 _ gp rs ra imm => some (encI 0x18 gp rs ra imm)
  | .st16 _ gp rs ra imm => some (encI 0x19 gp rs ra imm)
  | .st32 _ gp rs ra imm => some (encI 0x1A gp rs ra imm)
  | .st64 _ gp rs ra imm => some (encI 0x1B gp rs ra imm)
  | .lda _ gp rd ra size sext =>
    some (encR 0x1C gp rd ra 0 ((0 : BitVec 5) ++ BitVec.ofBool sext ++ size))
  | .stl _ gp rs ra size => some (encR 0x1D gp rs ra 0 ((0 : BitVec 6) ++ size))
  | .fadd _ gp rd ra rb order is64 => some (encR 0x20 gp rd ra rb (atomFunc order is64 0))
  | .swap _ gp rd ra rb order is64 => some (encR 0x20 gp rd ra rb (atomFunc order is64 1))
  | .cas _ gp rd ra rb order is64 => some (encR 0x20 gp rd ra rb (atomFunc order is64 2))
  | .atomMax _ gp rd ra rb order is64 => some (encR 0x20 gp rd ra rb (atomFunc order is64 3))
  | .atomLfadd _ gp rd ra rb order => some (encR 0x20 gp rd ra rb (atomFunc order false 4))
  | .br _ gp off => some (encJ 0x24 gp off)
  | .call _ gp off => some (encJ 0x25 gp off)
  | .jalr _ gp rd ra => some (encR 0x26 gp rd ra 0 0)
  | .beq _ gp ra rb off => some (encI 0x28 gp ra rb off)
  | .bne _ gp ra rb off => some (encI 0x29 gp ra rb off)
  | .blt _ gp ra rb off => some (encI 0x2A gp ra rb off)
  | .bge _ gp ra rb off => some (encI 0x2B gp ra rb off)
  | .fenceAcq _ gp => some (encR 0x30 gp 0 0 0 1)
  | .fenceRel _ gp => some (encR 0x30 gp 0 0 0 2)
  | .fenceFull _ gp => some (encR 0x30 gp 0 0 0 3)
  | .ifence _ gp => some (encR 0x30 gp 0 0 0 4)
  | .barSync _ gp ra rb => some (encR 0x31 gp 0 ra rb 0)
  | .barArrive _ gp ra rb => some (encR 0x31 gp 0 ra rb 1)
  | .issue _ gp ra rb remote => some (encR 0x34 gp 0 ra rb ((0 : BitVec 7) ++ BitVec.ofBool remote))
  | .waitc _ gp cnt ra imm => some ((0x35 : BitVec 6) ++ gp ++ cnt ++ (0 : BitVec 3) ++ ra ++ imm)
  | .park _ gp rd ra rb t => some (encR 0x36 gp rd ra rb ((0 : BitVec 2) ++ t))
  | .next _ gp rd ra pd nowait =>
    some (encR 0x37 gp rd ra 0 ((0 : BitVec 4) ++ BitVec.ofBool nowait ++ pd))
  | .put _ gp ra rb => some (encR 0x38 gp 0 ra rb 0)
  | .mfs _ gp rd sr => some (encR 0x3C gp rd 0 0 ((0 : BitVec 4) ++ sr))
  | .mts _ gp sr ra => some (encR 0x3D gp 0 ra 0 ((0 : BitVec 4) ++ sr))
  | .halt _ gp => some (encJ 0x3E gp 0)
  | _ => none

end Sys2Proof
end

