-- ==== Sys2Proof/Machine/Codes.lean ====
section
/-!
DEFINITION. The 8-bit status codes of the device (Table 0.4 and the block tables named beside them), the
thread fault causes (Table 3.11), and the two tests on a status (R7, R9).
-/

namespace Sys2Proof.Machine

/-- The 8-bit status of R7. -/
abbrev Status := BitVec 8

/-! Table 0.4. -/
abbrev stOk : Status := 0x00
abbrev stInexact : Status := 0x01
abbrev stSpilled : Status := 0x02
abbrev stOverflow : Status := 0x03
abbrev stNoCredit : Status := 0x10
abbrev stKeyStale : Status := 0x20
abbrev stKeyMismatch : Status := 0x21
abbrev stKeyDenied : Status := 0x22
abbrev stLevel : Status := 0x30
abbrev stUncertain : Status := 0x31
abbrev stIntegrity : Status := 0x40
abbrev stOrphan : Status := 0x41
abbrev stPeerReset : Status := 0x42
abbrev stUnreachable : Status := 0x50
abbrev stFlushed : Status := 0x51
abbrev stRngNotReady : Status := 0x60
abbrev stRngFailed : Status := 0x61
abbrev stSizeExceeds : Status := 0x70
abbrev stReleaseDenied : Status := 0x72
abbrev stDisabled : Status := 0x7E
abbrev stFailsafe : Status := 0x7F

/-! Tables 1.5, 2.7 and R86. -/
abbrev stUnmapped : Status := 0x84
abbrev stBound : Status := 0x85
abbrev stWindow : Status := 0x86
abbrev stFormat : Status := 0x87
abbrev stNonfinite : Status := 0x88
abbrev stTag : Status := 0x89

/-! Tables 4.6, 5.11, 6.9, 7.10 and 8.7. -/
abbrev stSlot : Status := 0x8A
abbrev stOperand : Status := 0x8B
abbrev stRpsAbsent : Status := 0x8C
abbrev stRpsInvalid : Status := 0x8D
abbrev stCtInvalid : Status := 0x8E
abbrev stNoiseBudget : Status := 0x8F
abbrev stRing : Status := 0x90
abbrev stReconRange : Status := 0x91
abbrev stSeedEmpty : Status := 0x92
abbrev stNoiseParam : Status := 0x93
abbrev stNoisePolicy : Status := 0x94
abbrev stCohort : Status := 0x95
abbrev stFrozenOverlap : Status := 0x96
abbrev stFreezeFull : Status := 0x97
abbrev stNsuBusy : Status := 0x98
abbrev stExportDenied : Status := 0x99
abbrev stTokenUnknown : Status := 0x9A
abbrev stSampleMismatch : Status := 0x9B
abbrev stRoute : Status := 0x9C
abbrev stRouteTable : Status := 0x9D
abbrev stRouterBusy : Status := 0x9E
abbrev stDma : Status := 0x9F

/-! Tables 9.10 and 10.7. -/
abbrev stMitre : Status := 0xA0
abbrev stTooLong : Status := 0xA1
abbrev stPeerInvalid : Status := 0xA2
abbrev stPeerFull : Status := 0xA3
abbrev stAbandoned : Status := 0xA4
abbrev stLinkLost : Status := 0xA5
abbrev stPool : Status := 0xA6
abbrev stNotEmpty : Status := 0xB9
abbrev stQueueInvalid : Status := 0xBA

/-! Tables 11.10, 12.8, 15.8, 16.8 and 17.6. -/
abbrev stKeyBusy : Status := 0xA7
abbrev stNodeFull : Status := 0xA8
abbrev stMbox : Status := 0xA9
abbrev stMboxBusy : Status := 0xAA
abbrev stRootBlocked : Status := 0xAB
abbrev stConfirm : Status := 0xAC
abbrev stPartInvalid : Status := 0xAD
abbrev stPartConflict : Status := 0xAE
abbrev stPartState : Status := 0xAF
abbrev stBundle : Status := 0xB0
abbrev stBundleAuth : Status := 0xB1
abbrev stDebug : Status := 0xB2
abbrev stSession : Status := 0xB3
abbrev stPowerBusy : Status := 0xB4
abbrev stTrim : Status := 0xB5
abbrev stTrimFlash : Status := 0xB6
abbrev stSpareNone : Status := 0xB7
abbrev stSpareBusy : Status := 0xB8

/-- What a check gives at a host-window segment whose VALID is clear: ADDR_UNMAPPED that counts in HWIN_FAULTS (R450). The model's
own code, which no status of the spec takes: `closed` stands for it wherever a status is reported. -/
abbrev stSegment : Status := 0xFE

/-- A status as it is reported. -/
def closed (s : Status) : Status := if s = stSegment then stUnmapped else s

/-- A failing status: s AND 0x7C nonzero (R9). -/
def failing (s : Status) : Bool := s &&& 0x7C ≠ 0

/-- Bit 7 is added to the codes 0x00 to 0x03 of an operation that was delayed (R7). -/
def withDelay (delayed : Bool) (s : Status) : Status := if delayed ∧ s ≤ 3 then s ||| 0x80 else s

/-! Thread fault causes, Table 3.11. -/
abbrev fcIllegal : BitVec 4 := 0x1
abbrev fcMisaligned : BitVec 4 := 0x2
abbrev fcUnmapped : BitVec 4 := 0x3
abbrev fcBound : BitVec 4 := 0x4
abbrev fcIntegrity : BitVec 4 := 0x5
abbrev fcRelease : BitVec 4 := 0x6
abbrev fcFetch : BitVec 4 := 0x7
abbrev fcEngine : BitVec 4 := 0x8
abbrev fcBarrier : BitVec 4 := 0x9
abbrev fcNoGrant : BitVec 4 := 0xA
abbrev fcSpecial : BitVec 4 := 0xB
abbrev fcLinkLost : BitVec 4 := 0xC
abbrev fcOrphan : BitVec 4 := 0xD

end Sys2Proof.Machine
end

