-- ==== Sys2Proof/Machine/RegMap.lean ====
section
/-!
DEFINITION. Where the register pages lie (R412, Table 16.1), what types they have, which event source they
drive (R367, Table 14.1), and the reset value of every word of every page. A page is named by its number: its
address less REGBASE, in units of 4 KiB. A register word has the key 1024 × page number + offset / 4.
-/

namespace Sys2Proof.Machine

/-- REGBASE (Table 1.4). -/
def regBase : Nat := 0xC000000000

/-! Page types (Table 16.1 and the chapters' register tables; MEMCRYPT, D2D and PCT by Table 14.1, log 22). -/
abbrev tyEsc : Nat := 0x01
abbrev tyMbox : Nat := 0x02
abbrev tyVault : Nat := 0x03
abbrev tySeedbed : Nat := 0x04
abbrev tyEvc : Nat := 0x05
abbrev tyGauge : Nat := 0x06
abbrev tyTrim : Nat := 0x07
abbrev tyJournal : Nat := 0x08
abbrev tyPcie : Nat := 0x09
abbrev tyClocks : Nat := 0x0A
abbrev tyLedger : Nat := 0x0B
abbrev tyBramble : Nat := 0x0C
abbrev tySpares : Nat := 0x0D
abbrev tyCluster : Nat := 0x10
abbrev tyCore : Nat := 0x11
abbrev tyMxe : Nat := 0x12
abbrev tyRge : Nat := 0x13
abbrev tyMkx : Nat := 0x14
abbrev tyNsu : Nat := 0x15
abbrev tyPress : Nat := 0x16
abbrev tyRouter : Nat := 0x17
abbrev tyHbmc : Nat := 0x18
abbrev tyMemcrypt : Nat := 0x19
abbrev tyD2d : Nat := 0x1A
abbrev tyMitre : Nat := 0x20
abbrev tyEth : Nat := 0x21
abbrev tyPct : Nat := 0x22
abbrev tyDresser : Nat := 0x23
abbrev tyJoist : Nat := 0x24
abbrev tyWicket : Nat := 0x25
abbrev tyPartition : Nat := 0x30

/-- A register page: of die E by type; of a compute die by type and index; of a physical cluster (0 to 35,
nine a die) or a physical core (0 to 611, seventeen a cluster) by its place in Table 16.1. -/
inductive Page where
  | dieE (ty : Nat)
  | die (d ty i : Nat)
  | cluster (p j : Nat)
  | core (q j : Nat)
deriving DecidableEq, Repr

/-- The number of a page (R412). -/
def Page.num : Page → Nat
  | .dieE ty => ty
  | .die d ty i => (d + 1) * 0x4000 + ty * 0x10 + i
  | .cluster p j => (p / 9 + 1) * 0x4000 + 0x1000 + (p % 9) * 0x100 + j
  | .core q j => (q / 17 / 9 + 1) * 0x4000 + 0x1000 + (q / 17 % 9) * 0x100 + 0x10 + (q % 17) * 8 + j

/-- The indices a type has on a compute die (Table 16.1). -/
def dieIndices (ty : Nat) : Nat :=
  if ty = tyHbmc ∨ ty = tyD2d then 4 else if ty = tyEth then 2
  else if ty = tyMemcrypt ∨ ty = tyMitre ∨ (tyPct ≤ ty ∧ ty ≤ tyWicket) then 1 else 0

/-- The page of a page number, where a block occupies it (R413). -/
def pageAt (n : Nat) : Option Page :=
  if n < 0x4000 then
    if (1 ≤ n ∧ n ≤ 0x0D) ∨ n = tyPartition then some (.dieE n) else none
  else if n < 0x14000 then
    let d := n / 0x4000 - 1
    let r := n % 0x4000
    if r < 0x1000 then
      if r % 16 < dieIndices (r / 16) then some (.die d (r / 16) (r % 16)) else none
    else
      let c := (r - 0x1000) / 0x100
      let x := r % 0x100
      if c < 9 then
        if x < 4 then some (.cluster (9 * d + c) x)
        else if 0x10 ≤ x ∧ (x - 0x10) / 8 < 17 ∧ (x - 0x10) % 8 < 4 then
          some (.core (17 * (9 * d + c) + (x - 0x10) / 8) ((x - 0x10) % 8))
        else none
      else none
  else none

/-- The type of a page (Table 16.1). -/
def Page.type : Page → Nat
  | .dieE ty => ty
  | .die _ ty _ => ty
  | .cluster _ j => [tyCluster, tyPress, tyNsu, tyRouter].getD j 0
  | .core _ j => [tyCore, tyMxe, tyRge, tyMkx].getD j 0

/-- PAGE_ID.INSTANCE of a page (Table 16.1). -/
def Page.inst : Page → Nat
  | .dieE _ => 0
  | .die d ty i => if ty = tyEth then 2 * d + i else if ty = tyHbmc ∨ ty = tyD2d then 4 * d + i else d
  | .cluster p _ => p % 9
  | .core q _ => 17 * (q / 17 % 9) + q % 17

/-- The compute die a page belongs to. -/
def Page.dieNo : Page → Option Nat
  | .dieE _ => none
  | .die d _ _ => some d
  | .cluster p _ => some (p / 9)
  | .core q _ => some (q / 153)

/-- The event source that a page drives (Table 14.1). -/
def Page.source : Page → Nat
  | .dieE ty => ty
  | .die d ty i =>
    0x100 + d * 0x3C0 + 0x2C0 +
      (if ty = tyMitre then 0 else if ty = tyEth then 1 + i else if ty = tyPct then 3
       else if ty = tyDresser then 4 else if ty = tyJoist then 5 else if ty = tyWicket then 6
       else if ty = tyHbmc then 7 + i else if ty = tyD2d then 11 else 12)
  | .cluster p j => 0x100 + (p / 9) * 0x3C0 + 0x280 + 4 * (p % 9) + j
  | .core q j => 0x100 + (q / 153) * 0x3C0 + (17 * (q / 17 % 9) + q % 17) * 4 + j

/-- The pages that drive an event source (Table 14.1): four for D2D, none for a reserved number. -/
def sourcePages (n : Nat) : List Page :=
  if n < 0x100 then
    match pageAt n with
    | some p => if n = tyEvc then [] else [p]
    | none => []
  else
    let d := (n - 0x100) / 0x3C0
    let r := (n - 0x100) % 0x3C0
    if 4 ≤ d then []
    else if r < 153 * 4 then [.core (153 * d + r / 4) (r % 4)]
    else if 0x280 ≤ r ∧ r < 0x280 + 36 then [.cluster (9 * d + (r - 0x280) / 4) (r % 4)]
    else if r = 0x2C0 then [.die d tyMitre 0]
    else if r = 0x2C1 then [.die d tyEth 0]
    else if r = 0x2C2 then [.die d tyEth 1]
    else if r = 0x2C3 then [.die d tyPct 0]
    else if r = 0x2C4 then [.die d tyDresser 0]
    else if r = 0x2C5 then [.die d tyJoist 0]
    else if r = 0x2C6 then [.die d tyWicket 0]
    else if 0x2C7 ≤ r ∧ r ≤ 0x2CA then [.die d tyHbmc (r - 0x2C7)]
    else if r = 0x2CB then (List.range 4).map (fun i => .die d tyD2d i)
    else if r = 0x2CC then [.die d tyMemcrypt 0]
    else []

/-- The reset value of the word at an offset of a page of a type (Tables 3.10 to 18.5). -/
def resetOf (ty off : Nat) : Reg32 :=
  if off = 0x008 then 1
  else if off = 0x020 then 1
  else if ty = tyMitre ∧ off = 0x104 then 0x37190008
  else if ty = tyMitre ∧ off = 0x108 then 0x40
  else if ty = tyHbmc ∧ off = 0x110 then 0x1000000
  else if ty = tyDresser ∧ off = 0x100 then 0x9F00
  else if ty = tyVault ∧ off = 0x110 then 4
  else if ty = tyPartition ∧ off = 0x118 then 1
  else if ty = tySeedbed ∧ off = 0x108 then 0x14
  else if ty = tyGauge ∧ off = 0x104 then 0x80008
  else if ty = tyLedger ∧ off = 0x100 then 0x708
  else if ty = tyLedger ∧ off = 0x104 then 0x802
  else if ty = tyLedger ∧ off = 0x110 then 0x101010
  else if ty = tyLedger ∧ off = 0x11C then 0x6E64
  else if ty = tyClocks ∧ off = 0x120 then 3
  else 0

/-- The reset value of a register word by its key. -/
def regReset (key : Nat) : Reg32 :=
  match pageAt (key / 1024) with
  | some p => resetOf p.type (key % 1024 * 4)
  | none => 0

end Sys2Proof.Machine
end

