-- ==== Sys2Proof/Machine/Sparse.lean ====
section
/-!
DEFINITION. Finite maps from numbers as sorted lists: the one way this model holds memory, register words and
per-unit state, so that equal contents are equal data. A key without an entry holds the default `d k`. A write
keeps the keys strictly rising and lists no entry equal to its default (Sparse.wf).
-/

namespace Sys2Proof.Machine

/-- What key k holds: its first entry, else the default. -/
def sget {α : Type} (d : Nat → α) : List (Nat × α) → Nat → α
  | [], k => d k
  | (k', v) :: l, k => if k' = k then v else sget d l k

/-- Insertion of an entry before the first larger key. -/
def sins {α : Type} (k : Nat) (v : α) : List (Nat × α) → List (Nat × α)
  | [] => [(k, v)]
  | (k', v') :: l => if k < k' then (k, v) :: (k', v') :: l else (k', v') :: sins k v l

/-- The map without key k. -/
def sdel {α : Type} (k : Nat) (l : List (Nat × α)) : List (Nat × α) := l.filter (fun e => e.1 ≠ k)

/-- The map with v at key k: the entry is dropped where v is the default. -/
def sput {α : Type} [DecidableEq α] (d : Nat → α) (l : List (Nat × α)) (k : Nat) (v : α) :
    List (Nat × α) :=
  if v = d k then sdel k l else sins k v (sdel k l)

/-- The canonical form: strictly rising keys, and no entry equal to its default. -/
abbrev Sparse.wf {α : Type} [DecidableEq α] (d : Nat → α) (l : List (Nat × α)) : Prop :=
  l.Pairwise (fun a b => a.1 < b.1) ∧ ∀ e ∈ l, e.2 ≠ d e.1

/-- Bytes written from key a on. -/
def sputs {α : Type} [DecidableEq α] (d : Nat → α) (l : List (Nat × α)) (a : Nat) :
    List α → List (Nat × α)
  | [] => l
  | v :: vs => sputs d (sput d l a v) (a + 1) vs

end Sys2Proof.Machine
end

