-- ==== Sys2Proof/Config.lean ====
section
/-!
DEFINITION. The free values of the model: constants without a body. Each stands for a value that the spec
leaves open (a random draw, a rounding that is only bounded, the content of memory outside the device) or for
a cryptographic function of a published standard that the spec names and this model does not compute.
Nothing can evaluate them, so a statement about them holds for every value.
-/

namespace Sys2Proof

/-- What host memory holds at a bus address nothing in the model has written (log 5). -/
opaque Config.hostByte : Nat → Byte

/-- The 256-bit root blown into the fuses at the factory (R307). -/
opaque Config.fuseRoot : BitVec 256

/-- The 16 ASCII bytes of the Treoth serial number (R342, R428): byte i. -/
opaque Config.serialByte : Nat → Byte

/-- Draw n of a noise sampler (R167, R168): the Seedbed output that its CTR_DRBG has taken in since the session began,
mechanism bit, PNUM, PDEN, and the number of the draw. -/
opaque Config.noiseSample : List Byte → Bool → BitVec 32 → BitVec 32 → Nat → Int

/-- Draw n of a stochastic-rounding generator (R47: an AES-256 counter-mode generator, whose layout the spec does not
give): its 48-byte seed and the position. -/
opaque Config.srDraw : List Byte → Nat → BitVec 32

/-- GELU of an FP32 value as the device rounds it, held within 2 units in the last place (R122, log 18). -/
opaque Config.gelu : BitVec 32 → BitVec 32

/-- SiLU of an FP32 value as the device rounds it, held within 2 units in the last place (R122, log 18). -/
opaque Config.silu : BitVec 32 → BitVec 32

/-- Softmax weight i of a list of FP32 scores as the device rounds it, held within 2 units in the last place (R193,
log 18). -/
opaque Config.softmax : List (BitVec 32) → Nat → BitVec 32

/-- ML-KEM-1024 decapsulation (FIPS 203): the 64-byte seed d ‖ z and the ciphertext give 32 bytes. -/
opaque Config.mlkemDecaps : List Byte → List Byte → List Byte

/-- ML-KEM-1024 encapsulation to a public key with the given coins: ciphertext (1,568) and secret (32). -/
opaque Config.mlkemEncaps : List Byte → List Byte → List Byte × List Byte

/-- ECDH over P-384: the private scalar and the peer's public key give the shared x-coordinate (48 bytes). -/
opaque Config.ecdhX : Nat → List Byte → List Byte

/-- The uncompressed P-384 public key (97 bytes) of a private scalar. -/
opaque Config.p384Public : Nat → List Byte

/-- The order of the P-384 group (R318). -/
opaque Config.p384Order : Nat

/-- The ML-DSA-65 public key (1,952 bytes) of a 32-byte seed (FIPS 204). -/
opaque Config.mldsaPublic : List Byte → List Byte

/-- The ML-DSA-65 signature (3,309 bytes) under a seed, with random bytes, of a message, with the context string of R342. -/
opaque Config.mldsaSign : List Byte → List Byte → List Byte → List Byte

/-- The ECDSA P-384 with SHA-384 signature r ‖ s (96 bytes) under a private scalar, with random bytes, of a message. -/
opaque Config.ecdsaSign : Nat → List Byte → List Byte → List Byte

/-- Whether a page type has a trim window (PAGE_CAP.TRIM): fixed per type, not stated (R415). -/
opaque Config.capTrim : Nat → Bool

/-- Whether a page type supports SOFT_RESET (PAGE_CAP.SOFT_RESET): fixed per type, not stated (R415). -/
opaque Config.capSoftReset : Nat → Bool

/-- Whether a page type takes part in Gauge snapshots (PAGE_CAP.SHADOW): fixed per type, not stated (R415). -/
opaque Config.capShadow : Nat → Bool

/-- The RTP firmware's answer to an MCTP message it serves (R451), whose layout other standards give: the count of free
values drawn so far, what its sensors report (LEDGER.ESTIMATE, LEDGER.TEMP.MAX, POWER.STATE, RTP_STATE.MODE), and the
request's bytes. -/
opaque Config.mctpReply : Nat → Nat → Nat → Nat → Nat → List Byte → List Byte

/-- How many elements a stopped command had written (R135, R172, R211: of unreported length): the count of
free values drawn so far. -/
opaque Config.stopPrefix : Nat → Nat

/-- What happens to the device from outside its logic at one moment: nothing; an error of two bits in the line of Press or
Drawer at a device address (R207); an HBM item, by its number, whose stored MAC no longer fits it, or an uncorrectable error
that the stack reports there (R223); a code word that a Joist lane's FEC corrects (R300); a disagreement episode of the
thermal sensor of a site (R434). -/
inductive Upset where
  | quiet
  | line (addr : Nat)
  | item (n : Nat) (diff : BitVec 64)
  | fec (die lane : Nat)
  | sensor (site : Nat)
deriving DecidableEq, Repr, Inhabited

/-- What happens in an AON cycle: the count of free values drawn so far, and TIME. -/
opaque Config.upset : Nat → Nat → Upset

/-- PME_En, as the host's write of the power-state field that enters D3hot leaves it (R379, log 88): the count of free values
drawn so far. -/
opaque Config.pmeEnable : Nat → Bool

/-- What the tamper sensors 1 to 6 give (R330): the count of free values drawn so far, and TIME. -/
opaque Config.sensors : Nat → Nat → BitVec 6

/-- The second key of AES-256-XTS, of a memory key of 256 bits (R218 names one key). -/
opaque Config.tweakKey : List Byte → List Byte

/-- The address of line n of a level of the freshness tree, in the metadata of its stack (R219, Table 1.4 give no layout). -/
opaque Config.treeAddress : Nat → Nat → Nat

/-- Whether, of two RGEs that add into one accumulator word, the later one's result stands (R154: one of them): the count of
free values drawn so far, and the word's address. -/
opaque Config.raceWinner : Nat → Nat → Bool

/-- What a working area or a stopped ciphertext body holds (R148, R135: undefined): the count of free values
drawn so far, and the number of the 8-byte word. -/
opaque Config.scratchWord : Nat → Nat → Word

/-- The inverse of a number modulo one that shares a factor with it: the arithmetic of a modulus that software
must not load (R137) or of a T that a dropped prime divides (R144): not stated. -/
opaque Config.noInverse : Nat → Nat → Nat

/-- T16 of a ring-parameter set without a plaintext modulus (R137: log2 of zero): not stated. -/
opaque Config.t16Zero : Nat

/-- What MODDOWN subtracts for a dropped limb in the ring-only scheme (R144 states CKKS, BFV and BGV): the
centred value and the dropped prime. -/
opaque Config.ringDrop : Int → Nat → Int

/-- A mask element in ZQ (R153 admits it, Table 5.9 gives sizes for Z32 and Z64 only): seed and element. -/
opaque Config.zqMask : List Byte → Nat → Nat

/-- How often arbiters passed over the requests and packets of an operation of Mitre or of an expert router (R299), for one
whose class can be delayed: the count of free values drawn so far. -/
opaque Config.freeWaits : Nat → BitVec 24

/-- The layout of a peer context in its backing area (R242), which the spec does not give: the count of free
values drawn so far, and the byte of the 256. -/
opaque Config.contextByte : Nat → Nat → Byte

/-- The priority that the RTP declares as an event target (R371), by the count of routing attempts. -/
opaque Config.rtpPriority : Nat → BitVec 4

/-- The mask of group 15, which the RTP writes (R373), by the count of free values drawn so far. -/
opaque Config.rtpGroup : Nat → BitVec 65

/-- Whether the RTP takes a further event record (R371), by the count of routing attempts. -/
opaque Config.rtpRoom : Nat → Bool

/-- Whether the RTP takes a further event record of class C3 (R372), by the count of routing attempts. -/
opaque Config.rtpHalf : Nat → Bool

/-- The mask under which a key slot holds its two shares (R307, R313): the count of masks drawn so far. -/
opaque Config.shareMask : Nat → BitVec 512

/-- Byte i of the SHA-384 digest of the ROM (R342): the device's own. -/
opaque Config.romDigest : Nat → Byte

/-- Byte i of the SHA-384 digest of a firmware image by its version: of the RTP firmware, or of the engine firmware
(R342). -/
opaque Config.firmwareDigest : Bool → BitVec 32 → Nat → Byte

/-- How many crossing ends at one place (bit of CLOCKS.CDC_STATUS.PEER_RESET) see a reset of a unit (R389): the spec
gives no number of crossings. -/
opaque Config.crossingEnds : Nat → Nat

/-- The device that a spare Joist lane reaches (R436): die and lane, by the rack's wiring. -/
opaque Config.spareReaches : Nat → Nat → BitVec 6

/-- The frequency in MHz that CLOCKS measures on a domain without a nominal one, recovered or external (Table 15.1): die,
row of the table, TIME. -/
opaque Config.measuredMhz : Nat → Nat → Nat → Nat

/-- The Ledger power coefficient of a block in a Trim image, in microwatts for each activity count of an epoch (R404; the
image's layout is not given); with no valid image, the ROM's. -/
opaque Config.powerCoefficient : Option (List Byte) → Nat → Nat

/-- The leakage in watts at a hottest junction in °C (R404, R407: at most 180). -/
opaque Config.leakage : Int → Nat

/-- The set point of a VCORE rail in a Trim image, in the code of VOUT_COMMAND (R462). -/
opaque Config.setPoint : Option (List Byte) → Nat → BitVec 16

/-- The voltage in millivolts of a rail that Bramble watches (R463): its number, and TIME. -/
opaque Config.railMillivolts : Nat → Nat → Nat

/-- What the start-up stages meet at the reboot that follows an alarm in SLEEP (R328), by the count of free values drawn so far. -/
opaque Config.rebootEnv : Nat → BootEnv

/-- Whether two causes that the model's commands bring at one TIME fall into one ESC cycle (R441), by the count of free values
drawn so far. -/
opaque Config.sameEscCycle : Nat → Bool

/-- Whether a flash program or its verification fails (R431), by the model's count of free values. -/
opaque Config.flashFails : Nat → Bool

end Sys2Proof
end

