-- ==== Sys2Proof/Machine/Crypto.lean ====
section
/-!
DEFINITION. The symmetric cryptography that the spec names by its public standard: AES-256 (FIPS 197) and
its counter mode (R160), AES-256-GCM (R180, R264, R338, R339), SHA-384 (FIPS 180-4: R172, R218, R339, R425),
HMAC-SHA-384 (R327) and KMAC256 (NIST SP 800-185: R173, R317, R323, R337). The spec gives the inputs, keys
and output lengths; the functions are those of the standards (PRESUMED, log 6).
-/

namespace Sys2Proof.Machine.Crypto

/-! ### Bytes -/

/-- The n bytes of a number, least significant first (R4). -/
def leBytes : Nat → Nat → List Byte
  | 0, _ => []
  | n + 1, v => BitVec.ofNat 8 v :: leBytes n (v / 256)

/-- The n bytes of a number, most significant first. -/
def beBytes (n v : Nat) : List Byte := (leBytes n v).reverse

/-- The number that bytes spell, least significant first (R4). -/
def leNat : List Byte → Nat
  | [] => 0
  | b :: bs => b.toNat + 256 * leNat bs

/-- The number that bytes spell, most significant first. -/
def beNat (bs : List Byte) : Nat := leNat bs.reverse

/-- Byte-wise exclusive or of two lists, to the shorter length. -/
def xorBytes (a b : List Byte) : List Byte := List.zipWith (· ^^^ ·) a b

/-- A list cut to n bytes, or padded with zero bytes to n (R318: labels). -/
def padTo (n : Nat) (bs : List Byte) : List Byte := (bs ++ List.replicate (n - bs.length) 0).take n

/-- The ASCII bytes of a string. -/
def ascii (s : String) : List Byte := s.toList.map (fun c => BitVec.ofNat 8 c.toNat)

/-- A list cut into blocks of n (the last may be shorter); k bounds the number of blocks. -/
def blocks {α : Type} (n : Nat) : Nat → List α → List (List α)
  | 0, _ => []
  | k + 1, bs => if bs.isEmpty then [] else bs.take n :: blocks n k (bs.drop n)

/-! ### AES-256 -/

/-- Multiplication by x in GF(2^8) modulo x^8 + x^4 + x^3 + x + 1. -/
def xtime (a : Byte) : Byte := if a.msb then (a <<< 1) ^^^ 0x1B else a <<< 1

/-- Multiplication in GF(2^8), over the low k bits of the second factor. -/
def gmul : Nat → Byte → Byte → Byte
  | 0, _, _ => 0
  | k + 1, a, b => (if b.getLsbD 0 then a else 0) ^^^ gmul k (xtime a) (b >>> 1)

/-- The square in GF(2^8). -/
def gsq (a : Byte) : Byte := gmul 8 a a

/-- The multiplicative inverse a^254 in GF(2^8), with 0 for 0. -/
def ginv (a : Byte) : Byte :=
  let a2 := gsq a
  let a4 := gsq a2
  let a8 := gsq a4
  let a16 := gsq a8
  let a32 := gsq a16
  let a64 := gsq a32
  let a128 := gsq a64
  gmul 8 a128 (gmul 8 a64 (gmul 8 a32 (gmul 8 a16 (gmul 8 a8 (gmul 8 a4 a2)))))

/-- The AES substitution box: the inverse, then the affine map. -/
def sbox (a : Byte) : Byte :=
  let b := ginv a
  b ^^^ b.rotateLeft 1 ^^^ b.rotateLeft 2 ^^^ b.rotateLeft 3 ^^^ b.rotateLeft 4 ^^^ 0x63

/-- The AES key expansion, one 4-byte word at a time: `ws` holds the words so far, newest first. -/
def expandKey : Nat → Nat → Byte → List (List Byte) → List (List Byte)
  | 0, _, _, ws => ws.reverse
  | k + 1, i, rcon, ws =>
    let prev := ws.headD []
    let back := ws.getD 7 []
    let t := if i % 8 = 0 then
        match prev.map sbox with
        | a :: b :: c :: d :: _ => [b ^^^ rcon, c, d, a]
        | x => x
      else if i % 8 = 4 then prev.map sbox else prev
    expandKey k (i + 1) (if i % 8 = 0 then xtime rcon else rcon) (xorBytes back t :: ws)

/-- The 60 words of an AES-256 key schedule, as 15 round keys of 16 bytes. -/
def roundKeys (key : List Byte) : List (List Byte) :=
  blocks 16 15 ((expandKey 52 8 1 (blocks 4 8 key).reverse).flatten)

/-- ShiftRows on a state held column by column. -/
def shiftRows (s : List Byte) : List Byte :=
  (List.range 16).map (fun i => s.getD ((i + 4 * (i % 4)) % 16) 0)

/-- MixColumns on one column. -/
def mixColumn : List Byte → List Byte
  | [a, b, c, d] =>
    [xtime a ^^^ (xtime b ^^^ b) ^^^ c ^^^ d, a ^^^ xtime b ^^^ (xtime c ^^^ c) ^^^ d,
     a ^^^ b ^^^ xtime c ^^^ (xtime d ^^^ d), (xtime a ^^^ a) ^^^ b ^^^ c ^^^ xtime d]
  | x => x

/-- One AES round; the last leaves MixColumns out. -/
def aesRound (last : Bool) (s k : List Byte) : List Byte :=
  let t := shiftRows (s.map sbox)
  xorBytes (if last then t else ((blocks 4 4 t).map mixColumn).flatten) k

/-- AES-256 encryption of a 16-byte block under a key schedule. -/
def aesBlock (ks : List (List Byte)) (b : List Byte) : List Byte :=
  let s0 := xorBytes b (ks.headD [])
  let s1 := (ks.tail.take 13).foldl (aesRound false) s0
  aesRound true s1 (ks.getD 14 [])

/-- AES-256 of one block under a 32-byte key. -/
def aes256 (key block : List Byte) : List Byte := aesBlock (roundKeys key) block

/-- Block b of the mask stream of a seed: AES-256 of b as a big-endian 128-bit number (R160). -/
def streamBlock (seed : List Byte) (b : Nat) : List Byte := aes256 seed (beBytes 16 b)

/-- n blocks of a seed's mask stream from block b. -/
def stream (seed : List Byte) (b n : Nat) : List Byte :=
  let ks := roundKeys seed
  ((List.range n).map (fun i => aesBlock ks (beBytes 16 (b + i)))).flatten

/-! ### AES-256-GCM -/

/-- One step of the product in GF(2^128) with GCM's bit order: bit 127 of Y is its first bit. -/
def gfMulStep (x : BitVec 128) : Nat → BitVec 128 → BitVec 128 → BitVec 128
  | 0, z, _ => z
  | k + 1, z, v =>
    let z' := if x.getLsbD k then z ^^^ v else z
    let v' := if v.getLsbD 0 then (v >>> 1) ^^^ 0xE1000000000000000000000000000000 else v >>> 1
    gfMulStep x k z' v'

/-- The product in GF(2^128) of GCM. -/
def gfMul (x y : BitVec 128) : BitVec 128 := gfMulStep x 128 0 y

/-- Bytes padded with zeros to a multiple of 16. -/
def pad16 (bs : List Byte) : List Byte := bs ++ List.replicate ((16 - bs.length % 16) % 16) 0

/-- GHASH of padded bytes under the hash key. -/
def ghash (h : BitVec 128) (bs : List Byte) : BitVec 128 :=
  (blocks 16 (bs.length / 16 + 1) bs).foldl (fun y b => gfMul (y ^^^ BitVec.ofNat 128 (beNat b)) h) 0

/-- The GCM keystream and tag of a ciphertext: counter blocks from the 12-byte nonce. -/
def gcmTag (ks : List (List Byte)) (nonce aad ct : List Byte) : List Byte :=
  let h := BitVec.ofNat 128 (beNat (aesBlock ks (List.replicate 16 0)))
  let lens := beBytes 8 (8 * aad.length) ++ beBytes 8 (8 * ct.length)
  let s := ghash h (pad16 aad ++ pad16 ct ++ lens)
  xorBytes (beBytes 16 s.toNat) (aesBlock ks (nonce ++ beBytes 4 1))

/-- The GCM keystream, n blocks from counter 2. -/
def gcmStream (ks : List (List Byte)) (nonce : List Byte) (n : Nat) : List Byte :=
  ((List.range n).map (fun i => aesBlock ks (nonce ++ beBytes 4 (i + 2)))).flatten

/-- AES-256-GCM encryption: ciphertext and 16-byte tag. -/
def gcmSeal (key nonce aad pt : List Byte) : List Byte × List Byte :=
  let ks := roundKeys key
  let ct := xorBytes pt (gcmStream ks nonce (pt.length / 16 + 1))
  (ct, gcmTag ks nonce aad ct)

/-- AES-256-GCM decryption: the plaintext, if the tag verifies. -/
def gcmOpen (key nonce aad ct tag : List Byte) : Option (List Byte) :=
  let ks := roundKeys key
  if gcmTag ks nonce aad ct = tag then some (xorBytes ct (gcmStream ks nonce (ct.length / 16 + 1))) else none

/-! ### SHA-384 and HMAC -/

/-- The round constants of SHA-512, words 0 to 15 (FIPS 180-4). -/
def shaK0 : List Word :=
  [0x428A2F98D728AE22, 0x7137449123EF65CD, 0xB5C0FBCFEC4D3B2F, 0xE9B5DBA58189DBBC,
   0x3956C25BF348B538, 0x59F111F1B605D019, 0x923F82A4AF194F9B, 0xAB1C5ED5DA6D8118,
   0xD807AA98A3030242, 0x12835B0145706FBE, 0x243185BE4EE4B28C, 0x550C7DC3D5FFB4E2,
   0x72BE5D74F27B896F, 0x80DEB1FE3B1696B1, 0x9BDC06A725C71235, 0xC19BF174CF692694]

/-- The round constants of SHA-512, words 16 to 31 (FIPS 180-4). -/
def shaK1 : List Word :=
  [0xE49B69C19EF14AD2, 0xEFBE4786384F25E3, 0x0FC19DC68B8CD5B5, 0x240CA1CC77AC9C65,
   0x2DE92C6F592B0275, 0x4A7484AA6EA6E483, 0x5CB0A9DCBD41FBD4, 0x76F988DA831153B5,
   0x983E5152EE66DFAB, 0xA831C66D2DB43210, 0xB00327C898FB213F, 0xBF597FC7BEEF0EE4,
   0xC6E00BF33DA88FC2, 0xD5A79147930AA725, 0x06CA6351E003826F, 0x142929670A0E6E70]

/-- The round constants of SHA-512, words 32 to 47 (FIPS 180-4). -/
def shaK2 : List Word :=
  [0x27B70A8546D22FFC, 0x2E1B21385C26C926, 0x4D2C6DFC5AC42AED, 0x53380D139D95B3DF,
   0x650A73548BAF63DE, 0x766A0ABB3C77B2A8, 0x81C2C92E47EDAEE6, 0x92722C851482353B,
   0xA2BFE8A14CF10364, 0xA81A664BBC423001, 0xC24B8B70D0F89791, 0xC76C51A30654BE30,
   0xD192E819D6EF5218, 0xD69906245565A910, 0xF40E35855771202A, 0x106AA07032BBD1B8]

/-- The round constants of SHA-512, words 48 to 63 (FIPS 180-4). -/
def shaK3 : List Word :=
  [0x19A4C116B8D2D0C8, 0x1E376C085141AB53, 0x2748774CDF8EEB99, 0x34B0BCB5E19B48A8,
   0x391C0CB3C5C95A63, 0x4ED8AA4AE3418ACB, 0x5B9CCA4F7763E373, 0x682E6FF3D6B2B8A3,
   0x748F82EE5DEFB2FC, 0x78A5636F43172F60, 0x84C87814A1F0AB72, 0x8CC702081A6439EC,
   0x90BEFFFA23631E28, 0xA4506CEBDE82BDE9, 0xBEF9A3F7B2C67915, 0xC67178F2E372532B]

/-- The round constants of SHA-512, words 64 to 79 (FIPS 180-4). -/
def shaK4 : List Word :=
  [0xCA273ECEEA26619C, 0xD186B8C721C0C207, 0xEADA7DD6CDE0EB1E, 0xF57D4F7FEE6ED178,
   0x06F067AA72176FBA, 0x0A637DC5A2C898A6, 0x113F9804BEF90DAE, 0x1B710B35131C471B,
   0x28DB77F523047D84, 0x32CAAB7B40C72493, 0x3C9EBE0A15C9BEBC, 0x431D67C49C100D4C,
   0x4CC5D4BECB3E42B6, 0x597F299CFC657E2A, 0x5FCB6FAB3AD6FAEC, 0x6C44198C4A475817]

/-- The 80 round constants of SHA-512. -/
def shaK : List Word := shaK0 ++ shaK1 ++ shaK2 ++ shaK3 ++ shaK4

/-- The initial hash value of SHA-384. -/
def sha384Init : List Word :=
  [0xCBBB9D5DC1059ED8, 0x629A292A367CD507, 0x9159015A3070DD17, 0x152FECD8F70E5939,
   0x67332667FFC00B31, 0x8EB44A8768581511, 0xDB0C2E0D64F98FA7, 0x47B5481DBEFA4FA4]

/-- The message schedule of SHA-512: `ws` holds the words so far, newest first. -/
def shaSchedule : Nat → List Word → List Word
  | 0, ws => ws.reverse
  | k + 1, ws =>
    let w15 := ws.getD 14 0
    let w2 := ws.getD 1 0
    let s0 := w15.rotateRight 1 ^^^ w15.rotateRight 8 ^^^ (w15 >>> 7)
    let s1 := w2.rotateRight 19 ^^^ w2.rotateRight 61 ^^^ (w2 >>> 6)
    shaSchedule k ((ws.getD 15 0 + s0 + ws.getD 6 0 + s1) :: ws)

/-- One round of SHA-512 on the eight working variables. -/
def shaRound (v : List Word) (kw : Word) : List Word :=
  match v with
  | [a, b, c, d, e, f, g, h] =>
    let s1 := e.rotateRight 14 ^^^ e.rotateRight 18 ^^^ e.rotateRight 41
    let ch := (e &&& f) ^^^ (~~~e &&& g)
    let t1 := h + s1 + ch + kw
    let s0 := a.rotateRight 28 ^^^ a.rotateRight 34 ^^^ a.rotateRight 39
    let maj := (a &&& b) ^^^ (a &&& c) ^^^ (b &&& c)
    [t1 + (s0 + maj), a, b, c, d + t1, e, f, g]
  | x => x

/-- One block of 128 bytes through the SHA-512 compression. -/
def shaBlock (hs : List Word) (b : List Byte) : List Word :=
  let ws := shaSchedule 64 ((blocks 8 16 b).map (fun x => BitVec.ofNat 64 (beNat x))).reverse
  let kw := List.zipWith (· + ·) shaK ws
  List.zipWith (· + ·) hs (kw.foldl shaRound hs)

/-- The padding of SHA-512 for a message of n bytes. -/
def shaPad (n : Nat) : List Byte :=
  0x80 :: (List.replicate ((128 - (n + 17) % 128) % 128) 0 ++ beBytes 16 (8 * n))

/-- SHA-384 of a message: 48 bytes. -/
def sha384 (m : List Byte) : List Byte :=
  let p := m ++ shaPad m.length
  let hs := (blocks 128 (p.length / 128) p).foldl shaBlock sha384Init
  ((hs.take 6).map (fun w => beBytes 8 w.toNat)).flatten

/-- HMAC-SHA-384 (block length 128). -/
def hmacSha384 (key m : List Byte) : List Byte :=
  let k := padTo 128 (if key.length > 128 then sha384 key else key)
  sha384 (k.map (· ^^^ 0x5C) ++ sha384 (k.map (· ^^^ 0x36) ++ m))

/-! ### AES-256-XTS of one line (IEEE 1619) -/

/-- Multiplication of a tweak by x, its bytes least significant first. -/
def xtsNext (t : BitVec 128) : BitVec 128 := if t.msb then (t <<< 1) ^^^ 0x87 else t <<< 1

/-- The blocks of a line under a key, each under its tweak. -/
def xtsBlocks (ks : List (List Byte)) : BitVec 128 → List (List Byte) → List Byte
  | _, [] => []
  | t, b :: bs =>
    let m := leBytes 16 t.toNat
    xorBytes (aesBlock ks (xorBytes b m)) m ++ xtsBlocks ks (xtsNext t) bs

/-- A line encrypted under a data key and a tweak key. -/
def xtsLine (key tweakKey : List Byte) (tweak : BitVec 128) (line : List Byte) : List Byte :=
  xtsBlocks (roundKeys key) (BitVec.ofNat 128 (leNat (aes256 tweakKey (leBytes 16 tweak.toNat)))) (blocks 16 4 line)

/-! ### Keccak and KMAC256 -/

/-- A sheet of lanes: row y holds the lanes (0, y) to (4, y). -/
abbrev Lanes := List (List Word)

/-- The feedback register of the round constants, x^8 + x^6 + x^5 + x^4 + 1: its lowest bit after 0, 1, … steps. -/
def feedback : Nat → Byte → List Bool
  | 0, _ => []
  | n + 1, r => r.getLsbD 0 :: feedback n (if r.msb then (r <<< 1) ^^^ 0x71 else r <<< 1)

/-- The round constants: bit 2^j − 1 of round i is bit 7 i + j of the register. -/
def roundConsts : List Word :=
  (blocks 7 24 (feedback 168 1)).map (fun bs =>
    (bs.zipIdx.map (fun p => if p.1 then (1 : Word) <<< (2 ^ p.2 - 1) else 0)).foldl (· ||| ·) 0)

/-- The lanes met on the walk from (1, 0) by (x, y) → (y, 2 x + 3 y), each with its turn: the next triangular number. -/
def laneTurns : Nat → Nat → Nat × Nat → List ((Nat × Nat) × Nat)
  | 0, _, _ => []
  | n + 1, i, (x, y) => ((x, y), i * (i + 1) / 2 % 64) :: laneTurns n (i + 1) (y, (2 * x + 3 * y) % 5)

/-- The turn of every lane, by rows; the lane (0, 0) is not turned. -/
def turnRows : List (List Nat) :=
  (List.range 5).map (fun y => (List.range 5).map (fun x => ((laneTurns 24 1 (1, 0)).lookup (x, y)).getD 0))

/-- Two sheets combined lane by lane. -/
def sheetWith {α : Type} (f : Word → α → Word) (a : Lanes) (b : List (List α)) : Lanes := List.zipWith (List.zipWith f) a b

/-- Every lane mixed with the parity of two columns beside it. -/
def mixColumns (a : Lanes) : Lanes :=
  let c := a.foldl (List.zipWith (· ^^^ ·)) (List.replicate 5 0)
  let d := List.zipWith (· ^^^ ·) (c.rotateRight 1) ((c.rotateLeft 1).map (fun w => w.rotateLeft 1))
  a.map (List.zipWith (· ^^^ ·) d)

/-- The lanes moved: (x, y) of the result comes from column x + 3 y of row x. -/
def moveLanes (a : Lanes) : Lanes :=
  (List.range 5).map (fun y => a.zipIdx.map (fun r => r.1.getD ((r.2 + 3 * y) % 5) 0))

/-- The nonlinear step within a row. -/
def mixRow (r : List Word) : List Word :=
  List.zipWith (· ^^^ ·) r (List.zipWith (fun u v => ~~~u &&& v) (r.rotateLeft 1) (r.rotateLeft 2))

/-- A constant enters lane (0, 0). -/
def addConst (c : Word) : Lanes → Lanes
  | (l :: ls) :: rows => ((l ^^^ c) :: ls) :: rows
  | a => a

/-- The permutation of 1,600 bits that SP 800-185 rests on, in its 24 rounds. -/
def permute (a : Lanes) : Lanes :=
  let turns := turnRows
  roundConsts.foldl (fun a c =>
    addConst c ((moveLanes (sheetWith (fun w n => w.rotateLeft n) (mixColumns a) turns)).map mixRow)) a

/-- The rate of KMAC256, in bytes. -/
def rate : Nat := 136

/-- The lanes of a block of the rate, the rest zero. -/
def lanesOf (b : List Byte) : Lanes :=
  (List.range 5).map (fun y => (List.range 5).map (fun x => BitVec.ofNat 64 (leNat ((b.drop (40 * y + 8 * x)).take 8))))

/-- The padding of cSHAKE after m bytes: the domain bits 00, a one, zeros, a one. -/
def shakePad (m : Nat) : List Byte :=
  match rate - m % rate with
  | 1 => [0x84]
  | z => 0x04 :: (List.replicate (z - 2) 0 ++ [0x80])

/-- cSHAKE256 of a prepared input: its blocks absorbed, then n bytes, at most the rate. -/
def cshakeRaw (m : List Byte) (n : Nat) : List Byte :=
  let p := m ++ shakePad m.length
  let a := (blocks rate (p.length / rate) p).foldl (fun a b => permute (sheetWith (· ^^^ ·) a (lanesOf b))) (lanesOf [])
  (a.flatten.flatMap (fun w => leBytes 8 w.toNat)).take n

/-- The bytes of a number without leading zeros, at least one. -/
def minBytes (v : Nat) : List Byte :=
  if v < 256 then beBytes 1 v else if v < 65536 then beBytes 2 v else beBytes 4 v

/-- left_encode of SP 800-185. -/
def leftEncode (v : Nat) : List Byte := BitVec.ofNat 8 (minBytes v).length :: minBytes v

/-- right_encode of SP 800-185. -/
def rightEncode (v : Nat) : List Byte := minBytes v ++ [BitVec.ofNat 8 (minBytes v).length]

/-- encode_string of SP 800-185. -/
def encodeString (s : List Byte) : List Byte := leftEncode (8 * s.length) ++ s

/-- bytepad of SP 800-185 to the rate of 136 bytes. -/
def bytepad (s : List Byte) : List Byte :=
  let t := leftEncode 136 ++ s
  t ++ List.replicate ((136 - t.length % 136) % 136) 0

/-- KMAC256 with key, message, customisation string and an output of n bytes. -/
def kmac256 (key m custom : List Byte) (n : Nat) : List Byte :=
  cshakeRaw (bytepad (encodeString (ascii "KMAC") ++ encodeString custom) ++
    bytepad (encodeString key) ++ m ++ rightEncode (8 * n)) n

end Sys2Proof.Machine.Crypto
end

