-- ==== Sys2Proof/Machine/State.lean ====
section
/-!
DEFINITION. The state of the W880 block as plain data: the queue of waiting commands, the register pages, the
memories, the threads, cores, clusters and dies, the partitions, the root of trust, Seedbed, the Event
Controller, the Journal and Trim store, and the state after power-on reset.

Every word of every register page (Table 16.1) stands in `regs`, under its page number and offset; a word
that is not listed holds the reset value of its table (Machine/RegMap.lean). State that no register word
holds (a thread's registers, the Tally, queues, key slots, …) has a structure of its own below.
-/

namespace Sys2Proof.Machine

/-- Why the block stops: never. The spec names an effect, a status or a refusal without effect for every command in
every state, so no meaning faults (log 2). -/
inductive Fault where
deriving DecidableEq, Repr

/-- Why a command has no meaning. -/
inductive Refusal where
  /-- Raised by an arm of the dispatcher for a row without a meaning; no arm is one. Safe: nothing happens. -/
  | notModelled (mnemonic : String)
deriving DecidableEq, Repr

/-- A finite map from numbers, kept with rising keys and without entries equal to the default. -/
abbrev Sparse (α : Type) := List (Nat × α)

/-! ### Threads (chapter 03) -/

/-- Thread states, Table 3.1. -/
inductive TState where
  | idle
  | ready
  | waitCount
  | waitPark
  | waitNext
  | waitBar
  | faulted
  | draining
deriving DecidableEq, Repr

/-- What a waiting thread waits for (R93, R94, R96, R84). -/
inductive Wait where
  | none
  | count (cnt : BitVec 2) (target : BitVec 32)
  | park (addr : Nat) (value : Word) (rd : BitVec 5) (t : BitVec 6)
  | next (q : BitVec 12) (rd : BitVec 5) (pd : BitVec 3)
  | bar (b : BitVec 4)
deriving DecidableEq, Repr

/-- The kinds of a thread's memory access; an atomic carries its OP (Table 3.7). -/
inductive AccKind where
  | load (sext : Bool)
  | store
  | atom (op : BitVec 4)
deriving DecidableEq, Repr

/-- How far an access has come: issued by the thread, sent over Joist under a tag, or answered. -/
inductive AccStage where
  | issued
  | sent (tag : BitVec 16)
  | got (data : Word)
  | failed (status : BitVec 8)
deriving DecidableEq, Repr

/-- One outstanding access of a thread (R72). -/
structure Access where
  kind  : AccKind
  addr  : Nat
  size  : Nat
  rd    : BitVec 5
  data  : Word
  cmp   : Word
  src   : Nat
  acq   : Bool
  rel   : Bool
  pc    : Word
  stage : AccStage
deriving DecidableEq, Repr

/-- One thread: Tables 3.1, 3.3 and 3.10, and its outstanding accesses; `lat` says that its last result may still be
in the latency of Table 3.2, so that it may be passed over (R70, R71). -/
structure Thread where
  st        : TState
  pc        : Word
  g         : Sparse Word
  p         : BitVec 8
  cc        : Sparse (BitVec 32)
  out       : Sparse Nat
  accs      : List Access
  wait      : Wait
  cause     : BitVec 4
  faultPc   : Word
  faultAddr : Word
  held      : Option (BitVec 8 × Nat)
  lat       : Bool
deriving DecidableEq, Repr

/-! ### Cores: engines (chapters 03 to 06) -/

/-- What one write of a run covered from an address on, in units of a size: the bytes it held before and the bytes
written (R135). -/
structure Undo where
  addr : Nat
  unit : Nat
  old  : List (BitVec 8)
  new  : List (BitVec 8)
deriving DecidableEq, Repr

/-- One entry of an engine command queue: its number, which rises in the order of arrival, the issuer, the descriptor
address, the session it was issued under, and the status once the engine has run it; `rel` names the frozen entry of
its accepted release, `demoted` says that a C0 request of it was served as C1 (R10), `c3` lists the HBM credits it
holds until it completes (R214), `sums` the accumulator words it has written with what they held before (R154), `undo`
what its writes covered, oldest first, and `hdr` its ciphertext header with INCOMPLETE set (R135),
`sealing` the sealing slot of its accepted release (R181), `held` the cycles that admission has held it for (R408), `claim` the number that the claim of a MACC or SCATTER_ADD on the keystream pipeline arrived at (R152). -/
structure EngEntry where
  num    : Nat
  core   : BitVec 9
  thr    : BitVec 4
  desc   : Nat
  pid    : BitVec 5
  pgen   : BitVec 24
  op     : BitVec 8
  evt    : Bool
  status : Option (BitVec 8)
  rel    : Option Nat
  cls    : BitVec 2
  demoted : Bool
  c3     : List (Nat × Nat)
  sums   : List (Nat × Word)
  undo   : List Undo
  hdr    : Option (Nat × List (BitVec 8))
  sealing : Option (BitVec 8)
  held   : Nat
  claim  : Option Nat
deriving DecidableEq, Repr

/-- One element of a Tally slot: N (its low bits in the narrower modes) and the flag byte (R56, R60). -/
structure Elem where
  n     : BitVec 136
  flags : BitVec 8
deriving DecidableEq, Repr

/-- One open or poisoned Tally slot (R103, R104): element (i, j) under key 32 i + j. -/
structure Slot where
  mode     : BitVec 2
  poisoned : Bool
  sat      : Bool
  w        : Int
  elems    : Sparse Elem
deriving DecidableEq, Repr

/-- One loaded ring-parameter set (Table 5.3). -/
structure Rps where
  tag    : Word
  logn   : Nat
  nq     : Nat
  np     : Nat
  dnum   : Nat
  scheme : BitVec 2
  t      : Nat
  ksn    : Nat
  rn     : Nat
  tol    : Nat
  primes : List Nat
  psis   : List Nat
deriving DecidableEq, Repr

/-- One core: its instruction buffer (line address and 64 bytes, oldest first), its four engine command
queues, its Tally, its ring-parameter sets, its stochastic-rounding generator, the ENG cycle at which
it last left reset, and the thread that issued last (R70). -/
structure CoreSt where
  ibuf      : List (Nat × List Byte)
  mxeQ      : List EngEntry
  rgeQ      : List EngEntry
  mkxQ      : List EngEntry
  dmaQ      : List EngEntry
  tally     : Sparse (Option Slot)
  rps       : Sparse (Option Rps)
  srKey     : Option (List Byte)
  srPos     : Nat
  cycleBase : Nat
  last      : BitVec 4
deriving DecidableEq, Repr

/-! ### Clusters: barriers, noise sampler, expert router -/

/-- A named barrier: the count its phase is fixed to and the arrivals so far (R84). -/
structure Bar where
  count   : Nat
  arrived : Nat
deriving DecidableEq, Repr

/-- A submitted NSU or router request: its address, the partition of the submitter, and the submitting
core (R169, R190). -/
structure UnitReq where
  addr : Nat
  pid  : BitVec 5
  core : Option (BitVec 9)
deriving DecidableEq, Repr

/-- The running NSU request: its opcode, its status once it has one, the serial an UNFREEZE waits on, and
the key slot held for the whole request (R171 step 7), its CLASS, whether a C0 request of it was served as C1,
and the HBM credits it holds (R214); of an ADD_NOISE the serial of its frozen entry, the token it will write (address and
bytes) and what its writes covered (R172 to R174). -/
structure NsuRun where
  req    : UnitReq
  op     : BitVec 8
  status : Option (BitVec 8)
  serial : Option Nat
  key    : Option (BitVec 8)
  cls    : BitVec 2
  demoted : Bool
  c3     : List (Nat × Nat)
  own    : Option Nat
  token  : Option (Nat × List (BitVec 8))
  undo   : List Undo
deriving DecidableEq, Repr

/-- A gate-table entry (Table 7.5). -/
structure Gate where
  bias  : BitVec 32
  core  : BitVec 9
  queue : BitVec 12
  valid : Bool
deriving DecidableEq, Repr

/-- The running router request: the items it still has to put (die, queue, item) and its status, its CLASS, whether a
C0 request of it was served as C1, and the HBM credits it holds (R214). -/
structure RouteRun where
  req    : UnitReq
  op     : BitVec 8
  items  : List (BitVec 2 × BitVec 12 × Word)
  status : BitVec 8
  cls    : BitVec 2
  demoted : Bool
  c3     : List (Nat × Nat)
deriving DecidableEq, Repr

/-- One cluster. -/
structure ClusterSt where
  bars     : Sparse Bar
  nsuQ     : List UnitReq
  nsuRun   : Option NsuRun
  nsuKey   : Option (List Byte)
  drawn    : Nat
  drawPos  : Nat
  rtrQ     : List UnitReq
  rtrRun   : Option RouteRun
  gate     : Option (List Gate)
deriving DecidableEq, Repr

/-! ### Dies: seed slots, Dresser, Mitre, Joist -/

/-- A seed slot (R162, R199, R312). -/
structure SeedSlot where
  pid    : Option (BitVec 5)
  seed   : Option (List Byte)
  recon  : Bool
  vault  : Option (BitVec 8)
deriving DecidableEq, Repr

/-- The producers that hold credits of a queue (R277). -/
inductive Producer where
  | tp (core : BitVec 9)
  | router (cluster : BitVec 5)
  | host
deriving DecidableEq, Repr

/-- A Dresser queue (Table 10.5): its holder and live configuration, its entries with their producers
(oldest first), and the threads waiting in NEXT (oldest first). -/
structure DQueue where
  pid      : Option (BitVec 5)
  hostPost : Bool
  cls      : BitVec 2
  kind     : BitVec 3
  grant    : BitVec 8
  disabled : Bool
  last     : BitVec 8
  entries  : List (Word × Producer)
  waiters  : List Who
deriving DecidableEq, Repr

/-- A completion or event ring (R252): its base, its header, its counts, and the records that wait. -/
structure Ring where
  pid     : BitVec 5
  isAeq   : Bool
  base    : Nat
  log2n   : Nat
  hdr     : Nat
  written : Nat
  waiting : List (List Byte)
deriving DecidableEq, Repr

/-- A posted receive buffer taken from a RQ (R254). -/
structure PostBuf where
  desc : Nat
  base : Nat
  len  : Nat
  zmap : Nat
  user : Word
deriving DecidableEq, Repr

/-- A bound send or receive queue of Mitre: its CQ, the count of its CQ records (R251), and, for a RQ, its
class, GRANT_MAX, taken buffers, open grants and grant list (R254); for a SQ, the WAIT_COUNT that holds it: the queue it waits on,
its target, its descriptor and its CLASS. -/
structure MQueue where
  pid      : BitVec 5
  isRq     : Bool
  cq       : BitVec 10
  cls      : BitVec 2
  grantMax : Nat
  records  : BitVec 32
  bufs     : List PostBuf
  grants   : Nat
  list     : List (BitVec 22)
  hold     : Option (BitVec 12 × BitVec 32 × Nat × BitVec 2)
deriving DecidableEq, Repr

/-- A receive slot of a peer: an arriving message (R255, R256); `mapping` says that its zero map awaits the acceptance of
another device (R203); `demoted` says that a C0 placement of it was served as C1
(R10). -/
structure MsgSlot where
  mapping : Bool
  msn    : BitVec 32
  total  : Nat
  placed : Nat
  buf    : Option PostBuf
  tooLong : Bool
  data   : List Nat
  zero   : List Nat
  demoted : Bool
deriving DecidableEq, Repr

/-- The bytes of a packet that another device has not yet accepted: the packet, its message, their number (R260). -/
structure Landing where
  psn : BitVec 32
  msn : BitVec 32
  n   : Nat
deriving DecidableEq, Repr

/-- A send in progress (R249, R253, R258); `demoted` says that a C0 packet or read of it was served as C1 (R10). -/
structure SendOp where
  q       : BitVec 12
  desc    : Nat
  msn     : Option (BitVec 32)
  cls     : BitVec 2
  paths   : Nat
  src     : Nat
  len     : Nat
  zmap    : Nat
  user    : Word
  off     : Nat
  pkts    : Nat
  acked   : Nat
  rel     : Option Nat
  released : Bool
  sealSlot : Option (BitVec 8)
  sealOut : Option (List Byte)
  stop    : Option (BitVec 8)
  demoted : Bool
deriving DecidableEq, Repr

/-- A packet that holds a PSN and is not yet acknowledged (R259, R261). -/
structure TxPkt where
  psn  : BitVec 32
  ty   : BitVec 4
  msn  : BitVec 32
  cls  : BitVec 2
  off  : Nat
  plen : Nat
  map  : Word
  total : Nat
  path : Nat
  paths : Nat
  body : List Byte
  fast : Bool
deriving DecidableEq, Repr

/-- Peer states, Table 9.6. -/
inductive PeerState where
  | active
  | unreachable
  | faulted
  | keyStale
  | keyExhausted
deriving DecidableEq, Repr

/-- A peer context (R241 to R269). `back` is its place in the partition's backing area, `granted` the MSG_LIMIT
given to the peer, `unclaimed` the granted message numbers that have claimed no buffer yet, `oldRx` the RX slot
of the earlier epoch with the packets it may still open, `rxNew` an epoch under which nothing has arrived yet. -/
structure Peer where
  pid       : BitVec 5
  back      : Nat
  st        : PeerState
  member    : Bool
  rq        : BitVec 12
  remote    : BitVec 22
  addr      : List Byte
  peerPort  : BitVec 16
  sport     : BitVec 16
  srcAddr   : BitVec 2
  ports     : List Byte
  epoch     : BitVec 32
  txSlot    : BitVec 8
  rxSlot    : BitVec 8
  oldRx     : Option (BitVec 8 × Nat)
  rxNew     : Bool
  pktCtr    : Nat
  dueEvt    : Bool
  high      : Nat
  oldHigh   : Nat
  psn       : BitVec 32
  txCum     : BitVec 32
  unacked   : List TxPkt
  retry     : Nat
  timeout   : Nat
  msnNext   : BitVec 32
  msgLimit  : BitVec 32
  credReq   : Bool
  sends     : List SendOp
  cum       : BitVec 32
  seen      : List (BitVec 32)
  granted   : BitVec 32
  unclaimed : List (BitVec 32)
  slots     : List MsgSlot
  placing   : List Landing
  ackDue    : Nat
  due       : Bool
  authFails : BitVec 32
  protoErrs : BitVec 32
  retrans   : BitVec 32
  protoEvt  : Bool
deriving DecidableEq, Repr

/-- The Mitre of a die: its peers, rings and bound queues; the cached contexts, least recently used first; the
miss buffer, oldest first; the fetches in progress; and the free C3 packet credits. -/
structure MitreDie where
  peers  : Sparse (Option Peer)
  rings  : Sparse (Option Ring)
  queues : Sparse (Option MQueue)
  cache  : List (BitVec 22)
  miss   : List Frame
  waiting : List (BitVec 22)
  c3     : Nat
deriving DecidableEq, Repr

/-- Who works: a thread, an engine command by its number, a unit of a cluster, a queue of Mitre, the placement of a packet of
a peer, the zero map of a message of a peer, the RTP, or what needs no answer from another device. -/
inductive Doer where
  | none
  | thread (w : Who)
  | command (n : Nat)
  | nsu (cluster : BitVec 5)
  | router (cluster : BitVec 5)
  | mitre (die : BitVec 2) (q : BitVec 12)
  | place (h : BitVec 22) (psn : BitVec 32)
  | zmap (h : BitVec 22) (msn : BitVec 32)
  | rtp
deriving DecidableEq, Repr

/-- A read, a write or, with `lf`, a long-form add that a command of an engine or unit has sent to another device, and its
answer once it has come: STATUS and data (R291, R292); its requester port (R297), and whether a lane served it as C1 when it
left after a wait (R10). -/
structure RemOp where
  doer : Doer
  sel  : Nat
  port : Nat
  demoted : Bool
  read : Bool
  lf   : Bool
  dev  : BitVec 6
  addr : Nat
  size : Nat
  tag  : BitVec 16
  done : Option (BitVec 8 × List Byte)
deriving DecidableEq, Repr

/-- A read of another device's memory that a run of a command has found it needs. -/
structure Ask where
  doer : Doer
  die  : Nat
  pid  : BitVec 5
  cls  : Nat
  sel  : Nat
  port : Nat
  dev  : Nat
  addr : Nat
  size : Nat
deriving DecidableEq, Repr

/-- What the command that runs now has met so far; empty between commands. `asks` lists the remote reads it waits for,
`touch` its C3 requests per controller and port, `refused` says that a controller refused one of them (R214), `demoted`
that a C0 request of it was served as C1 (R10); `sums`, `undo`, `hdr` and `sealing` are what its queue entry will keep. -/
structure RunSt where
  asks    : List Ask
  touch   : Sparse Nat
  refused : Bool
  demoted : Bool
  sums    : List (Nat × Word)
  undo    : List Undo
  hdr     : Option (Nat × List (BitVec 8))
  sealing : Option (BitVec 8)
deriving DecidableEq, Repr

/-- A Joist operation that awaits its response (R291 to R293). -/
structure JPend where
  tag  : BitVec 16
  dst  : BitVec 6
  who  : Who
deriving DecidableEq, Repr

/-- A Joist link: partner, credits per class in cells, the packets waiting for credit with the lane that they came by
where they are forwarded, the replay buffer, the consecutive replays, and the cells that packets of each class occupy in
the receive buffer (R285, R289). -/
structure JLink where
  up      : Bool
  dev     : BitVec 6
  lane    : BitVec 6
  spare   : Bool
  credits : Sparse Nat
  queued  : List (BitVec 4 × JPkt × Option (BitVec 2 × BitVec 6))
  replay  : List (BitVec 4 × JPkt)
  replays : Nat
  rx      : Sparse Nat
deriving DecidableEq, Repr

/-- One compute die; `vcHeld` holds the Joist arrivals that wait for the end of DOZE (R396), `c3` the C3 packet
credits in use toward each device, `c3Wait` the packets of running C3 commands that wait for one (R290), `qcfg` the
value that software has staged in QCFG (R478). -/
structure DieSt where
  seeds   : Sparse SeedSlot
  queues  : Sparse DQueue
  mitre   : MitreDie
  routes  : Sparse (BitVec 34)
  links   : Sparse JLink
  pend    : List JPend
  vcHeld  : List (BitVec 6 × BitVec 4 × JPkt)
  nextTag : BitVec 16
  c3      : Sparse Nat
  c3Wait  : List (Nat × BitVec 4 × JPkt)
  qcfg    : Option (BitVec 32)
deriving DecidableEq, Repr

/-! ### Memory system (chapter 08) -/

/-- An assigned HBM region: its owner (none: the open region), its NEAR home (none: GLOBAL), and the first
frame it holds on each stack that serves it (R20, R27). -/
structure Region where
  owner  : Option (BitVec 5)
  near   : Option (BitVec 2)
  frames : List (Nat × Nat)
deriving DecidableEq, Repr

/-- The integrity state of one HBM stack (R219, R223, R225): V1 per L0 line, V2 per L1 line, the epoch per
physical page, the page map, the failure counts and the retired physical pages. -/
structure StackSt where
  v1    : Sparse (BitVec 32)
  v2    : Sparse (BitVec 32)
  epoch : Sparse (BitVec 32)
  map   : Sparse Nat
  fails : Sparse Nat
  retired : List Nat
deriving DecidableEq, Repr

/-- A running scrub (R229 to R233): its regions, the partition it frees when it ends, and its key, none where it writes
plain zeros. -/
structure Scrub where
  regions : List Nat
  pid     : Option (BitVec 5)
  key     : Option (List Byte)
deriving DecidableEq, Repr

/-- An entry of the frozen-range table (R174). -/
structure Frozen where
  pid    : BitVec 5
  pgen   : BitVec 24
  serial : Nat
  base   : Nat
  len    : Nat
  live   : Bool
  thaw   : Bool
  rels   : Nat
deriving DecidableEq, Repr

/-! ### Root of trust and partitions (chapters 11 and 12) -/

/-- Key slot states (R309). -/
inductive KeyState where
  | empty
  | valid
  | stale
deriving DecidableEq, Repr

/-- A key held as two shares: the key XOR a mask, and the mask (R313). -/
structure Masked where
  sh0 : BitVec 512
  sh1 : BitVec 512
deriving DecidableEq, Repr

/-- A Key Vault slot: two shares, a pending key with its label, an old key with the operations left to it and the
label that its node takes at the end (R323), attributes, owner, node reference, and the partition it is allotted
to. -/
structure KeySlot where
  st     : KeyState
  bits   : Nat
  sh0    : BitVec 512
  sh1    : BitVec 512
  pend   : Option (Masked × List Byte)
  old    : Option (Masked × Nat × List Byte)
  origin : BitVec 3
  branch : BitVec 4
  depth  : BitVec 4
  mask   : BitVec 16
  dev    : Bool
  pid    : BitVec 5
  pgen   : BitVec 24
  gen    : BitVec 16
  node   : BitVec 10
  allot  : Option (BitVec 5)
deriving DecidableEq, Repr

/-- A Trellis node (R317, R318). -/
structure Node where
  parent : Option (BitVec 10)
  label  : List Byte
  user   : List Byte
  branch : BitVec 4
  depth  : Nat
  owner  : Option (BitVec 5)
  pgen   : BitVec 24
  gen    : BitVec 16
  dead   : Bool
  graft  : Option (List Byte)
  bits   : Nat
  made   : Bool
deriving DecidableEq, Repr

/-- A request in the RTP's queue: the host's, or a partition's at an address. -/
structure RtpReq where
  host : Bool
  pid  : BitVec 5
  addr : Nat
deriving DecidableEq, Repr

/-- A bundle-list entry (R341). -/
structure BundleRec where
  kind   : BitVec 8
  flags  : BitVec 8
  id     : List Byte
  digest : List Byte
deriving DecidableEq, Repr

/-- A partition (Tables 12.1 and 12.6). `backing` lists (die, region) of its peer contexts (R242), `weights` the bytes of
each cluster's weight area in use, `spills` the regions that hold spilled layers (R226). -/
structure Part where
  st        : BitVec 3
  conf      : Bool
  rackTrust : Bool
  pgen      : BitVec 24
  clusters  : BitVec 32
  ports     : BitVec 8
  peers     : List Nat
  backing   : List (Nat × Nat)
  weightMib : Nat
  weights   : Sparse Nat
  spills    : List Nat
  kmin      : BitVec 32
  mech      : BitVec 2
  gauss     : BitVec 32 × BitVec 32
  lap       : BitVec 32 × BitVec 32
  keyGone   : Bool
  rpid      : BitVec 16
  trust     : BitVec 64
  label     : List Byte
  pkDigest  : List Byte
  recDigest : List Byte
  kemDigest : List Byte
  kt        : List Byte
  wrapCtr   : Nat
  sealCtr   : Nat
  serial    : Nat
  bundles   : List BundleRec
  graft     : Option (BitVec 10)
  ownNode   : BitVec 10
  chalNode  : BitVec 10
  ctrlDie   : BitVec 2
  ctrlSq    : BitVec 12
  journal   : Word
deriving DecidableEq, Repr

/-- An INVALIDATE or SLOT_DESTROY whose last holder has not yet discarded the key (R325, R311). -/
structure RevokeRun where
  req     : RtpReq
  seq     : Word
  slots   : List (BitVec 8)
  destroy : Bool
deriving DecidableEq, Repr

/-- A teardown in progress (Table 12.5). -/
structure Teardown where
  req  : RtpReq
  seq  : Word
  pid  : BitVec 5
  step : Nat
deriving DecidableEq, Repr

/-- The RTP (R302 to R306), its long-running commands, and the debug state of the test-access port; the cause of the
fail-safe state once it is entered, or of a stop in start-up (R438, R439), and whether the firmware runs from bank 1 (R452). -/
structure RtpSt where
  queue    : List RtpReq
  revoke   : Option RevokeRun
  teardown : Option Teardown
  testOpen : Bool
  chalTime : Option Word
  fsCause  : BitVec 8
  bank1    : Bool
deriving DecidableEq, Repr

/-- The fuses (R307, R329, R453): three copies of root and check word, the fuse counter, PERM, the minimum,
the digest of the key that signs firmware (R452), and an alarm that the AON logic recorded in SLEEP and whose bit is not yet blown. -/
structure Fuses where
  copy0   : BitVec 288
  copy1   : BitVec 288
  copy2   : BitVec 288
  count   : BitVec 4
  perm    : Bool
  fwMin   : BitVec 6
  fwKey   : BitVec 384
  pendAlarm : Bool
deriving DecidableEq, Repr

/-- The maps and wear state (R433, R434): logical to physical, worn units, the three counters and the
thresholds, under keys 1024 × kind + unit; lanes, sources, PLLs and sensors spared; how many
CORE_REMAPs have brought a spare core into service (USED.CORES). -/
structure SparesSt where
  coreMap    : Sparse (Option Nat)
  clusterMap : Sparse (Option Nat)
  worn       : Sparse Bool
  ce         : Sparse Nat
  retry      : Sparse Nat
  hot        : Sparse Nat
  sources    : BitVec 10
  lanes      : Sparse Nat
  sensors    : Sparse Bool
  standby    : Sparse Bool
  coresUsed  : Nat
deriving DecidableEq, Repr

/-- A bank of the spares record (R433): its sequence number; maps, in-service sets, worn marks and counters; the page maps
and logical-page failure counts of the HBM stacks; and the boot count. -/
structure SparesRec where
  seq      : Nat
  spares   : SparesSt
  pageMaps : Sparse (Sparse Nat × Sparse Nat)
  boots    : BitVec 32
deriving DecidableEq, Repr

/-- The on-package flash: two firmware banks (R452), two banks of the Trim store (R428) and of the spares record (R433), and
the fault log (R442). -/
structure Flash where
  fw0      : Option FwImage
  fw1      : Option FwImage
  trim0    : Option (List Byte)
  trim1    : Option (List Byte)
  rec0     : Option SparesRec
  rec1     : Option SparesRec
  log      : List (List Byte)
deriving DecidableEq, Repr

/-! ### Seedbed and the Event Controller (chapters 13 and 14) -/

/-- A source of Seedbed (R351 to R353): the samples of its current block, the last one first; the first sample value of
the block and how often it has occurred; the last sample and how often it has occurred in a row; its last whole block, in the
order of arrival; and the start-up samples that it has passed. -/
structure SeedSource where
  block : List Byte
  first : Byte
  same  : Nat
  last  : Byte
  run   : Nat
  final : List Byte
  start : Nat
deriving DecidableEq, Repr

/-- One request of 4 KiB of DRBG output in the queue: the key and the counter it was generated from, and the bytes of it
that have been delivered (R355, R357). -/
structure SeedChunk where
  key  : List Byte
  v    : BitVec 128
  used : Nat
deriving DecidableEq, Repr

/-- Seedbed (R351 to R365). The DRBG: whether it is instantiated, its key and counter, its output since the last reseed.
The output queue, oldest first. The seed buffer, and the seeds in conditioning, each with whether both its blocks ended after
the latest failure. The sources, those in start-up and those that have passed it; the raw buffer; whether MODE has been
HEALTHY since reset. The slot that a waiting re-mask sweep has come to, the time since which the mailbox waits for bytes
(R357), and the AON cycles since REMASK_STAT.AGE last counted, with whether its limit has been reported (R314). -/
structure SeedSt where
  inst    : Bool
  key     : List Byte
  v       : BitVec 128
  since   : Nat
  queue   : List SeedChunk
  seeds   : List (List Byte)
  forming : List (List Byte × Bool)
  sources : Sparse SeedSource
  fresh   : BitVec 10
  passed  : BitVec 10
  rawBuf  : List Byte
  ready   : Bool
  sweep   : Option Nat
  wait    : Option (BitVec 64)
  ageCycles : Nat
  ageAlarm  : Bool
deriving DecidableEq, Repr

/-- Source states, R369. -/
inductive EvState where
  | idle
  | pending
  | held
  | active
  | activePending
deriving DecidableEq, Repr

/-- An event source (R368, R369): configuration, enable, state, line as last sampled, the time it became
PENDING, the merged flag, the target of its record, and a withdrawn record of it that is still staged. -/
structure EvSrc where
  sense     : BitVec 3
  prio      : BitVec 4
  group     : BitVec 4
  cls       : BitVec 2
  en        : Bool
  st        : EvState
  line      : Bool
  time      : Word
  merged    : Bool
  target    : BitVec 7
  withdrawn : Bool
deriving DecidableEq, Repr

/-- A staged event record (Table 14.2). -/
structure EvRec where
  src     : BitVec 12
  owner   : BitVec 12
  cls     : BitVec 2
  prio    : BitVec 4
  merged  : Bool
  flushed : Bool
  time    : Word
deriving DecidableEq, Repr

/-- A host target (Table 14.4). -/
structure Tgt where
  ring     : Word
  enable   : Bool
  log2n    : BitVec 5
  bypass   : BitVec 4
  modCount : BitVec 8
  modTime  : BitVec 16
  wr       : BitVec 32
  rd       : BitVec 32
  prio     : BitVec 4
  armed    : Bool
  owed     : Bool
  due      : Bool
  staged   : List EvRec
deriving DecidableEq, Repr

/-- The Event Controller; group masks hold host targets in bits 0 to 63 and the RTP in bit 64. -/
structure EvcSt where
  srcs   : Sparse EvSrc
  groups : Sparse (BitVec 65)
  tgts   : Sparse Tgt
  rtp    : List EvRec
deriving DecidableEq, Repr

/-! ### Host side, pins, and what leaves the package -/

/-- The host side of the PCIe function: host memory, the function's power state and enables, and the result
of the host's last register or BAR2 read; the captured HI words and the last LO words written (R414). -/
structure HostSt where
  mem     : Sparse Byte
  d3hot   : Bool
  bme     : Bool
  pmeEn   : Bool
  pme     : Bool
  inReset : Bool
  rrs     : Bool
  read    : Word
  bytes   : List Byte
  poisoned : Bool
  hiCap   : Sparse (Option (BitVec 32))
  loWr    : Sparse (Option (BitVec 32))
deriving DecidableEq, Repr

/-- The control pins that the device drives or samples, true for high (Table 19.4); `gaugePrev` is the T before the last one,
whose pulse may still stand (R423). -/
structure Pins where
  por      : Bool
  perst    : Bool
  faultN   : Bool
  thermN   : Bool
  wakeN    : Bool
  gaugeOut : Bool
  gaugePrev : Option Word
deriving DecidableEq, Repr

/-- The Ethernet, IPv6 and UDP headers of a Mitre packet that leaves (R237, R239). -/
structure FrameHdr where
  dstMac : BitVec 48
  srcMac : BitVec 48
  src    : BitVec 128
  dst    : List Byte
  next   : BitVec 8
  hop    : BitVec 8
  dscp   : BitVec 6
  ecn    : BitVec 2
  sport  : BitVec 16
  dport  : BitVec 16
  sum    : BitVec 16
deriving DecidableEq, Repr

/-- What the management endpoint's sensors read (R451): package power in watts, the hottest junction, the power state, and
the state of the device as RTP_STATE.MODE codes BOOT, READY, LOCKED and FAILSAFE. -/
structure Readings where
  watts : Nat
  temp  : BitVec 8
  power : BitVec 2
  mode  : BitVec 4
deriving DecidableEq, Repr

/-- The PMBus commands that the device sends a regulator (R462). -/
inductive PmCmd where
  | voutCommand (v : BitVec 16)
  | operation (on : Bool)
  | readStatusWord
deriving DecidableEq, Repr

/-- What the block sends out of the package: a Mitre packet on a port, a Joist packet on a lane, an MSI-X
vector, a PM_PME message, an MCTP reply, a PMBus command to a regulator by its 7-bit address, a refusal at the test-access port
(R345). -/
inductive Emit where
  | frame (port : BitVec 3) (h : FrameHdr) (bytes : List Byte)
  | joist (die : BitVec 2) (lane : Nat) (ty : BitVec 4) (p : JPkt)
  | credit (die : BitVec 2) (lane : BitVec 6) (cls : BitVec 2) (cells : Nat)
  | msix (vector : BitVec 6)
  | pme
  | mctp (r : Readings) (bytes : List Byte)
  | pmbus (addr : BitVec 7) (c : PmCmd)
  | testRefused (st : BitVec 8)
deriving DecidableEq, Repr

/-- A host write that the PCIe controller holds until the Journal's queue has room (R426). -/
structure HostWrite where
  addr : Nat
  size : Nat
  val  : Nat
deriving DecidableEq, Repr

/-- The Journal's queue of entries not yet absorbed, the numbers behind which captures wait, oldest first (R427), and the
register writes that wait in the PCIe controller, oldest first (R426). -/
structure JournalSt where
  queue : List (List Byte)
  accepted : Nat
  captures : List Nat
  writes : List HostWrite
deriving DecidableEq, Repr

/-- The crossings at a unit that resets (R389): the epoch bit of its own ends, and the epoch at its last reset, which the
surviving ends do not accept. -/
structure Cdc where
  epoch  : Bool
  barred : Option Bool
deriving DecidableEq, Repr

/-- A VCORE regulator (R462, R463): whether it is on, and its set point in the code of VOUT_COMMAND. -/
structure Rail where
  on    : Bool
  point : BitVec 16
deriving DecidableEq, Repr

/-- The Ledger's history (R405): for each of the preceding epochs, newest first, whether it was counted; and
the readings at or above OVERTEMP_C in a row and the states of the limits (R409, R410). -/
structure LedgerSt where
  history : List Bool
  tempRun : Nat
  limited : Bool
  reduced : Bool
deriving DecidableEq, Repr

/-- The whole block. `macErr` holds, for each block, L0 line or L1 line of HBM whose stored MAC is not the one of its
contents, the difference of the two (R223; numbered by macItem); `remote` the operations that commands have sent to other
devices (R291), `run` what the running command has met, `meters` the C0 buckets: bytes taken and the time they were last
counted at (R297), `cmdNum` the number of the next engine command. `cdc` the crossings of each
unit that resets (R389), `rails` the VCORE regulators by die; `pllLoss` counts each PLL's losses of lock (Table 15.5);
`thresh` holds the wear thresholds under 4 × kind + counter (THRESH_CE, _RETRY, _HOT of Table 17.5). `start` holds, while start-up runs, what its
stages will meet (R454, R455). `pending` is the queue of waiting commands, first in, first out; `fresh` is the model's own
count of the free values it has drawn (Config). -/
structure State where
  pending  : List Instr
  time     : Word
  eng      : Nat
  regs     : Sparse Reg32
  mem      : List Host.Cell
  v0       : Sparse (BitVec 32)
  badLines : Sparse Bool
  macErr   : Sparse (BitVec 64)
  remote   : List RemOp
  run      : RunSt
  meters   : Sparse (Nat × Nat)
  cmdNum   : Nat
  hbm      : Sparse StackSt
  regions  : Sparse (Option Region)
  scrubs   : List Scrub
  frozen   : List Frozen
  threads  : Sparse Thread
  cores    : Sparse CoreSt
  clusters : Sparse ClusterSt
  dies     : Sparse DieSt
  parts    : Sparse Part
  keys     : Sparse KeySlot
  nodes    : Sparse (Option Node)
  rtp      : RtpSt
  fuses    : Fuses
  flash    : Flash
  spares   : SparesSt
  seed     : SeedSt
  start    : Option BootEnv
  evc      : EvcSt
  host     : HostSt
  pins     : Pins
  journal  : JournalSt
  ledger   : LedgerSt
  cdc      : Sparse Cdc
  rails    : Sparse Rail
  pllLoss  : Sparse Nat
  thresh   : Sparse Nat
  mgmt     : Sparse (List Frame)
  out      : List Emit
  fresh    : Nat
deriving DecidableEq, Repr

/-! ### The state after power-on reset -/

/-- A thread after its core's reset (Table 3.10, R73). -/
def Thread.reset : Thread :=
  { st := .idle, pc := 0, g := [], p := 0, cc := [], out := [], accs := [], wait := .none, cause := 0,
    faultPc := 0, faultAddr := 0, held := none, lat := false }

/-- A core after its reset: every Tally unit CLOSED, RPS slots and buffers empty (R104, R136). -/
def CoreSt.reset : CoreSt :=
  { ibuf := [], mxeQ := [], rgeQ := [], mkxQ := [], dmaQ := [], tally := [], rps := [], srKey := none,
    srPos := 0, cycleBase := 0, last := 15 }

/-- A cluster after its reset (R191). -/
def ClusterSt.reset : ClusterSt :=
  { bars := [], nsuQ := [], nsuRun := none, nsuKey := none, drawn := 0, drawPos := 0, rtrQ := [],
    rtrRun := none, gate := none }

/-- An unallotted, empty seed slot (R162). -/
def SeedSlot.reset : SeedSlot := { pid := none, seed := none, recon := false, vault := none }

/-- An unconfigured Dresser queue (Table 10.5). -/
def DQueue.reset : DQueue :=
  { pid := none, hostPost := false, cls := 0, kind := 0, grant := 0, disabled := false, last := 0,
    entries := [], waiters := [] }

/-- No command runs. -/
def RunSt.reset : RunSt :=
  { asks := [], touch := [], refused := false, demoted := false, sums := [], undo := [], hdr := none, sealing := none }

/-- A Joist link that is down. -/
def JLink.reset : JLink :=
  { up := false, dev := 0, lane := 0, spare := false, credits := [], queued := [], replay := [], replays := 0, rx := [] }

/-- A die after its reset; 256 C3 packet credits of Mitre (R263). -/
def DieSt.reset : DieSt :=
  { seeds := [], queues := [],
    mitre := { peers := [], rings := [], queues := [], cache := [], miss := [], waiting := [], c3 := 256 },
    routes := [], links := [], pend := [], vcHeld := [], nextTag := 0, c3 := [], c3Wait := [], qcfg := none }

/-- A stack whose metadata is all zero (R231). -/
def StackSt.reset : StackSt := { v1 := [], v2 := [], epoch := [], map := [], fails := [], retired := [] }

/-- An empty key slot, allotted to nobody (R309). -/
def KeySlot.reset : KeySlot :=
  { st := .empty, bits := 0, sh0 := 0, sh1 := 0, pend := none, old := none, origin := 0, branch := 0,
    depth := 0, mask := 0, dev := false, pid := 0, pgen := 0, gen := 0, node := 0, allot := none }

/-- A FREE partition (R349). -/
def Part.reset : Part :=
  { st := 0, conf := false, rackTrust := false, pgen := 0, clusters := 0, ports := 0, peers := [],
    backing := [], weightMib := 0, weights := [], spills := [], kmin := 0, mech := 0, gauss := (0, 0),
    lap := (0, 0), keyGone := false, rpid := 0, trust := 0, label := [], pkDigest := [], recDigest := [], kemDigest := [],
    kt := [], wrapCtr := 0, sealCtr := 0, serial := 0, bundles := [], graft := none, ownNode := 0,
    chalNode := 0, ctrlDie := 0, ctrlSq := 0, journal := 0 }

/-- An event source after reset: SENSE 1, PRIO 0, GROUP 0, CLASS C2, disabled, IDLE (Table 14.4). -/
def EvSrc.reset : EvSrc :=
  { sense := 1, prio := 0, group := 0, cls := 2, en := false, st := .idle, line := false, time := 0,
    merged := false, target := 0, withdrawn := false }

/-- A host target after reset: LOG2N 4, BYPASS 15, MOD_COUNT 1, TIME 1, disabled (Table 14.4). -/
def Tgt.reset : Tgt :=
  { ring := 0, enable := false, log2n := 4, bypass := 15, modCount := 1, modTime := 1, wr := 0, rd := 0,
    prio := 0, armed := false, owed := false, due := false, staged := [] }

/-- A device whose units all passed production test: the identity map (R13); the sources 0 to 7 in service
(DESIGN CHOICE, log 9: the factory record is the device's own). -/
def SparesSt.reset : SparesSt :=
  { coreMap := [], clusterMap := [], worn := [], ce := [], retry := [], hot := [], sources := 0xFF,
    lanes := [], sensors := [], standby := [], coresUsed := 0 }

/-- One fuse copy of a root: the 256 bits of the root in bits [287:32], then the 32-bit check word, the first
four bytes of the SHA-384 of the root's bytes (R307; the bytes taken most significant first, log 10). -/
def fuseCopy (root : BitVec 256) : BitVec 288 :=
  root ++ BitVec.ofNat 32 (Crypto.beNat ((Crypto.sha384 (Crypto.beBytes 32 root.toNat)).take 4))

/-- Fuses of a device fresh from the factory: three equal copies of the root, the digest of Treoth's firmware key (its value
DESIGN CHOICE, log 9), nothing else blown. -/
def Fuses.reset : Fuses :=
  { copy0 := fuseCopy Config.fuseRoot, copy1 := fuseCopy Config.fuseRoot,
    copy2 := fuseCopy Config.fuseRoot, count := 0, perm := false, fwMin := 0, fwKey := 0, pendAlarm := false }

/-- Flash of a device fresh from the factory: one signed firmware bank, no Trim image, the identity spares
record, an empty fault log (DESIGN CHOICE, log 9). -/
def Flash.reset : Flash :=
  { fw0 := some { version := 1, security := 0, signer := 0, mldsa := true, ecdsa := true, body := [] }, fw1 := none,
    trim0 := none, trim1 := none, rec0 := some { seq := 0, spares := SparesSt.reset, pageMaps := [], boots := 0 },
    rec1 := none, log := [] }

/-- The current spares record: of the banks written, that of the higher sequence number (R433). -/
def Flash.record (f : Flash) : SparesRec :=
  match f.rec0, f.rec1 with
  | some a, some b => if a.seq < b.seq then b else a
  | some a, none => a
  | none, some b => b
  | none, none => { seq := 0, spares := SparesSt.reset, pageMaps := [], boots := 0 }

/-- A record programmed into the bank that is not current, under the next sequence number; the replaced bank is erased (R433,
R431 steps 2 and 3). -/
def Flash.putRecord (f : Flash) (r : SparesRec) : Flash :=
  let n := some { r with seq := f.record.seq + 1 }
  if f.rec0 = some f.record then { f with rec0 := none, rec1 := n } else { f with rec0 := n, rec1 := none }

/-- Crossings whose ends have met no reset of the other end (the epoch: DESIGN CHOICE, log 83). -/
def Cdc.reset : Cdc := { epoch := false, barred := none }

/-- The machine under power-on reset (R6, R454 stage 0): every register at the reset value of its table,
every memory empty, every queue empty. POR_RELEASE then runs the start-up stages. -/
def State.reset : State :=
  { pending := [], time := 0, eng := 0, regs := [], mem := [], v0 := [], badLines := [], macErr := [],
    remote := [], run := RunSt.reset, meters := [], cmdNum := 0,
    hbm := [], regions := [], scrubs := [], frozen := [], threads := [], cores := [], clusters := [],
    dies := [], parts := [], keys := [], nodes := [],
    rtp := { queue := [], revoke := none, teardown := none, testOpen := false, chalTime := none, fsCause := 0,
             bank1 := false },
    fuses := Fuses.reset, flash := Flash.reset, spares := SparesSt.reset,
    seed := { inst := false, key := [], v := 0, since := 0, queue := [], seeds := [], forming := [], sources := [],
              fresh := 0, passed := 0, rawBuf := [], ready := false, sweep := none, wait := none, ageCycles := 0,
              ageAlarm := false },
    start := none,
    evc := { srcs := [], groups := [], tgts := [], rtp := [] },
    host := { mem := [], d3hot := false, bme := false, pmeEn := false, pme := false, inReset := true,
              rrs := true, read := 0, bytes := [], poisoned := false, hiCap := [], loWr := [] },
    pins := { por := false, perst := false, faultN := true, thermN := true, wakeN := true,
              gaugeOut := false, gaugePrev := none },
    journal := { queue := [], accepted := 0, captures := [], writes := [] },
    ledger := { history := [], tempRun := 0, limited := false, reduced := false },
    cdc := [], rails := [], pllLoss := [], thresh := [],
    mgmt := [], out := [], fresh := 0 }

end Sys2Proof.Machine
end

