-- ==== Sys2Proof/Machine/Ops.lean ====
section
/-!
DEFINITION. The named operations over the state: reading and writing register words, raising events, the maps
from logical to physical units, ownership, the address map and its checks (R16 to R25), reading and writing
memory with its poison and integrity rules (R206 to R225), the fault of a thread (R100), the wake of PARK
(R94) and the counts of the Wicket (R179).
-/

namespace Sys2Proof.Machine

/-! ### Register words -/

/-- The key of a register word. -/
def regKey (p : Page) (off : Nat) : Nat := p.num * 1024 + off / 4

/-- The word stored at an offset of a page. -/
def State.rd (s : State) (p : Page) (off : Nat) : Reg32 := sget regReset s.regs (regKey p off)

/-- The state with a word stored at an offset of a page. -/
def State.wr (s : State) (p : Page) (off : Nat) (v : Reg32) : State :=
  { s with regs := sput regReset s.regs (regKey p off) v }

/-- A word as a number. -/
def State.rdN (s : State) (p : Page) (off : Nat) : Nat := (s.rd p off).toNat

/-- A number stored as a word, modulo 2^32. -/
def State.wrN (s : State) (p : Page) (off n : Nat) : State := s.wr p off (BitVec.ofNat 32 n)

/-- The 64-bit value at two words, LO first (R4). -/
def State.rd64 (s : State) (p : Page) (off : Nat) : Nat := s.rdN p off + 2 ^ 32 * s.rdN p (off + 4)

/-- A 64-bit value stored at two words, LO first. -/
def State.wr64 (s : State) (p : Page) (off n : Nat) : State :=
  (s.wrN p off n).wrN p (off + 4) (n / 2 ^ 32)

/-- A 32-bit counter advanced, modulo 2^32. -/
def State.bump (s : State) (p : Page) (off n : Nat) : State := s.wrN p off (s.rdN p off + n)

/-- A 64-bit counter advanced, modulo 2^64. -/
def State.bump64 (s : State) (p : Page) (off n : Nat) : State := s.wr64 p off (s.rd64 p off + n)

/-- Bits [lo + n − 1 : lo] of a number. -/
def field (v lo n : Nat) : Nat := v / 2 ^ lo % 2 ^ n

/-- A number with bits [lo + n − 1 : lo] replaced. -/
def setField (v lo n x : Nat) : Nat := v - field v lo n * 2 ^ lo + x % 2 ^ n * 2 ^ lo

/-- A field of a word. -/
def State.fld (s : State) (p : Page) (off lo n : Nat) : Nat := field (s.rdN p off) lo n

/-- A word with one field replaced. -/
def State.setFld (s : State) (p : Page) (off lo n x : Nat) : State :=
  s.wrN p off (setField (s.rdN p off) lo n x)

/-! ### Events (R416, R475) -/

/-- Set bits of EVT_RAW; each bit that was clear also sets its EVT_PENDING bit. -/
def State.raiseBits (s : State) (p : Page) (b : Reg32) : State :=
  let raw := s.rd p 0x010
  (s.wr p 0x010 (raw ||| b)).wr p 0x018 (s.rd p 0x018 ||| (b &&& ~~~raw))

/-- An occurrence of event bit b. -/
def State.raise (s : State) (p : Page) (b : Nat) : State := s.raiseBits p ((1 : Reg32) <<< b)

/-- A condition bit takes its present state. -/
def State.cond (s : State) (p : Page) (b : Nat) (v : Bool) : State :=
  if v then s.raise p b else s.wr p 0x010 (s.rd p 0x010 &&& ~~~((1 : Reg32) <<< b))

/-- The event line of a page: a pending event bit that is enabled (R366). -/
def State.line (s : State) (p : Page) : Bool := s.rd p 0x014 &&& s.rd p 0x018 ≠ 0


/-! ### Modes -/

/-- RTP_STATE.MODE: 0 BOOT, 1 READY, 2 LOCKED, 3 FAILSAFE (Table 11.4). -/
def State.mode (s : State) : Nat := s.fld (.dieE tyMbox) 0x114 0 4

/-- The device is in the fail-safe state. -/
def State.failsafe (s : State) : Bool := s.mode = 3

/-- CTRL.ENABLE: clear on every page once the device is in the fail-safe state (R418, R440). -/
def State.enabled (s : State) (p : Page) : Bool := (s.rd p 0x008).getLsbD 0 && !s.failsafe

/-- STATUS.DISABLING. -/
def State.disabling (s : State) (p : Page) : Bool := (s.rd p 0x00C).getLsbD 1

/-- A block that takes new work: enabled and not disabling (R418). -/
def State.takesWork (s : State) (p : Page) : Bool := s.enabled p && !s.disabling p

/-- CLOCKS.POWER.STATE: 0 ACTIVE, 1 DOZE, 2 SLEEP (Table 15.5). -/
def State.power (s : State) : Nat := s.fld (.dieE tyClocks) 0x11C 0 2

/-- The compute dies are powered and out of reset: READY or fail-safe, and not in SLEEP (R391, R397). -/
def State.diesUp (s : State) : Bool := s.pins.por && (s.mode = 1 || s.mode = 3) && s.power ≠ 2

/-- The ENG clock runs and the device is in service: READY and ACTIVE (Table 15.1). -/
def State.engOn (s : State) : Bool := s.pins.por && s.mode = 1 && s.power = 0

/-- An exit from DOZE to ACTIVE, with its cause in LAST_WAKE and the WAKE event (R396, R410). -/
def State.wakeDoze (s : State) (cause : Nat) : State :=
  if s.mode = 1 ∧ s.power = 1 then
    ((s.setFld (.dieE tyClocks) 0x11C 0 2 0).setFld (.dieE tyClocks) 0x11C 8 4 cause).raise (.dieE tyClocks) 2
  else s

/-! The units whose resets their neighbours survive (R389), as keys of State.cdc: the PCIe controller, compute die d, logical
cluster c and logical core k. -/
abbrev endPcie : Nat := 0
abbrev endDie (d : Nat) : Nat := 1 + d
abbrev endCluster (c : Nat) : Nat := 16 + c
abbrev endCore (k : Nat) : Nat := 64 + k

/-- The crossings at a unit. -/
def State.crossing (s : State) (u : Nat) : Cdc := sget (fun _ => Cdc.reset) s.cdc u

/-- The surviving ends at a unit accept what it sends: it presents another epoch than at its last reset (R389). -/
def State.crossOpen (s : State) (u : Nat) : Bool := (s.crossing u).barred ≠ some (s.crossing u).epoch

/-- A unit goes into reset while the other ends of its crossings stand: these bar its epoch and set their bit of PEER_RESET
and CDC_COUNT (R389, log 83). -/
def State.peerReset (s : State) (u bit : Nat) : State :=
  (({ s with cdc := sput (fun _ => Cdc.reset) s.cdc u { s.crossing u with barred := some (s.crossing u).epoch } }.wrN
    (.dieE tyClocks) 0x110 (s.rdN (.dieE tyClocks) 0x110 ||| 2 ^ bit)).bump (.dieE tyClocks) 0x114
    (Config.crossingEnds bit)).raise (.dieE tyClocks) 1

/-- A unit leaves reset: its ends toggle their epoch (R389). -/
def State.peerLeave (s : State) (u : Nat) : State :=
  { s with cdc := sput (fun _ => Cdc.reset) s.cdc u { s.crossing u with epoch := !(s.crossing u).epoch } }

/-- A unit goes through a reset. -/
def State.peerCycle (s : State) (u bit : Nat) : State := (s.peerReset u bit).peerLeave u

/-! ### Structured state -/

/-- The number of a thread in the package. -/
def whoKey (w : Who) : Nat := w.core.toNat * 16 + w.thr.toNat

/-- A thread. -/
def State.thread (s : State) (w : Who) : Thread := sget (fun _ => Thread.reset) s.threads (whoKey w)

/-- A thread replaced. -/
def State.setThread (s : State) (w : Who) (t : Thread) : State :=
  { s with threads := sput (fun _ => Thread.reset) s.threads (whoKey w) t }

/-- A logical core. -/
def State.core (s : State) (k : Nat) : CoreSt := sget (fun _ => CoreSt.reset) s.cores k

/-- A logical core replaced. -/
def State.setCore (s : State) (k : Nat) (c : CoreSt) : State :=
  { s with cores := sput (fun _ => CoreSt.reset) s.cores k c }

/-- A logical cluster. -/
def State.cluster (s : State) (c : Nat) : ClusterSt := sget (fun _ => ClusterSt.reset) s.clusters c

/-- A logical cluster replaced. -/
def State.setCluster (s : State) (c : Nat) (x : ClusterSt) : State :=
  { s with clusters := sput (fun _ => ClusterSt.reset) s.clusters c x }

/-- A compute die. -/
def State.die (s : State) (d : Nat) : DieSt := sget (fun _ => DieSt.reset) s.dies d

/-- A compute die replaced. -/
def State.setDie (s : State) (d : Nat) (x : DieSt) : State :=
  { s with dies := sput (fun _ => DieSt.reset) s.dies d x }

/-- A partition. -/
def State.part (s : State) (p : BitVec 5) : Part := sget (fun _ => Part.reset) s.parts p.toNat

/-- A partition replaced. -/
def State.setPart (s : State) (p : BitVec 5) (x : Part) : State :=
  { s with parts := sput (fun _ => Part.reset) s.parts p.toNat x }

/-- A key slot. -/
def State.key (s : State) (n : BitVec 8) : KeySlot := sget (fun _ => KeySlot.reset) s.keys n.toNat

/-- A key slot replaced. -/
def State.setKey (s : State) (n : BitVec 8) (x : KeySlot) : State :=
  { s with keys := sput (fun _ => KeySlot.reset) s.keys n.toNat x }

/-- A Trellis node. -/
def State.node (s : State) (n : Nat) : Option Node := sget (fun _ => none) s.nodes n

/-- A Trellis node replaced. -/
def State.setNode (s : State) (n : Nat) (x : Option Node) : State :=
  { s with nodes := sput (fun _ => none) s.nodes n x }

/-- The integrity state of a stack. -/
def State.stack (s : State) (n : Nat) : StackSt := sget (fun _ => StackSt.reset) s.hbm n

/-- The integrity state of a stack replaced. -/
def State.setStack (s : State) (n : Nat) (x : StackSt) : State :=
  { s with hbm := sput (fun _ => StackSt.reset) s.hbm n x }

/-- The entry of a region in the region map, scrubbed or not. -/
def State.regionRaw (s : State) (r : Nat) : Option Region := sget (fun _ => none) s.regions r

/-- The entry of a region in the region map replaced. -/
def State.setRegion (s : State) (r : Nat) (x : Option Region) : State :=
  { s with regions := sput (fun _ => none) s.regions r x }

/-- A running scrub covers a region (R230). -/
def State.scrubbing (s : State) (r : Nat) : Bool := s.scrubs.any (fun x => x.regions.contains r)

/-- An assigned HBM region, if it is: a region in scrub is not assigned (R230). -/
def State.region (s : State) (r : Nat) : Option Region := if s.scrubbing r then none else s.regionRaw r

/-- A seed slot of a die (R162). -/
def State.seedSlot (s : State) (d n : Nat) : SeedSlot := sget (fun _ => SeedSlot.reset) (s.die d).seeds n

/-- A seed slot replaced. -/
def State.setSeedSlot (s : State) (d n : Nat) (x : SeedSlot) : State :=
  s.setDie d { s.die d with seeds := sput (fun _ => SeedSlot.reset) (s.die d).seeds n x }

/-- A Dresser queue of a die. -/
def State.queue (s : State) (d : Nat) (q : BitVec 12) : DQueue :=
  sget (fun _ => DQueue.reset) (s.die d).queues q.toNat

/-- A Dresser queue replaced. -/
def State.setQueue (s : State) (d : Nat) (q : BitVec 12) (x : DQueue) : State :=
  s.setDie d { s.die d with queues := sput (fun _ => DQueue.reset) (s.die d).queues q.toNat x }

/-- Something leaves the package. -/
def State.emit (s : State) (e : Emit) : State := { s with out := s.out ++ [e] }

/-! ### Wear counters (R434) -/

/-- A saturating 32-bit count under a key. -/
def satAdd (m : Sparse Nat) (k n : Nat) : Sparse Nat :=
  sput (fun _ => (0 : Nat)) m k (min (sget (fun _ => (0 : Nat)) m k + n) 0xFFFFFFFF)

/-- The key of a wear counter: the kind and the unit (Table 17.2). -/
def wearKey (kind unit : Nat) : Nat := 1024 * kind + unit

/-- RETRY of a unit counts one (R434). -/
def State.countRetry (s : State) (kind unit : Nat) : State :=
  { s with spares := { s.spares with retry := satAdd s.spares.retry (wearKey kind unit) 1 } }

/-- CE of a unit counts one (R434). -/
def State.countCe (s : State) (kind unit : Nat) : State :=
  { s with spares := { s.spares with ce := satAdd s.spares.ce (wearKey kind unit) 1 } }

/-! ### Logical and physical units (R12 to R15) -/

/-- The die of a logical cluster (R12). -/
def dieOfCluster (c : Nat) : Nat := c / 8

/-- The logical cluster of a logical core (R12). -/
def clusterOfCore (k : Nat) : Nat := k / 16

/-- The die of a logical core (R12). -/
def dieOfCore (k : Nat) : Nat := k / 128

/-- The physical cluster (0 to 35) behind a logical cluster, if one is (R13, R15). -/
def State.physCluster (s : State) (c : Nat) : Option Nat :=
  (sget (fun c => some (c % 8)) s.spares.clusterMap c).map (fun i => 9 * dieOfCluster c + i)

/-- The physical core (0 to 611) behind a logical core, if one is. -/
def State.physCore (s : State) (k : Nat) : Option Nat :=
  match s.physCluster (clusterOfCore k), sget (fun k => some (k % 16)) s.spares.coreMap k with
  | some p, some i => some (17 * p + i)
  | _, _ => none

/-- The logical core that a physical core backs. -/
def State.logicCore (s : State) (q : Nat) : Option Nat :=
  ((List.range 128).map (fun i => 128 * (q / 153) + i)).find? (fun k => s.physCore k == some q)

/-- The logical cluster that a physical cluster backs. -/
def State.logicCluster (s : State) (p : Nat) : Option Nat :=
  ((List.range 8).map (fun i => 8 * (p / 9) + i)).find? (fun c => s.physCluster c == some p)

/-- Page j of a logical core: 0 CORE, 1 MXE, 2 RGE, 3 MKX. An absent core has no pages; its number then
names no page of Table 16.1. -/
def State.corePage (s : State) (k j : Nat) : Page :=
  match s.physCore k with
  | some q => .core q j
  | none => .dieE 0

/-- Page j of a logical cluster: 0 CLUSTER, 1 PRESS, 2 NSU, 3 ROUTER. -/
def State.clusterPage (s : State) (c j : Nat) : Page :=
  match s.physCluster c with
  | some p => .cluster p j
  | none => .dieE 0

/-- The unit of a page is out of reset and present, so that the page answers (R15, R391). -/
def State.pageLive (s : State) : Page → Bool
  | .dieE _ => s.pins.por
  | .die _ _ _ => s.diesUp
  | .cluster p _ => s.diesUp && (s.logicCluster p).isSome
  | .core q _ => s.diesUp && (s.logicCore q).isSome

/-! ### Ownership -/

/-- The partition that holds a logical cluster (R332). -/
def State.clusterOwner (s : State) (c : Nat) : Option (BitVec 5) :=
  ((List.range 32).map (fun n => BitVec.ofNat 5 n)).find?
    (fun p => (s.part p).st ≠ 0 && (s.part p).clusters.getLsbD c)

/-- The partition that holds a logical core. -/
def State.coreOwner (s : State) (k : Nat) : Option (BitVec 5) := s.clusterOwner (clusterOfCore k)

/-- PTAG of a session: PGEN in bits [31:8], PID in bits [4:0] (Table 3.8). -/
def ptagOf (pid : BitVec 5) (pgen : BitVec 24) : Nat := pgen.toNat * 256 + pid.toNat

/-- PTAG of a partition's present session. -/
def State.ptag (s : State) (p : BitVec 5) : Nat := ptagOf p (s.part p).pgen

/-- The OWNER word of a page held by a partition (Table 16.2). -/
def ownerWord (p : BitVec 5) (conf : Bool) : Reg32 :=
  BitVec.ofNat 32 (p.toNat + 256 + (if conf then 512 else 0))

/-- The owner of a page: OWNER.PID where OWNER.VALID is set. -/
def State.pageOwner (s : State) (p : Page) : Option (BitVec 5) :=
  if (s.rd p 0x028).getLsbD 8 then some (BitVec.ofNat 5 (s.fld p 0x028 0 5)) else none

/-- OWNER.CONF of a page. -/
def State.pageConf (s : State) (p : Page) : Bool := (s.rd p 0x028).getLsbD 9

/-! ### The address map (R16, R17, R23 to R25) -/

/-- Where an address lies. -/
inductive Space where
  | hbm (a : Nat)
  | press (c a : Nat)
  | drawer (k a : Nat)
  | reg (a : Nat)
  | host (bus : Nat)
  | remote (dev a : Nat)
  | segment
  | unmapped
deriving DecidableEq, Repr

/-- JOIST.DEVICE of a die: the number in force (R286). -/
def State.devNum (s : State) (d : Nat) : Option Nat :=
  if (s.rd (.die d tyJoist 0) 0x100).getLsbD 8 then some (s.fld (.die d tyJoist 0) 0x100 0 6) else none

/-- The route mask of a die toward a device. -/
def State.routeMask (s : State) (d dev : Nat) : BitVec 34 := sget (fun _ => 0) (s.die d).routes dev

/-- The die whose links an access from die d to a device leaves by: its own, else the lowest (R286). -/
def State.routeDie (s : State) (d dev : Nat) : Option Nat :=
  if s.routeMask d dev ≠ 0 then some d else (List.range 4).find? (fun e => s.routeMask e dev ≠ 0)

/-- Where a local 40-bit address lies (Table 1.4, R15, R413, R450). -/
def State.placeLocal (s : State) (a : Nat) : Space :=
  if a < 0x7800000000 then .hbm a
  else if 0x8000000000 ≤ a ∧ a < 0x8080000000 then
    let c := (a - 0x8000000000) / 0x4000000
    if s.diesUp ∧ (s.physCluster c).isSome then .press c a else .unmapped
  else if 0x8100000000 ≤ a ∧ a < 0x8120000000 then
    let k := (a - 0x8100000000) / 0x100000
    if s.diesUp ∧ (s.physCore k).isSome then .drawer k a else .unmapped
  else if regBase ≤ a ∧ a < regBase + 0x40000000 then
    if (pageAt ((a - regBase) / 4096)).isSome then .reg a else .unmapped
  else if 0xE000000000 ≤ a ∧ a < 0xE200000000 then
    let o := a - 0xE000000000
    let w := s.rd64 (.dieE tyPcie) (0x140 + 8 * (o / 0x40000000))
    if w % 2 = 1 then .host (w / 0x40000000 * 0x40000000 + o % 0x40000000) else .segment
  else .unmapped

/-- HBM, Press or Drawer of another device (R24). -/
def remoteOk (a : Nat) : Bool :=
  a < 0x7800000000 || (0x8000000000 ≤ a && a < 0x8080000000) || (0x8100000000 ≤ a && a < 0x8120000000)

/-- Where a 64-bit device address lies, as an agent of die d sees it (R16, R23 to R25). -/
def State.place (s : State) (d a : Nat) : Space :=
  if a < 2 ^ 40 then s.placeLocal a
  else if a / 2 ^ 46 = 1 then
    let dev := a / 2 ^ 40 % 64
    let l := a % 2 ^ 40
    if s.devNum d = some dev then s.placeLocal l
    else if remoteOk l ∧ (s.routeDie d dev).isSome then .remote dev l
    else .unmapped
  else .unmapped

/-- The local address behind a device address: itself, or that of the own rack-global form (R23). -/
def localOf (a : Nat) : Nat := if a < 2 ^ 40 then a else a % 2 ^ 40

/-! ### HBM placement (R26, R27) -/

/-- The stack and the address within it that serve an HBM address (Table 1.6), with the region's frames. -/
def State.hbmPlace (s : State) (a : Nat) : Option (Nat × Nat) :=
  match s.region (a / 0x200000) with
  | none => none
  | some r =>
    let st := match r.near with
      | none => (field a 12 4) ^^^ (field a 21 4)
      | some h => 4 * h.toNat + ((field a 10 2) ^^^ (field a 21 2))
    let off := match r.near with
      | none => field a 16 5 * 4096 + field a 0 12
      | some _ => field a 12 9 * 1024 + field a 0 10
    (r.frames.find? (fun f => f.1 = st)).map (fun f => (st, f.2 * 131072 + off))

/-- The number of the 256-byte block that holds an HBM address: 2^27 × stack + block within the stack. -/
def State.blockKey (s : State) (a : Nat) : Option Nat :=
  (s.hbmPlace a).map (fun x => x.1 * 2 ^ 27 + x.2 / 256)

/-- The version V0 of a block (R219). -/
def State.ver0 (s : State) (key : Nat) : Nat := (sget (fun _ => 0) s.v0 key).toNat

/-- V0 of a poisoned block (R220). -/
def v0Poison : Nat := 0xFFFFFFFF

/-- V0 of a block replaced. -/
def State.setVer0 (s : State) (key v : Nat) : State :=
  { s with v0 := sput (fun _ => 0) s.v0 key (BitVec.ofNat 32 v) }

/-- The HBMC page of a stack (R412). -/
def hbmcPage (st : Nat) : Page := .die (st / 4) tyHbmc (st % 4)

/-! ### Bytes -/

/-- What a byte of device memory holds; nothing listed reads zero (R209, R220). -/
def State.byte (s : State) (a : Nat) : Byte := sget (fun _ => 0) s.mem a

/-- n bytes of device memory, without checks. -/
def State.bytes (s : State) (a n : Nat) : List Byte := (List.range n).map (fun i => s.byte (a + i))

/-- Bytes of device memory replaced, without checks. -/
def State.putBytes (s : State) (a : Nat) (bs : List Byte) : State :=
  { s with mem := sputs (fun _ => 0) s.mem a bs }

/-- Device memory from a to a + n − 1 made zero. -/
def State.clearBytes (s : State) (a n : Nat) : State :=
  { s with mem := s.mem.filter (fun e => e.1 < a ∨ a + n ≤ e.1) }

/-- What a byte of host memory holds (log 5). -/
def State.hostByte (s : State) (a : Nat) : Byte := sget Config.hostByte s.host.mem a

/-- n bytes of host memory. -/
def State.hostBytes (s : State) (a n : Nat) : List Byte := (List.range n).map (fun i => s.hostByte (a + i))

/-- Bytes of host memory replaced. -/
def State.putHost (s : State) (a : Nat) (bs : List Byte) : State :=
  { s with host := { s.host with mem := sputs Config.hostByte s.host.mem a bs } }

/-- The pieces of a range that no boundary of g bytes divides: (address, length), in rising order. -/
def pieces (g : Nat) : Nat → Nat → Nat → List (Nat × Nat)
  | 0, _, _ => []
  | f + 1, a, n =>
    if n = 0 then []
    else
      let m := min n (g - a % g)
      (a, m) :: pieces g f (a + m) (n - m)

/-- The pieces of a range. -/
def piecesOf (g a n : Nat) : List (Nat × Nat) := pieces g (n / g + 2) a n

/-! ### Metering of class C0 (R10, R297) -/

/-- The resources that meter C0 (Table 10.3): a stack's controller, a Joist lane, an Ethernet port, the Event
Controller's routing. -/
inductive Meter where
  | hbm (stack : Nat)
  | lane (die lane : Nat)
  | ether (port : Nat)
  | events
deriving DecidableEq, Repr

/-- What a bucket fills by in one AON cycle of 40 ns and what it holds, in tenths of a byte or of a record: 10 % of the
capacity of Table 0.1 and Table 1.2, and 1 µs of that (R297, log 99). -/
def Meter.rate : Meter → Nat × Nat
  | .hbm _ => (65600, 1640000)
  | .lane _ _ => (1000, 25000)
  | .ether _ => (4000, 100000)
  | .events => (40, 1000)

/-- The number of a requester port's bucket at a resource. -/
def Meter.key (port : Nat) : Meter → Nat
  | .hbm st => 64 * st + port
  | .lane d l => 64 * (16 + 34 * d + l) + port
  | .ether p => 64 * (152 + p) + port
  | .events => 64 * 160 + port

/-- The register that counts a resource's demotions (Tables 8.5, 9.9, 10.6, 14.4). -/
def Meter.counter : Meter → Page × Nat
  | .hbm st => (hbmcPage st, 0x120)
  | .lane d _ => (.die d tyJoist 0, 0x134)
  | .ether p => (.die (p / 2) tyMitre 0, 0x144)
  | .events => (.dieE tyEvc, 0x15C)

/-- How full a port's bucket is at a resource now. -/
def State.bucket (s : State) (m : Meter) (port : Nat) : Nat :=
  let (used, t) := sget (fun _ => ((0 : Nat), (0 : Nat))) s.meters (m.key port)
  m.rate.2 - (used - m.rate.1 * (s.time.toNat - t))

/-- A C0 request of n units at a resource: it takes from its port's bucket, or finds that empty and is served as C1,
which the resource counts (R10, R297); with `mark` the running command notes that. -/
def State.meter (s : State) (m : Meter) (port n : Nat) (mark : Bool := false) : State :=
  let b := s.bucket m port
  if b = 0 then
    { s.bump m.counter.1 m.counter.2 1 with run := { s.run with demoted := s.run.demoted || mark } }
  else
    { s with meters := sput (fun _ => (0, 0)) s.meters (m.key port) (m.rate.2 - (b - 10 * n), s.time.toNat) }

/-- An access of n bytes that a stack's controller makes of its own accord, in a class (R213); its own port is 63. -/
def State.ownAccess (s : State) (st cls n : Nat) : State := if cls = 0 then s.meter (.hbm st) 63 n else s

/-! ### Integrity of HBM (R218 to R225) -/

/-- The physical page that backs a logical page of a stack (R218). -/
def StackSt.phys (x : StackSt) (lp : Nat) : Nat := sget (fun l => l) x.map lp

/-- The class of the controller's own accesses (R213): scrub in C2, re-encryption and migration in C0; metadata goes in
the class of the access that it serves. -/
def hbmOwnClass (scrub : Bool) : Nat := if scrub then 2 else 0

/-- The CLASS that stands in byte 2 of a descriptor or request at an address, C1 where the address has no memory (R206,
R213). -/
def State.clsAt (s : State) (d a : Nat) : Nat :=
  match s.place d (a + 2) with
  | .hbm l => (s.byte l).toNat % 4
  | .press _ l => (s.byte l).toNat % 4
  | .drawer _ l => (s.byte l).toNat % 4
  | _ => 1

/-- Page retirement (R225): a free pool page takes the logical page, with E = 0; POOL_EMPTY where none is left. The
migration goes in class C0 (R213). -/
def State.retirePage (s : State) (st lp : Nat) : State :=
  let x := s.stack st
  let pg := hbmcPage st
  let free := s.fld pg 0x110 16 9
  if free = 0 then s.raise pg 2
  else
    let np := 15360 + x.retired.length
    let x' := { x with map := sput (fun l => l) x.map lp np, fails := sput (fun _ => 0) x.fails lp 0,
                       epoch := sput (fun _ => 0) x.epoch np 0, retired := x.retired ++ [x.phys lp] }
    (((s.setStack st x').wrN pg 0x110 ((free - 1) * 65536 + x'.retired.length)).raise pg 1).ownAccess st (hbmOwnClass false) 0x400000

/-- The versions of a page after re-encryption (R221): every block neither fresh nor poisoned has V0 = 1, and V1 and
V2 restart. -/
def State.restartVersions (s : State) (st lp : Nat) : State :=
  let x := s.stack st
  { s with v0 := s.v0.map (fun (c : Nat × BitVec 32) =>
      if c.1 / 2 ^ 27 = st ∧ c.1 % 2 ^ 27 / 8192 = lp ∧ c.2.toNat ≠ v0Poison then (c.1, (1 : BitVec 32)) else c) }.setStack st
    { x with v1 := x.v1.filter (fun c => c.1 / 512 ≠ lp), v2 := x.v2.filter (fun c => c.1 / 32 ≠ lp) }

/-- Re-encryption of the page of a block (R221): E advances and the versions restart. A page whose E would reach its end
is retired instead, to a page whose E is 0; its blocks are written there with restarted versions too (log 50); where the pool is
empty the versions restart under the same E and page, and the write goes on (DESIGN CHOICE, log 106). The reads and writes of
the page go in class C0 (R213). -/
def State.reencrypt (s : State) (key : Nat) : State :=
  let st := key / 2 ^ 27
  let lp := key % 2 ^ 27 / 8192
  let x := s.stack st
  let e := (sget (fun _ => (0 : BitVec 32)) x.epoch (x.phys lp)).toNat + 1
  if e = 0xFFFFFFFF then (s.restartVersions st lp).retirePage st lp
  else
    let s1 := s.setStack st { x with epoch := sput (fun _ => 0) x.epoch (x.phys lp) (BitVec.ofNat 32 e) }
    ((s1.restartVersions st lp).bump (hbmcPage st) 0x114 1).ownAccess st (hbmOwnClass false) 0x400000

/-- A write of a block's L0 line would take V1 or V2 to its end (R221). -/
def State.treeFull (s : State) (key : Nat) : Bool :=
  let x := s.stack (key / 2 ^ 27)
  (sget (fun _ => (0 : BitVec 32)) x.v1 (key % 2 ^ 27 / 16)).toNat = 0xFFFFFFFE ||
  (sget (fun _ => (0 : BitVec 32)) x.v2 (key % 2 ^ 27 / 256)).toNat = 0xFFFFFFFE

/-- A write of the block would take a version to its end (R221). -/
def State.versionsFull (s : State) (key : Nat) : Bool := s.ver0 key = 0xFFFFFFFE || s.treeFull key

/-- V0 of a block takes a value, which writes its L0 line and that line's L1 line (R219). -/
def State.treeWrite (s : State) (key v : Nat) : State :=
  let st := key / 2 ^ 27
  let x := s.stack st
  let k1 := key % 2 ^ 27 / 16
  let k2 := key % 2 ^ 27 / 256
  (s.setVer0 key v).setStack st
    { x with v1 := sput (fun _ => 0) x.v1 k1 (sget (fun _ => 0) x.v1 k1 + 1)
             v2 := sput (fun _ => 0) x.v2 k2 (sget (fun _ => 0) x.v2 k2 + 1) }

/-- The numbers of the items that carry a MAC (R218, R219): a block, the L0 line and the L1 line over it. -/
def macItem (level key : Nat) : Nat := level * 2 ^ 31 + key / 16 ^ level

/-- The stored MAC of an item is not the one of its contents (Machine/Hbm.lean: `mac_mismatch_iff`). -/
def State.macBad (s : State) (item : Nat) : Bool := sget (fun _ => (0 : BitVec 64)) s.macErr item ≠ 0

/-- The stored MAC of an item is again the one of its contents. -/
def State.macGood (s : State) (item : Nat) : State := { s with macErr := sput (fun _ => 0) s.macErr item 0 }

/-- The line of the freshness tree over a block that fails its MAC check: its level, its first block and the number of
blocks that it covers (R223). -/
def State.failingLine (s : State) (key : Nat) : Option (Nat × Nat × Nat) :=
  if s.macBad (macItem 2 key) then some (2, key / 256 * 256, 256)
  else if s.macBad (macItem 1 key) then some (1, key / 16 * 16, 16)
  else none

/-- The item that fails when a block's data are read: a line of the tree, or the block (R223). -/
def State.failingItem (s : State) (key : Nat) : Option (Nat × Nat × Nat) :=
  match s.failingLine key with
  | some x => some x
  | none => if s.macBad (macItem 0 key) ∧ s.ver0 key ≠ 0 then some (0, key, 1) else none

/-- The page of a block re-encrypted where a version of it is at its end (R221). -/
def State.roomForVersion (s : State) (key : Nat) : State := if s.versionsFull key then s.reencrypt key else s

/-- A block is poisoned through a valid tree update (R221, R223): what it held no longer counts, and the MACs of its
lines are those of their contents. -/
def State.poisonBlock (s : State) (key : Nat) : State :=
  let s1 := if s.treeFull key then s.reencrypt key else s
  (((s1.treeWrite key v0Poison).macGood (macItem 0 key)).macGood (macItem 1 key)).macGood (macItem 2 key)

/-- An integrity failure found by an access (R223): the covered blocks are poisoned, INTEGRITY is raised, and
the logical page's failure count rises; PAGE_RETIRE acts on a count of 4 (R225, log 50). -/
def State.integrityFailure (s : State) (a key first n : Nat) : State :=
  let st := key / 2 ^ 27
  let lp := key % 2 ^ 27 / 8192
  let s1 := (List.range n).foldl (fun t i => t.poisonBlock (first + i)) s
  let x := s1.stack st
  let c : Nat := sget (fun _ => (0 : Nat)) x.fails lp + 1
  let s2 := s1.setStack st { x with fails := sput (fun _ => 0) x.fails lp c }
  ((s2.bump (hbmcPage st) 0x100 1).wr64 (hbmcPage st) 0x108 (a / 64 * 64)).raise (hbmcPage st) 0

/-- The check that a read of a block makes: the status, and the state after it (R220, R223). -/
def State.blockCheck (s : State) (a key : Nat) : State × Status :=
  if s.ver0 key = v0Poison then (s.bump (hbmcPage (key / 2 ^ 27)) 0x104 1, stIntegrity)
  else match s.failingItem key with
    | some (_, first, n) => (s.integrityFailure a key first n, stIntegrity)
    | none => (s, stOk)

/-- The check of the tree's lines that a write of a block makes where it does not read the block (R219, R223). -/
def State.lineCheck (s : State) (a key : Nat) : State × Status :=
  match s.failingLine key with
  | some (_, first, n) => (s.integrityFailure a key first n, stIntegrity)
  | none => (s, stOk)

/-- A block that is fresh has the rest of its bytes zero before its first write (R220). -/
def State.zeroFresh (s : State) (key a : Nat) : State :=
  if s.ver0 key = 0 then s.clearBytes (a / 256 * 256) 256 else s

/-- The version that a write gives a block: poison ends at 1 (R220, R224). -/
def nextVer (v : Nat) : Nat := if v = v0Poison then 1 else v + 1

/-- The HBM at an address belongs to a partition whose memory and MAC keys the teardown has destroyed: the controller has
discarded them (R310), and what arrives fails integrity (Table 12.5 steps 4 and 5, log 108). -/
def State.keyLost (s : State) (a : Nat) : Bool :=
  match (s.region (a / 0x200000)).bind (fun r => r.owner) with
  | some p => (s.part p).keyGone
  | none => false

/-- A write of m bytes at a, within one block (R220 to R222, R224). -/
def State.blockWrite (s : State) (a : Nat) (bs : List Byte) : State × Status :=
  match s.blockKey a with
  | none => (s, stBound)
  | some key =>
    if s.keyLost a then (s, stIntegrity) else
    let whole : Bool := bs.length = 256
    let v := s.ver0 key
    if ¬ whole ∧ v = v0Poison then (s, stIntegrity)
    else
      let c := if whole ∨ v = 0 then s.lineCheck a key else s.blockCheck a key
      if c.2 ≠ stOk then c
      else
        let s2 := c.1.roomForVersion key
        ((((s2.zeroFresh key a).macGood (macItem 0 key)).treeWrite key (nextVer (s2.ver0 key))).putBytes a bs, stOk)

/-! ### Poison of Press and Drawer (R207, R208) -/

/-- The 64-byte line at an address of Press or Drawer is poisoned. -/
def State.lineBad (s : State) (a : Nat) : Bool := sget (fun _ => false) s.badLines (a / 64)

/-- A write of n bytes at a would write part of a poisoned line (R208). -/
def State.partBad (s : State) (a n : Nat) : Bool := (piecesOf 64 a n).any (fun p => p.2 < 64 && s.lineBad p.1)

/-- A write of bytes within one 64-byte line of Press or Drawer. -/
def State.lineWrite (s : State) (a : Nat) (bs : List Byte) : State × Status :=
  if s.lineBad a then
    if bs.length = 64 then
      ({ s with badLines := sput (fun _ => false) s.badLines (a / 64) false }.putBytes a bs, stOk)
    else (s, stIntegrity)
  else (s.putBytes a bs, stOk)

/-! ### Checks (R18 to R21, R174, R448, R449) -/

/-- Who makes an access: its die, its partition, its service class, 16 × CID + TID of the thread it serves, which
selects a link (R286), the requester port that it goes by (R214, R297; log 99), and the doer that answers from other
devices come back to. -/
structure Agent where
  die : Nat
  pid : BitVec 5
  cls : Nat
  sel : Nat
  port : Nat := 40
  doer : Doer := .none
deriving DecidableEq, Repr

/-- The doer of an agent waits for an answer to what it sends. -/
def Agent.awaits (g : Agent) : Bool := g.doer ≠ .none

/-- The partition of an agent is CONFIDENTIAL. -/
def State.conf (s : State) (g : Agent) : Bool := (s.part g.pid).conf

/-- The agent of a thread, or of an engine command of it; an unheld core acts for partition 0 and no access of it
passes, since partition 0 then holds none of its memory. -/
def State.agentOf (s : State) (w : Who) (cls : Nat) : Agent :=
  { die := dieOfCore w.core.toNat, pid := (s.coreOwner w.core.toNat).getD 0, cls := cls, sel := whoKey w,
    port := clusterOfCore w.core.toNat, doer := .thread w }

/-- The lane that an access with a selector leaves by: link (16 × CID + TID) mod n of the mask (R286). -/
def laneOf (mask : BitVec 34) (sel : Nat) : Nat :=
  let ls := (List.range 34).filter (fun i => mask.getLsbD i)
  ls.getD (sel % ls.length) 0

/-- A byte lies in a frozen range, other than the one whose serial and partition are exempt (R174). -/
def State.frozenAt (s : State) (exempt : Option (BitVec 5 × Nat)) (a : Nat) : Bool :=
  s.frozen.any (fun f => f.live && f.base ≤ a && a < f.base + f.len && some (f.pid, f.serial) ≠ exempt)

/-- The check of one byte at its place for a partition: OK, ADDR_UNMAPPED or BOUND_FAULT (Table 1.5). -/
def State.checkPlace (s : State) (pid : BitVec 5) (write : Bool) (exempt : Option (BitVec 5 × Nat)) :
    Space → Status
  | .hbm a =>
    match s.region (a / 0x200000) with
    | none => stBound
    | some r =>
      if r.owner = some pid ∨ (r.owner = none ∧ ¬ (write ∧ (s.part pid).conf)) then
        if write ∧ s.frozenAt exempt a then stBound else stOk
      else stBound
  | .press c a =>
    if s.clusterOwner c = some pid then
      if write ∧ s.frozenAt exempt a then stBound else stOk
    else stBound
  | .drawer k a =>
    if s.coreOwner k = some pid then
      if write ∧ s.frozenAt exempt a then stBound else stOk
    else stBound
  | .host _ => stOk
  | .remote _ _ => stOk
  | .reg _ => stUnmapped
  | .segment => stSegment
  | .unmapped => stUnmapped

/-- An operation that ends with a status counts in HWIN_FAULTS where an invalid segment gave it (R450). -/
def State.countSegment (s : State) (st : Status) : State :=
  if st = stSegment then s.bump (.dieE tyPcie) 0x180 1 else s

/-- Two checks joined: ADDR_UNMAPPED before BOUND_FAULT before the rest, whatever their order (R18, R19). -/
def joinCheck (a b : Status) : Status :=
  if a = stSegment ∨ b = stSegment then stSegment
  else if a = stUnmapped ∨ b = stUnmapped then stUnmapped
  else if a = stBound ∨ b = stBound then stBound else if a ≠ stOk then a else b

/-- The JOIST page of a die takes remote accesses (Table 16.3). -/
def State.joistOn (s : State) (d : Nat) : Bool := s.takesWork (.die d tyJoist 0)

/-- The doer of an agent has sent an operation to another device: its command runs already. -/
def State.underway (s : State) (g : Agent) : Bool := g.awaits && s.remote.any (fun o => o.doer = g.doer)

/-- Where an address lies for an agent. A device that has lost its last route while the agent's command had an operation there
stays its place, so that the command meets JOIST_LINK_LOST (R288, R293). -/
def State.placeOf (s : State) (g : Agent) (a : Nat) : Space :=
  match s.place g.die a with
  | .unmapped =>
    if a / 2 ^ 46 = 1 ∧ remoteOk (a % 2 ^ 40) ∧ g.awaits ∧
        s.remote.any (fun o => o.doer = g.doer && o.dev.toNat = a / 2 ^ 40 % 64) then .remote (a / 2 ^ 40 % 64) (a % 2 ^ 40)
    else .unmapped
  | pl => pl

/-- The check of one byte of a command's operand: a remote one also needs a JOIST page that is not disabled and, in class C3
and before its command runs, a packet credit (Table 16.3, R290). -/
def State.checkByte (s : State) (g : Agent) (write : Bool) (pl : Space) : Status :=
  match pl with
  | .remote dev _ =>
    if s.underway g then stOk
    else if ¬ s.joistOn g.die then stDisabled
    else if g.cls = 3 ∧ 32 ≤ sget (fun _ => (0 : Nat)) (s.die g.die).c3 dev then stNoCredit else stOk
  | _ => s.checkPlace g.pid write none pl

/-- The check of every byte of a range, as a memory operand (R18, R19). -/
def State.checkRange (s : State) (g : Agent) (write : Bool) (a n : Nat) : Status :=
  (List.range n).foldl (fun st i => joinCheck st (s.checkByte g write (s.placeOf g (a + i)))) stOk

/-- The check of several operand ranges together: (write, address, length) (R19). -/
def State.checkRanges (s : State) (g : Agent) (rs : List (Bool × Nat × Nat)) : Status :=
  rs.foldl (fun st r => joinCheck st (s.checkRange g r.1 r.2.1 r.2.2)) stOk

/-- Memory owned by the partition itself: HBM, Press or Drawer of this device of it, not the open region (R88). Memory of
another device, which R88 does not place, counts as lying outside HBM, Press and Drawer: ADDR_UNMAPPED (DESIGN CHOICE,
log 100). -/
def State.ownedRange (s : State) (g : Agent) (a n : Nat) : Status :=
  (List.range n).foldl (fun st i =>
    joinCheck st (match s.place g.die (a + i) with
      | .hbm l => match s.region (l / 0x200000) with
        | some r => if r.owner = some g.pid then stOk else stBound
        | none => stBound
      | .press c _ => if s.clusterOwner c = some g.pid then stOk else stBound
      | .drawer k _ => if s.coreOwner k = some g.pid then stOk else stBound
      | _ => stUnmapped)) stOk

/-! ### Registers of a thread -/

/-- A general register of a thread; g0 reads zero. -/
def Thread.reg (t : Thread) (r : BitVec 5) : Word := if r = 0 then 0 else sget (fun _ => 0) t.g r.toNat

/-- A general register written; writes to g0 are discarded. -/
def Thread.setReg (t : Thread) (r : BitVec 5) (v : Word) : Thread :=
  if r = 0 then t else { t with g := sput (fun _ => 0) t.g r.toNat v }

/-- The thread of a package-wide number. -/
def whoOf (k : Nat) : Who := { core := BitVec.ofNat 9 (k / 16), thr := BitVec.ofNat 4 k }

/-- An access that will write a register. -/
def Access.writes (x : Access) : Bool := match x.kind with
  | .store => false
  | _ => true

/-- The result of an instruction: an outstanding load of the same register no longer writes it (log 27). -/
def Thread.putReg (t : Thread) (r : BitVec 5) (v : Word) : Thread :=
  { t with accs := t.accs.map (fun (x : Access) => if x.writes ∧ x.rd = r then { x with rd := 0 } else x) }.setReg r v

/-! ### Threads: fault, wake, stop -/

/-- Any thread of a core is FAULTED. -/
def State.anyFaulted (s : State) (k : Nat) : Bool :=
  (List.range 16).any (fun t => (s.thread (whoOf (16 * k + t))).st = .faulted)

/-- The CORE page's THREAD_FAULT condition follows the threads of the core (R100, R475). -/
def State.faultEvent (s : State) (k : Nat) : State := s.cond (s.corePage k 0) 1 (s.anyFaulted k)

/-- A thread no longer waits in NEXT (R99: STOP and a fault leave any wait). -/
def State.dropWaiter (s : State) (w : Who) : State :=
  match (s.thread w).wait with
  | .next q _ _ =>
    let x := s.queue (dieOfCore w.core.toNat) q
    s.setQueue (dieOfCore w.core.toNat) q { x with waiters := x.waiters.filter (fun y => y ≠ w) }
  | _ => s

/-- A fault of a thread (R100): FAULTED, with cause, FAULT_PC and FAULT_ADDR. -/
def State.threadFault (s : State) (w : Who) (cause : BitVec 4) (pc addr : Word) : State :=
  let t := s.thread w
  ((s.dropWaiter w).setThread w { t with st := .faulted, cause := cause, faultPc := pc, faultAddr := addr, wait := .none }).faultEvent
    w.core.toNat

/-- The number of commands a thread has outstanding on a counter (Table 3.3, OUT). -/
def Thread.outOn (t : Thread) (c : Nat) : Nat := sget (fun _ => 0) t.out c

/-- The commands a thread has outstanding on all counters. -/
def Thread.outstanding (t : Thread) : Nat := t.outOn 0 + t.outOn 1 + t.outOn 2 + t.outOn 3

/-- The rest of STOP and HALT (R99): IDLE, or DRAINING while commands are outstanding; any wait is left. -/
def State.endThread (s : State) (w : Who) : State :=
  let t := s.thread w
  let st : TState := if t.outstanding = 0 then .idle else .draining
  ((s.dropWaiter w).setThread w { t with st := st, wait := .none, cause := 0 }).faultEvent w.core.toNat

/-! ### The wake of PARK (R94, R95) -/

/-- An address that a thread's hardware monitor watches: the Press of its cluster, or a Drawer of it. -/
def State.monitored (s : State) (w : Who) (a : Nat) : Bool :=
  match s.place (dieOfCore w.core.toNat) a with
  | .press c _ => c = clusterOfCore w.core.toNat
  | .drawer k _ => clusterOfCore k = clusterOfCore w.core.toNat
  | _ => false

/-- The word of 8 bytes at a local place, as a thread's register. -/
def State.word64 (s : State) (a : Nat) : Word := BitVec.ofNat 64 (Crypto.leNat (s.bytes (localOf a) 8))

/-- A thread wakes from PARK: it reads the word of Press or Drawer again into rd and is READY; a poisoned line faults it
at its PARK (R94, R208). -/
def State.wakePark (s : State) (w : Who) : State :=
  let t := s.thread w
  match t.wait with
  | .park a _ rd _ =>
    if s.lineBad (localOf a) then s.threadFault w fcIntegrity (t.pc - 4) (BitVec.ofNat 64 a)
    else s.setThread w { (t.putReg rd (s.word64 a)) with st := .ready, wait := .none }
  | _ => s

/-- Every thread whose monitor a write to a range touches wakes (R94). -/
def State.wakeParks (s : State) (a n : Nat) : State :=
  s.threads.foldl (fun t e =>
    match e.2.st, e.2.wait with
    | .waitPark, .park p _ _ _ =>
      if localOf p < a + n ∧ a < localOf p + 8 ∧ s.monitored (whoOf e.1) p then t.wakePark (whoOf e.1) else t
    | _, _ => t) s

/-! ### Reading and writing memory -/

/-- What a read or write of memory answers: the state after it and OK with data, or the status it met. -/
abbrev MemResult := State × Status × List Byte

/-! ### Joist links (R285 to R290) -/

/-- A lane of a die. -/
def State.link (s : State) (d lane : Nat) : JLink := sget (fun _ => JLink.reset) (s.die d).links lane

/-- A lane replaced. -/
def State.setLink (s : State) (d lane : Nat) (l : JLink) : State :=
  s.setDie d { s.die d with links := sput (fun _ => JLink.reset) (s.die d).links lane l }

/-- Free credits of a class on a lane, in cells: 32 when the link comes up (R289). -/
def JLink.free (l : JLink) (cls : Nat) : Nat := sget (fun _ => (32 : Nat)) l.credits cls

/-- The cells that a packet takes. -/
def pktCells (p : JPkt) : Nat := (16 + p.payload.length + 255) / 256

/-- A packet can leave on a link now: no earlier packet of its class waits, and there is credit for it (R289). -/
def JLink.canSend (l : JLink) (p : JPkt) : Bool :=
  l.up && !l.queued.any (fun x => x.2.1.cls = p.cls) && decide (pktCells p ≤ l.free p.cls.toNat)

/-- The cells of the receive buffer of a lane that a packet's class occupies. -/
def JLink.held (l : JLink) (cls : Nat) : Nat := sget (fun _ => (0 : Nat)) l.rx cls

/-- A packet leaves the receive buffer of a lane where it stood, and the sender there gets its cells back (R289). -/
def State.freeCells (s : State) (d lane : Nat) (p : JPkt) : State :=
  let l := s.link d lane
  let s1 := s.setLink d lane { l with rx := sput (fun _ => (0 : Nat)) l.rx p.cls.toNat (l.held p.cls.toNat - pktCells p) }
  if l.up then s1.emit (.credit (BitVec.ofNat 2 d) (BitVec.ofNat 6 lane) p.cls (pktCells p)) else s1

/-- The thread access that waits for a response, by its device and TAG. -/
def State.findPend (s : State) (dev : BitVec 6) (tag : BitVec 16) : Option (Nat × JPend) :=
  ((List.range 4).filterMap (fun d =>
    ((s.die d).pend.find? (fun p => p.tag = tag && p.dst = dev)).map (fun p => (d, p)))).head?

/-- The remote operation of a command that waits for a response, by its device and TAG. -/
def State.findOp (s : State) (dev : BitVec 6) (tag : BitVec 16) : Option RemOp :=
  s.remote.find? (fun o => o.done.isNone && o.tag = tag && o.dev = dev)

/-- The requester port of a packet at a lane (R297, log 99): the lane that it came by where it is forwarded, else the port
of the agent whose request it is. -/
def State.packetPort (s : State) (p : JPkt) (org : Option (BitVec 2 × BitVec 6)) (port : Option Nat) : Nat :=
  match org, port with
  | some (_, n), _ => n.toNat
  | none, some q => q
  | none, none =>
    match s.findPend p.dst p.tag, s.findOp p.dst p.tag with
    | some (_, j), _ => clusterOfCore j.who.core.toNat
    | none, some o => o.port
    | none, none => 40

/-- A packet leaves on a lane against credit, and stays in the replay buffer; else it waits (R285, R289). `org` is the
lane that a forwarded packet came by: its cells there go back when it leaves. In the fail-safe state links are idle
(R296). A C0 packet is metered (R297). -/
def State.joistSend (s : State) (d lane : Nat) (ty : BitVec 4) (p : JPkt) (org : Option (BitVec 2 × BitVec 6) := none)
    (mark : Bool := false) (port : Option Nat := none) : State :=
  let l := s.link d lane
  let cls := p.cls.toNat
  if s.failsafe then s
  else if l.canSend p then
    let s1 := (s.setLink d lane { l with credits := sput (fun _ => (32 : Nat)) l.credits cls (l.free cls - pktCells p)
                                         replay := l.replay ++ [(ty, p)] }).emit (.joist (BitVec.ofNat 2 d) lane ty p)
    let s2 := if cls = 0 then s1.meter (.lane d lane) (s.packetPort p org port) (16 + p.payload.length) mark else s1
    match org with
    | some (d', n') => s2.freeCells d'.toNat n'.toNat p
    | none => s2
  else s.setLink d lane { l with queued := l.queued ++ [(ty, p, org)] }

/-- A TAG that awaits an answer. -/
def State.tagBusy (s : State) (d : Nat) (t : BitVec 16) : Bool :=
  (s.die d).pend.any (fun x => x.tag = t) || s.remote.any (fun x => x.tag = t && x.done.isNone)

/-- The next TAG of a die, its number in bits [15:14]: the next number after the last one used that no operation awaits
(log 13). -/
def State.nextTag (s : State) (d : Nat) : BitVec 16 :=
  let num := fun i => BitVec.ofNat 16 (d * 2 ^ 14 + ((s.die d).nextTag.toNat + i) % 2 ^ 14)
  num (((List.range ((s.die d).pend.length + s.remote.length + 1)).find? (fun i => !s.tagBusy d (num i))).getD 0)

/-- The packet of an agent's remote access (Table 10.2). -/
def State.remotePkt (s : State) (g : Agent) (dev l n : Nat) (op : BitVec 8) (released : Bool) (bs : List Byte) : JPkt :=
  { cls := BitVec.ofNat 2 g.cls, src := BitVec.ofNat 6 ((s.devNum g.die).getD 0), dst := BitVec.ofNat 6 dev,
    status := 0, rpid := (s.part g.pid).rpid, tag := s.nextTag g.die, addr := BitVec.ofNat 40 l,
    size := BitVec.ofNat 8 (n - 1), op := op, released := released, payload := bs }

/-- A packet leaves by the lane that R286 gives for a selector. -/
def State.joistOut (s : State) (d sel : Nat) (ty : BitVec 4) (p : JPkt) (mark : Bool := false) (port : Option Nat := none) :
    State :=
  let e := (s.routeDie d p.dst.toNat).getD d
  s.joistSend e (laneOf (s.routeMask e p.dst.toNat) sel) ty p none mark port

/-- A C3 packet credit toward a device comes back to a die; the oldest packet there that waits for one leaves (R290). -/
def State.joistCredit (s : State) (d dev : Nat) : State :=
  let x := s.die d
  match x.c3Wait.find? (fun w => w.2.2.dst.toNat = dev) with
  | some w => (s.setDie d { x with c3Wait := x.c3Wait.erase w }).joistOut d w.1 w.2.1 w.2.2
  | none => s.setDie d { x with c3 := sput (fun _ => (0 : Nat)) x.c3 dev (sget (fun _ => (0 : Nat)) x.c3 dev - 1) }

/-- A packet that waited in a buffer leaves: where a lane served it as C1, the operation of a command that it serves notes
that (R10). -/
def State.joistResend (s : State) (d lane : Nat) (ty : BitVec 4) (p : JPkt) (org : Option (BitVec 2 × BitVec 6)) : State :=
  let t := { s with run := { s.run with demoted := false } }.joistSend d lane ty p org true
  { t with
    remote := if t.run.demoted then t.remote.map (fun (o : RemOp) =>
        if o.tag = p.tag ∧ o.dev = p.dst ∧ o.done.isNone then { o with demoted := true } else o) else t.remote
    run := s.run }

/-- C3 packet credits of a die in use toward a device (R290). -/
def DieSt.c3Used (x : DieSt) (dev : Nat) : Nat := sget (fun _ => (0 : Nat)) x.c3 dev

/-- A packet of an agent sent toward a device; its TAG is used. In class C3 it takes one of the 32 packet credits of the
device, and waits where none is free (R290). -/
def State.sendRemote (s : State) (g : Agent) (ty : BitVec 4) (p : JPkt) : State :=
  let dev := p.dst.toNat
  let x := s.die g.die
  let next := BitVec.ofNat 16 (p.tag.toNat % 2 ^ 14 + 1)
  if p.cls = 3 ∧ 32 ≤ x.c3Used dev then
    s.setDie g.die { x with nextTag := next, c3Wait := x.c3Wait ++ [(g.sel, ty, p)] }
  else
    (s.setDie g.die { x with
      nextTag := next
      c3 := if p.cls = 3 then sput (fun _ => (0 : Nat)) x.c3 dev (x.c3Used dev + 1) else x.c3 }).joistOut g.die g.sel ty p g.awaits
      (some g.port)

/-- A remote operation of an agent sent, as RD_REQ, WR or, for a long-form add, ATOM with OP 4, and noted where its doer
awaits the answer (R291). -/
def State.sendOp (s : State) (g : Agent) (read lf : Bool) (dev l n : Nat) (released : Bool) (bs : List Byte) : State :=
  let p := s.remotePkt g dev l n (if lf then 4 else 0) released bs
  let s1 := s.sendRemote g (if read then 1 else if lf then 4 else 3) p
  if g.awaits then
    { s1 with remote := s1.remote ++ [{ doer := g.doer, sel := g.sel, port := g.port, demoted := false, read := read, lf := lf,
                                        dev := BitVec.ofNat 6 dev, addr := l, size := n, tag := p.tag, done := none }] }
  else s1

/-- The remote read of a doer that has been sent. -/
def State.sentRead (s : State) (doer : Doer) (dev l n : Nat) : Option RemOp :=
  s.remote.find? (fun o => o.read && o.doer = doer && o.dev.toNat = dev && o.addr = l && o.size = n)

/-- The requests that a run found it needs are sent, but for those already under way (R291). -/
def State.sendAsks (s : State) (asks : List Ask) : State :=
  asks.foldl (fun (t : State) a =>
    if (t.sentRead a.doer a.dev a.addr a.size).isSome then t
    else t.sendOp { die := a.die, pid := a.pid, cls := a.cls, sel := a.sel, port := a.port, doer := a.doer } true false a.dev
      a.addr a.size false []) s

/-- The end of a run: one that needed data of other devices is undone and its requests are sent, to run again when they
have come (log 24); else its answers are used up. -/
def State.settle (s0 : State) (doer : Doer) (r : State) : State :=
  if r.run.asks.isEmpty then
    { r with remote := r.remote.filter (fun o => !(o.read && o.doer = doer)), run := RunSt.reset }
  else s0.sendAsks r.run.asks

/-- HBM credits of a controller and requester port that commands hold (R214): a command keeps those it took, up to 64, until its
ENGINE_COMPLETION (DESIGN CHOICE, log 106). -/
def State.c3Used (s : State) (key : Nat) : Nat :=
  let of := fun (l : List (Nat × Nat)) => sget (fun _ => (0 : Nat)) l key
  s.cores.foldl (fun n c => (c.2.mxeQ ++ c.2.rgeQ ++ c.2.mkxQ ++ c.2.dmaQ).foldl (fun m x => m + of x.c3) n)
    (s.clusters.foldl (fun n c =>
      n + ((c.2.nsuRun.map (fun r => of r.c3)).getD 0) + ((c.2.rtrRun.map (fun r => of r.c3)).getD 0)) 0)

/-- One more C3 request of the running command at a controller, which together hold at most `free` credits. -/
def RunSt.touched (r : RunSt) (key free : Nat) : RunSt :=
  { r with touch := sput (fun _ => (0 : Nat)) r.touch key (min free (sget (fun _ => (0 : Nat)) r.touch key + 1)) }

/-- One more remote read that the running command needs. -/
def RunSt.asked (r : RunSt) (a : Ask) : RunSt := { r with asks := r.asks ++ [a] }

/-- An agent's need of n bytes of another device. -/
def Agent.ask (g : Agent) (dev l n : Nat) : Ask :=
  { doer := g.doer, die := g.die, pid := g.pid, cls := g.cls, sel := g.sel, port := g.port, dev := dev, addr := l,
    size := n }

/-- A request to the controller of an HBM address in the agent's class: C0 is metered (R297), C3 needs one of the 64
credits that the agent's port has there (R214). -/
def State.hbmRequest (s : State) (g : Agent) (a n : Nat) : State × Status :=
  if g.cls = 0 then
    match s.hbmPlace a with
    | some (st, _) => (s.meter (.hbm st) g.port n g.awaits, stOk)
    | none => (s, stOk)
  else if g.cls = 3 then
    match s.hbmPlace a with
    | some (st, _) =>
      let key := 64 * st + g.port
      if 64 ≤ s.c3Used key then
        ({ s.bump (hbmcPage st) 0x118 1 with run := { s.run with refused := true } }, stNoCredit)
      else if g.awaits then
        ({ s with run := s.run.touched key (64 - s.c3Used key) }, stOk)
      else (s, stOk)
    | none => (s, stOk)
  else (s, stOk)

/-- A read of one piece at its place. Host reads fail with PEER_RESET while bus mastering is off (R393, R450). A remote
read takes the answer that has come, else the run asks for it (R291, R292). -/
def State.readPiece (s : State) (g : Agent) (a n : Nat) : MemResult :=
  match s.placeOf g a with
  | .hbm l =>
    match s.blockKey l with
    | none => (s, stBound, [])
    | some key =>
      let (s0, st0) := s.hbmRequest g l n
      if st0 ≠ stOk then (s0, st0, [])
      else if s.keyLost l then (s0, stIntegrity, [])
      else
        let (s', st) := if s0.ver0 key = 0 then (s0, stOk) else s0.blockCheck l key
        (s', st, if st = stOk then s'.bytes l n else [])
  | .press _ l => if s.lineBad l then (s, stIntegrity, []) else (s, stOk, s.bytes l n)
  | .drawer _ l => if s.lineBad l then (s, stIntegrity, []) else (s, stOk, s.bytes l n)
  | .host bus => if s.host.bme ∧ ¬ s.host.inReset then (s, stOk, s.hostBytes bus n) else (s, stPeerReset, [])
  | .remote dev l =>
    match (s.sentRead g.doer dev l n).bind RemOp.done with
    | some (st, b) => (s, st, if st = stOk then b else [])
    | none =>
      ({ s with run := s.run.asked (g.ask dev l n) }, stLinkLost, [])
  | .reg _ => (s, stUnmapped, [])
  | .segment => (s, stSegment, [])
  | .unmapped => (s, stUnmapped, [])

/-- Reads of pieces one after the other; they stop at the first that fails, but a run that lacks data of another device
goes on to ask for all that it needs (R291). -/
def State.readPieces (g : Agent) (r : MemResult) (ps : List (Nat × Nat)) : MemResult :=
  ps.foldl (fun r p =>
    if r.2.1 ≠ stOk ∧ r.1.run.asks.isEmpty then r
    else
      let x := r.1.readPiece g p.1 p.2
      (x.1, if r.2.1 ≠ stOk then r.2.1 else x.2.1, r.2.2 ++ x.2.2)) r

/-- A place on another device. -/
def Space.isRemote : Space → Bool
  | .remote _ _ => true
  | _ => false

/-- A read of n bytes: by 64-byte lines here, by packets of at most 256 bytes at 256-byte boundaries from another
device (R291). -/
def State.memRead (s : State) (g : Agent) (a n : Nat) : MemResult :=
  (piecesOf 256 a n).foldl (fun r p =>
    State.readPieces g r (if (r.1.placeOf g p.1).isRemote then [p] else piecesOf 64 p.1 p.2)) (s, stOk, [])

/-- A write of bytes within one 256-byte piece of Press or Drawer, line by line; it stops at the first line that refuses
it. The wake of PARK follows each line's write (R94). -/
def State.linesWrite (s : State) (a : Nat) (bs : List Byte) : State × Status :=
  (piecesOf 64 a bs.length).foldl (fun (r : State × Status) p =>
    if r.2 ≠ stOk then r
    else
      let x := r.1.lineWrite p.1 ((bs.drop (p.1 - a)).take p.2)
      if x.2 = stOk then (x.1.wakeParks p.1 p.2, stOk) else x) (s, stOk)

/-- A write of bytes within one 256-byte piece at its place, where the ownership of every byte is checked again (R20,
R474). -/
def State.writePiece (s : State) (g : Agent) (released : Bool) (exempt : Option (BitVec 5 × Nat)) (a : Nat)
    (bs : List Byte) : State × Status :=
  let pl := s.place g.die a
  let chk := (List.range bs.length).foldl (fun st i =>
    joinCheck st (s.checkPlace g.pid true exempt (s.place g.die (a + i)))) stOk
  if chk ≠ stOk then (s, chk)
  else match pl with
    | .hbm l =>
      let r := s.hbmRequest g l bs.length
      if r.2 ≠ stOk then r else r.1.blockWrite l bs
    | .press _ l => s.linesWrite l bs
    | .drawer _ l => s.linesWrite l bs
    | .host bus =>
      if s.failsafe then (s, stFailsafe)
      else if s.host.bme ∧ ¬ s.host.inReset then (s.putHost bus bs, stOk) else (s, stPeerReset)
    | .remote dev l => (s.sendOp g false false dev l bs.length released bs, stOk)
    | .reg _ => (s, stUnmapped)
    | .segment => (s, stSegment)
    | .unmapped => (s, stUnmapped)

/-- A write of bytes from address a, in rising order; it stops at the first piece that is refused (R474). -/
def State.memWrite (s : State) (g : Agent) (released : Bool) (exempt : Option (BitVec 5 × Nat)) (a : Nat)
    (bs : List Byte) : State × Status :=
  (piecesOf 256 a bs.length).foldl (fun r p =>
    if r.2 ≠ stOk then r else r.1.writePiece g released exempt p.1 ((bs.drop (p.1 - a)).take p.2)) (s, stOk)

/-- A little-endian number of n bytes read from memory (R4). -/
def State.readNum (s : State) (g : Agent) (a n : Nat) : State × Status × Nat :=
  let r := s.memRead g a n
  (r.1, r.2.1, Crypto.leNat r.2.2)

/-! ### The Wicket's counts (R179, Table 6.8) -/

/-- A refusal by the Wicket of die d: DENIALS and LAST_DENY. -/
def State.wicketDeny (s : State) (d : Nat) (pid : BitVec 5) (path reason : Nat) : State :=
  (s.bump (.die d tyWicket 0) 0x104 1).wrN (.die d tyWicket 0) 0x110
    (pid.toNat * 2 ^ 24 + path * 2 ^ 16 + reason)

/-- The status of an engine write of a CONFIDENTIAL partition that no release covers: into the host window
(R21), or over Joist outside rack trust (R295). OK where the Wicket does not come into it. -/
def State.wicketPath (s : State) (g : Agent) (a : Nat) : Option Nat :=
  if s.conf g then
    match s.place g.die a with
    | .host _ => some 0
    | .remote dev _ =>
      if (s.part g.pid).rackTrust ∧ (s.part g.pid).trust.getLsbD dev then none else some 2
    | _ => none
  else none

/-- The Wicket's part in an engine write of a range that names no release: RELEASE_DENIED and its count on the
issuing thread's die, at the first byte that leaves the partition's trust (log 46). -/
def State.wicketWrite (s : State) (g : Agent) (a n : Nat) : State × Status :=
  match (List.range n).findSome? (fun i => s.wicketPath g (a + i)) with
  | some path => (s.wicketDeny (dieOfCore (g.sel / 16)) g.pid path 1, stReleaseDenied)
  | none => (s, stOk)

end Sys2Proof.Machine
end

