-- ==== Sys2Proof/Machine/Thread.lean ====
section
/-!
DEFINITION. Threads (chapter 03): fetch, the issue of one instruction, the plain instructions, the issue of
loads, stores and atomics, fences, barriers, ISSUE, WAITC, START, STOP, HALT, and the completion of an engine
command. A thread command has effect only where its thread is READY, its instruction line is in the buffer and
the word at its PC is that command's (R70, R76, R82); a word that is illegal faults the thread (R77).
-/

/-- The number of an engine's counter (Table 3.3). -/
def Sys2Proof.Engine.idx : Sys2Proof.Engine → Nat
  | .mxe => 0
  | .rge => 1
  | .mkx => 2
  | .dma => 3

namespace Sys2Proof.Machine

/-- The outcome of a command that always has a next state. -/
abbrev Out := Host.Outcome State Fault Refusal

/-! ### Fetch (R82) -/

/-- What a thread's fetch finds. -/
inductive Fetched where
  | word (v : BitVec 32)
  | miss
  | bad
deriving DecidableEq, Repr

/-- The local address of the 64-byte line that holds an address. -/
def lineOf (a : Nat) : Nat := localOf a / 64 * 64

/-- A fetch target that faults with FETCH: not a multiple of 4, not in HBM, Press or Drawer of this device, or
refused by the checks of R16 to R20. -/
def State.fetchBad (s : State) (w : Who) (pc : Nat) : Bool :=
  let g := s.agentOf w 1
  let pl := s.place g.die pc
  pc % 4 ≠ 0 || s.checkPlace g.pid false none pl ≠ stOk ||
    (match pl with
      | .hbm _ => false
      | .press _ _ => false
      | .drawer _ _ => false
      | _ => true)

/-- A thread's fetch: the word of a buffered line, a miss, or a fetch that faults. -/
def State.fetch (s : State) (w : Who) : Fetched :=
  let pc := (s.thread w).pc.toNat
  if s.fetchBad w pc then .bad
  else match (s.core w.core.toNat).ibuf.find? (fun l => l.1 = lineOf pc) with
    | some l => .word (BitVec.ofNat 32 (Crypto.leNat ((l.2.drop (pc % 64)).take 4)))
    | none => .miss

/-- The predicate that a guard names; p0 reads true (R76). -/
def Thread.pred (t : Thread) (p : BitVec 3) : Bool := p = 0 || t.p.getLsbD p.toNat

/-- A predicate written; writes to p0 are discarded. -/
def Thread.setPred (t : Thread) (p : BitVec 3) (v : Bool) : Thread :=
  if p = 0 then t
  else { t with p := if v then t.p ||| (1 <<< p.toNat) else t.p &&& ~~~((1 : BitVec 8) <<< p.toNat) }

/-- A register that an outstanding load or atomic will write (R72). -/
def Thread.regBusy (t : Thread) (r : BitVec 5) : Bool := r ≠ 0 && t.accs.any (fun x => x.writes && x.rd = r)

/-- The ESC_CTRL, SPARES, CLOCKS, LEDGER and PCIE pages. -/
abbrev escPage : Page := .dieE tyEsc
abbrev sparesPage : Page := .dieE tySpares
abbrev clocksPage : Page := .dieE tyClocks
abbrev ledgerPage : Page := .dieE tyLedger
abbrev pciePage : Page := .dieE tyPcie

/-- The admission of a class in sixteenths (R406): C0 in full, the others as LEDGER.ADMIT shows it. -/
def State.admission (s : State) (cls : BitVec 2) : Nat :=
  if cls = 0 then 16 else field (s.rdN ledgerPage 0x110) (8 * (cls.toNat - 1)) 5

/-- Work of a class runs in some of every 16 ENG cycles (R406). -/
def State.admits (s : State) (cls : BitVec 2) : Bool := s.admission cls ≠ 0

/-- A thread that may issue: READY, on a core present, in READY and ACTIVE, where the Ledger admits work of C1 (R70, R406). -/
def State.active (s : State) (w : Who) : Bool :=
  s.engOn && (s.physCore w.core.toNat).isSome && (s.thread w).st = .ready && s.admits 1

/-- Loads outstanding, atomics among them (R72, log 28). -/
def Thread.loads (t : Thread) : Nat := (t.accs.filter Access.writes).length

/-- Stores outstanding, atomics among them (R72, log 28). -/
def Thread.stores (t : Thread) : Nat :=
  (t.accs.filter (fun x => match x.kind with
    | .load _ => false
    | _ => true)).length

/-- Every earlier access of the thread is complete: accepted, and acknowledged where remote (R33). -/
def Thread.quiet (t : Thread) : Bool := t.accs.isEmpty

/-- What an instruction of a thread waits for before it issues: the predicate that guards it, the registers that it
reads, and slots or earlier accesses; none where an arbiter's grant decides (R70, log 4). -/
structure Needs where
  gp    : BitVec 3
  reads : List (BitVec 5)
  load  : Bool := false
  store : Bool := false
  quiet : Bool := false
  loadsDone : Bool := false

/-- What an instruction waits for; none for ISSUE, PUT and PARK, whose wait is for a credit or for an answer
(`State.issuesWait`), and for what is no instruction (R70). -/
def needsOf : Instr → Option Needs
  | .add _ gp _ ra rb => some { gp := gp, reads := [ra, rb] }
  | .sub _ gp _ ra rb => some { gp := gp, reads := [ra, rb] }
  | .and _ gp _ ra rb => some { gp := gp, reads := [ra, rb] }
  | .or _ gp _ ra rb => some { gp := gp, reads := [ra, rb] }
  | .xor _ gp _ ra rb => some { gp := gp, reads := [ra, rb] }
  | .shl _ gp _ ra rb => some { gp := gp, reads := [ra, rb] }
  | .shr _ gp _ ra rb => some { gp := gp, reads := [ra, rb] }
  | .sra _ gp _ ra rb => some { gp := gp, reads := [ra, rb] }
  | .mul _ gp _ ra rb => some { gp := gp, reads := [ra, rb] }
  | .mulhu _ gp _ ra rb => some { gp := gp, reads := [ra, rb] }
  | .min _ gp _ ra rb => some { gp := gp, reads := [ra, rb] }
  | .max _ gp _ ra rb => some { gp := gp, reads := [ra, rb] }
  | .addi _ gp _ ra _ => some { gp := gp, reads := [ra] }
  | .andi _ gp _ ra _ => some { gp := gp, reads := [ra] }
  | .ori _ gp _ ra _ => some { gp := gp, reads := [ra] }
  | .xori _ gp _ ra _ => some { gp := gp, reads := [ra] }
  | .shli _ gp _ ra _ => some { gp := gp, reads := [ra] }
  | .shri _ gp _ ra _ => some { gp := gp, reads := [ra] }
  | .srai _ gp _ ra _ => some { gp := gp, reads := [ra] }
  | .movz _ gp _ _ _ => some { gp := gp, reads := [] }
  | .movk _ gp rd _ _ => some { gp := gp, reads := [rd] }
  | .cmp _ gp _ _ ra rb _ => some { gp := gp, reads := [ra, rb] }
  | .cmpi _ gp _ _ ra _ _ => some { gp := gp, reads := [ra] }
  | .plog _ gp _ _ _ _ => some { gp := gp, reads := [] }
  | .ld8 _ gp _ ra _ => some { gp := gp, reads := [ra], load := true }
  | .ld16 _ gp _ ra _ => some { gp := gp, reads := [ra], load := true }
  | .ld32 _ gp _ ra _ => some { gp := gp, reads := [ra], load := true }
  | .ld64 _ gp _ ra _ => some { gp := gp, reads := [ra], load := true }
  | .lds8 _ gp _ ra _ => some { gp := gp, reads := [ra], load := true }
  | .lds16 _ gp _ ra _ => some { gp := gp, reads := [ra], load := true }
  | .lds32 _ gp _ ra _ => some { gp := gp, reads := [ra], load := true }
  | .st8 _ gp rs ra _ => some { gp := gp, reads := [rs, ra], store := true }
  | .st16 _ gp rs ra _ => some { gp := gp, reads := [rs, ra], store := true }
  | .st32 _ gp rs ra _ => some { gp := gp, reads := [rs, ra], store := true }
  | .st64 _ gp rs ra _ => some { gp := gp, reads := [rs, ra], store := true }
  | .lda _ gp _ ra _ _ => some { gp := gp, reads := [ra], load := true }
  | .stl _ gp rs ra _ => some { gp := gp, reads := [rs, ra], store := true }
  | .fadd _ gp _ ra rb _ _ => some { gp := gp, reads := [ra, rb], load := true, store := true }
  | .swap _ gp _ ra rb _ _ => some { gp := gp, reads := [ra, rb], load := true, store := true }
  | .cas _ gp rd ra rb _ _ => some { gp := gp, reads := [ra, rb, rd], load := true, store := true }
  | .atomMax _ gp _ ra rb _ _ => some { gp := gp, reads := [ra, rb], load := true, store := true }
  | .atomLfadd _ gp _ ra rb _ => some { gp := gp, reads := [ra, rb], load := true, store := true }
  | .br _ gp _ => some { gp := gp, reads := [] }
  | .call _ gp _ => some { gp := gp, reads := [] }
  | .jalr _ gp _ ra => some { gp := gp, reads := [ra] }
  | .beq _ gp ra rb _ => some { gp := gp, reads := [ra, rb] }
  | .bne _ gp ra rb _ => some { gp := gp, reads := [ra, rb] }
  | .blt _ gp ra rb _ => some { gp := gp, reads := [ra, rb] }
  | .bge _ gp ra rb _ => some { gp := gp, reads := [ra, rb] }
  | .fenceAcq _ gp => some { gp := gp, reads := [], loadsDone := true }
  | .fenceRel _ gp => some { gp := gp, reads := [], quiet := true }
  | .fenceFull _ gp => some { gp := gp, reads := [], quiet := true }
  | .ifence _ gp => some { gp := gp, reads := [], quiet := true }
  | .barSync _ gp ra rb => some { gp := gp, reads := [ra, rb], quiet := true }
  | .barArrive _ gp ra rb => some { gp := gp, reads := [ra, rb], quiet := true }
  | .waitc _ gp _ ra _ => some { gp := gp, reads := [ra] }
  | .next _ gp _ ra _ _ => some { gp := gp, reads := [ra] }
  | .mfs _ gp _ _ => some { gp := gp, reads := [] }
  | .mts _ gp _ ra => some { gp := gp, reads := [ra] }
  | .halt _ gp => some { gp := gp, reads := [], quiet := true }
  | _ => none

/-- An instruction whose result or target has a latency of more than one cycle (Table 3.2). -/
def slowInstr : Instr → Bool
  | .mul .. => true
  | .mulhu .. => true
  | .br .. => true
  | .call .. => true
  | .jalr .. => true
  | .beq .. => true
  | .bne .. => true
  | .blt .. => true
  | .bge .. => true
  | _ => false

/-- What an instruction needs has come. -/
def Thread.ready (t : Thread) (n : Needs) : Bool :=
  !n.reads.any t.regBusy && !(n.load && decide (4 ≤ t.loads)) && !(n.store && decide (8 ≤ t.stores)) &&
  (!n.quiet || t.quiet) && (!n.loadsDone || decide (t.loads = 0))

/-! ### What ISSUE, PUT and PARK wait for (R70, R89, R90, R94, R97) -/

/-- One form of an address: the own rack-global form is the local one (R23). -/
def State.canon (s : State) (d a : Nat) : Nat :=
  if a / 2 ^ 46 = 1 ∧ s.devNum d = some (a / 2 ^ 40 % 64) then a % 2 ^ 40 else a

/-- Two ranges share a byte. -/
def State.overlap (s : State) (d : Nat) (x y : Nat × Nat) : Bool :=
  s.canon d x.1 < s.canon d y.1 + y.2 && s.canon d y.1 < s.canon d x.1 + x.2

/-- An access is a store or an atomic. -/
def Access.stores (x : Access) : Bool := match x.kind with
  | .load _ => false
  | _ => true

/-- An access is performed: its data has come. A performed store is no longer outstanding. -/
def Access.performed (x : Access) : Bool := match x.stage with
  | .got _ => true
  | _ => false

/-- A register access. -/
def State.accReg (s : State) (d : Nat) (x : Access) : Bool :=
  match s.place d x.addr with
  | .reg _ => true
  | _ => false

/-- The DRESSER page of a die. -/
def dresserPage (d : Nat) : Page := .die d tyDresser 0

/-- A queue appends nothing: disabled, or its die's Dresser is disabled (R284, Table 16.3). -/
def State.queueOff (s : State) (d : Nat) (q : BitVec 12) : Bool :=
  (s.queue d q).disabled || !s.takesWork (dresserPage d)

/-- The entries of a queue that a producer has in it: the credits it has spent (R279). -/
def DQueue.held (x : DQueue) (p : Producer) : Nat := (x.entries.filter (fun e => e.2 = p)).length

/-- A producer has a credit of a queue left (R277). -/
def DQueue.hasCredit (x : DQueue) (p : Producer) : Bool := x.held p ≤ x.grant.toNat

/-- The engine of descriptor byte 1 (Table 3.8). -/
def engineOf (b : Nat) : Option Engine :=
  match b with
  | 1 => some .mxe
  | 2 => some .rge
  | 3 => some .mkx
  | 4 => some .dma
  | _ => none

/-- The command queue of an engine. -/
def CoreSt.q (c : CoreSt) : Engine → List EngEntry
  | .mxe => c.mxeQ
  | .rge => c.rgeQ
  | .mkx => c.mkxQ
  | .dma => c.dmaQ

/-- The producer's free credit for an engine queue of a core (R280): 16 for the own thread processor, 8 for
another of the cluster, 8 shared by each other cluster. Entries not yet taken hold credits. -/
def State.engCredit (s : State) (src dst : Nat) (e : Engine) : Bool :=
  let wait := ((s.core dst).q e).filter (fun x => x.status.isNone)
  if src = dst then (wait.filter (fun x => x.core.toNat = src)).length < 16
  else if clusterOfCore src = clusterOfCore dst then (wait.filter (fun x => x.core.toNat = src)).length < 8
  else (wait.filter (fun x => clusterOfCore x.core.toNat = clusterOfCore src)).length < 8

/-- The target of an ISSUE: the own core, or the present logical core in rb of the same partition. -/
def State.issueTarget (s : State) (w : Who) (remote : Bool) (rb : Word) : Status × Nat :=
  if ¬ remote then (stOk, w.core.toNat)
  else if 512 ≤ rb.toNat ∨ (s.physCore rb.toNat).isNone then (stUnmapped, 0)
  else if s.coreOwner rb.toNat ≠ s.coreOwner w.core.toNat then (stBound, 0)
  else (stOk, rb.toNat)

/-- ISSUE finds no fault, and no credit or count of its engine type free for it (R89, R90). -/
def State.issueWaits (s : State) (w : Who) (a : Nat) (remote : Bool) (rb : Word) : Bool :=
  a % 64 = 0 && s.ownedRange (s.agentOf w 1) a 64 = stOk &&
  (match engineOf (Crypto.leNat (s.readPiece (s.agentOf w 1) (a + 1) 1).2.2) with
    | none => false
    | some e =>
      let tg := s.issueTarget w remote rb
      tg.1 = stOk && (255 ≤ (s.thread w).outOn e.idx || !s.engCredit w.core.toNat tg.2 e))

/-- PUT finds no fault, an enabled queue, and no credit of it free (R97). -/
def State.putWaits (s : State) (w : Who) (q : BitVec 12) : Bool :=
  let d := dieOfCore w.core.toNat
  let x := s.queue d q
  x.pid.isSome && x.pid = s.coreOwner w.core.toNat && x.kind ≠ 0 && !s.queueOff d q && !x.hasCredit (.tp w.core)

/-- PARK waits for an earlier access of its thread to its bytes, for an earlier acquire, or for the answer of the device
that holds them (R94, R291). -/
def State.parkWaits (s : State) (w : Who) (a : Nat) : Bool :=
  let d := dieOfCore w.core.toNat
  a % 8 = 0 &&
  ((s.thread w).accs.any (fun y => !y.performed && (y.acq || s.overlap d (y.addr, y.size) (a, 8) || s.accReg d y)) ||
    (match s.placeOf (s.agentOf w 1) a with
      | .remote dev l => ((s.sentRead (.thread w) dev l 8).bind RemOp.done).isNone
      | _ => false))

/-- A thread issues ISSUE, PUT or PARK where its word decodes to one that its guard passes over or that waits for
nothing. -/
def State.issuesWait (s : State) (w : Who) : Instr → Bool
  | .issue _ gp ra rb remote =>
    let t := s.thread w
    !t.pred gp || (!t.regBusy ra && !(remote && t.regBusy rb) && t.quiet && !s.issueWaits w (t.reg ra).toNat remote (t.reg rb))
  | .put _ gp ra rb =>
    let t := s.thread w
    !t.pred gp || (!t.regBusy ra && !t.regBusy rb && !s.putWaits w ((t.reg ra).truncate 12))
  | .park _ gp _ ra rb _ =>
    let t := s.thread w
    !t.pred gp || (!t.regBusy ra && !t.regBusy rb && !s.parkWaits w (t.reg ra).toNat)
  | _ => false

/-- A thread that R70 does not pass over: its next instruction, or the fault of fetching or decoding it, waits for
nothing. One within the latency of Table 3.2 may be passed over (log 4). -/
def State.couldIssue (s : State) (w : Who) : Bool :=
  s.active w && !(s.thread w).lat &&
  (match s.fetch w with
    | .miss => false
    | .bad => true
    | .word v =>
      match decodeThreadWord w v with
      | none => true
      | some j =>
        match needsOf j with
        | none => s.issuesWait w j
        | some n => !(s.thread w).pred n.gp || (s.thread w).ready n)

/-- The threads of a core that come after the one that issued last and before a thread, in the order of R70. -/
def State.ahead (s : State) (w : Who) : List Who :=
  (((List.range 16).map (fun i => { w with thr := (s.core w.core.toNat).last + 1 + BitVec.ofNat 4 i })).takeWhile
    (fun v => v ≠ w))

/-- It is the thread's turn: every thread ahead of it is passed over (R70). -/
def State.turn (s : State) (w : Who) : Bool := (s.ahead w).all (fun v => !s.couldIssue v)

/-- The thread has issued: it is the last one of its core, and an instruction with a latency sets it in that (R70,
R71). -/
def State.took (s : State) (w : Who) (slow : Bool) : State :=
  (s.setCore w.core.toNat { s.core w.core.toNat with last := w.thr }).setThread w { s.thread w with lat := slow }

/-- The thread issues this instruction now: it is its turn, its word is fetched, decodes to it, its guard is true, no
register it reads awaits a load, and what else it needs has come (R70 to R77). -/
def State.issues (s : State) (w : Who) (i : Instr) (gp : BitVec 3) (reads : List (BitVec 5)) : Bool :=
  s.active w && s.turn w &&
  (match s.fetch w with
    | .word v => decodeThreadWord w v = some i
    | _ => false) &&
  (s.thread w).pred gp && !reads.any (fun r => (s.thread w).regBusy r) &&
  ((needsOf i).map (s.thread w).ready).getD true

/-- The thread with its PC moved past an instruction. -/
def Thread.step (t : Thread) : Thread := { t with pc := t.pc + 4 }

/-- One thread command: its body where the thread issues it; else, in its turn, the fetch fault, the ILLEGAL fault or the
instruction passed by a false guard; else no effect. -/
def threadExec (i : Instr) (w : Who) (gp : BitVec 3) (reads : List (BitVec 5))
    (body : Thread → State → State) (s : State) : State :=
  if s.issues w i gp reads then body ((s.took w (slowInstr i)).thread w) (s.took w (slowInstr i))
  else if ¬ (s.active w ∧ s.turn w) then s
  else
    let t := s.thread w
    match s.fetch w with
    | .miss => s
    | .bad => (s.took w false).threadFault w fcFetch t.pc 0
    | .word v =>
      match decodeThreadWord w v with
      | none => (s.took w false).threadFault w fcIllegal t.pc 0
      | some j => if j = i ∧ ¬ t.pred gp then (s.took w false).setThread w ((s.took w false).thread w).step else s

/-- A fault of the instruction at the thread's PC, with a data address. -/
def State.faultHere (s : State) (w : Who) (cause : BitVec 4) (addr : Nat) : State :=
  s.threadFault w cause (s.thread w).pc (BitVec.ofNat 64 addr)

/-! ### Results in registers -/

/-- An instruction that writes a function of its thread to rd and goes on. -/
def regExec (i : Instr) (w : Who) (gp : BitVec 3) (reads : List (BitVec 5)) (rd : BitVec 5)
    (f : Thread → Word) (s : State) : Out :=
  .next (threadExec i w gp reads (fun t s => s.setThread w (t.putReg rd (f t)).step) s)

/-- imm13 sign-extended (R75). -/
def simm (imm : BitVec 13) : Word := imm.signExtend 64

/-- ADD (R71, Table 3.6). -/
def execAdd (w : Who) (gp : BitVec 3) (rd ra rb : BitVec 5) (s : State) : Out :=
  regExec (.add w gp rd ra rb) w gp [ra, rb] rd (fun t => t.reg ra + t.reg rb) s

/-- SUB (Table 3.6). -/
def execSub (w : Who) (gp : BitVec 3) (rd ra rb : BitVec 5) (s : State) : Out :=
  regExec (.sub w gp rd ra rb) w gp [ra, rb] rd (fun t => t.reg ra - t.reg rb) s

/-- AND (Table 3.6). -/
def execAnd (w : Who) (gp : BitVec 3) (rd ra rb : BitVec 5) (s : State) : Out :=
  regExec (.and w gp rd ra rb) w gp [ra, rb] rd (fun t => t.reg ra &&& t.reg rb) s

/-- OR (Table 3.6). -/
def execOr (w : Who) (gp : BitVec 3) (rd ra rb : BitVec 5) (s : State) : Out :=
  regExec (.or w gp rd ra rb) w gp [ra, rb] rd (fun t => t.reg ra ||| t.reg rb) s

/-- XOR (Table 3.6). -/
def execXor (w : Who) (gp : BitVec 3) (rd ra rb : BitVec 5) (s : State) : Out :=
  regExec (.xor w gp rd ra rb) w gp [ra, rb] rd (fun t => t.reg ra ^^^ t.reg rb) s

/-- SHL by rb[5:0] (Table 3.6). -/
def execShl (w : Who) (gp : BitVec 3) (rd ra rb : BitVec 5) (s : State) : Out :=
  regExec (.shl w gp rd ra rb) w gp [ra, rb] rd (fun t => t.reg ra <<< ((t.reg rb).toNat % 64)) s

/-- SHR by rb[5:0], zero fill (Table 3.6). -/
def execShr (w : Who) (gp : BitVec 3) (rd ra rb : BitVec 5) (s : State) : Out :=
  regExec (.shr w gp rd ra rb) w gp [ra, rb] rd (fun t => t.reg ra >>> ((t.reg rb).toNat % 64)) s

/-- SRA by rb[5:0], sign fill (Table 3.6). -/
def execSra (w : Who) (gp : BitVec 3) (rd ra rb : BitVec 5) (s : State) : Out :=
  regExec (.sra w gp rd ra rb) w gp [ra, rb] rd (fun t => (t.reg ra).sshiftRight ((t.reg rb).toNat % 64)) s

/-- MUL: the low 64 bits of the product (Table 3.6). -/
def execMul (w : Who) (gp : BitVec 3) (rd ra rb : BitVec 5) (s : State) : Out :=
  regExec (.mul w gp rd ra rb) w gp [ra, rb] rd (fun t => t.reg ra * t.reg rb) s

/-- MULHU: the high 64 bits of the unsigned product (Table 3.6). -/
def execMulhu (w : Who) (gp : BitVec 3) (rd ra rb : BitVec 5) (s : State) : Out :=
  regExec (.mulhu w gp rd ra rb) w gp [ra, rb] rd
    (fun t => BitVec.ofNat 64 ((t.reg ra).toNat * (t.reg rb).toNat / 2 ^ 64)) s

/-- MIN, signed (Table 3.6). -/
def execMin (w : Who) (gp : BitVec 3) (rd ra rb : BitVec 5) (s : State) : Out :=
  regExec (.min w gp rd ra rb) w gp [ra, rb] rd
    (fun t => if (t.reg rb).slt (t.reg ra) then t.reg rb else t.reg ra) s

/-- MAX, signed (Table 3.6). -/
def execMax (w : Who) (gp : BitVec 3) (rd ra rb : BitVec 5) (s : State) : Out :=
  regExec (.max w gp rd ra rb) w gp [ra, rb] rd
    (fun t => if (t.reg ra).slt (t.reg rb) then t.reg rb else t.reg ra) s

/-- ADDI (Table 3.5). -/
def execAddi (w : Who) (gp : BitVec 3) (rd ra : BitVec 5) (imm : BitVec 13) (s : State) : Out :=
  regExec (.addi w gp rd ra imm) w gp [ra] rd (fun t => t.reg ra + simm imm) s

/-- ANDI (Table 3.5). -/
def execAndi (w : Who) (gp : BitVec 3) (rd ra : BitVec 5) (imm : BitVec 13) (s : State) : Out :=
  regExec (.andi w gp rd ra imm) w gp [ra] rd (fun t => t.reg ra &&& simm imm) s

/-- ORI (Table 3.5). -/
def execOri (w : Who) (gp : BitVec 3) (rd ra : BitVec 5) (imm : BitVec 13) (s : State) : Out :=
  regExec (.ori w gp rd ra imm) w gp [ra] rd (fun t => t.reg ra ||| simm imm) s

/-- XORI (Table 3.5). -/
def execXori (w : Who) (gp : BitVec 3) (rd ra : BitVec 5) (imm : BitVec 13) (s : State) : Out :=
  regExec (.xori w gp rd ra imm) w gp [ra] rd (fun t => t.reg ra ^^^ simm imm) s

/-- SHLI (Table 3.5). -/
def execShli (w : Who) (gp : BitVec 3) (rd ra : BitVec 5) (sh : BitVec 6) (s : State) : Out :=
  regExec (.shli w gp rd ra sh) w gp [ra] rd (fun t => t.reg ra <<< sh.toNat) s

/-- SHRI, zero fill (Table 3.5). -/
def execShri (w : Who) (gp : BitVec 3) (rd ra : BitVec 5) (sh : BitVec 6) (s : State) : Out :=
  regExec (.shri w gp rd ra sh) w gp [ra] rd (fun t => t.reg ra >>> sh.toNat) s

/-- SRAI, sign fill (Table 3.5). -/
def execSrai (w : Who) (gp : BitVec 3) (rd ra : BitVec 5) (sh : BitVec 6) (s : State) : Out :=
  regExec (.srai w gp rd ra sh) w gp [ra] rd (fun t => (t.reg ra).sshiftRight sh.toNat) s

/-- MOVZ (Table 3.5). -/
def execMovz (w : Who) (gp : BitVec 3) (rd : BitVec 5) (hw : BitVec 2) (imm : BitVec 16) (s : State) : Out :=
  regExec (.movz w gp rd hw imm) w gp [] rd (fun _ => imm.zeroExtend 64 <<< (16 * hw.toNat)) s

/-- MOVK: one 16-bit field replaced, other bits kept (Table 3.5). -/
def execMovk (w : Who) (gp : BitVec 3) (rd : BitVec 5) (hw : BitVec 2) (imm : BitVec 16) (s : State) : Out :=
  regExec (.movk w gp rd hw imm) w gp [rd] rd
    (fun t => (t.reg rd &&& ~~~((0xFFFF : Word) <<< (16 * hw.toNat))) ||| (imm.zeroExtend 64 <<< (16 * hw.toNat))) s

/-! ### Predicates -/

/-- The condition codes 0 to 9 (after Table 3.6). -/
def condHolds (c : BitVec 4) (a b : Word) : Bool :=
  match c.toNat with
  | 0 => a = b
  | 1 => a ≠ b
  | 2 => a.slt b
  | 3 => !a.slt b
  | 4 => a.ult b
  | 5 => !a.ult b
  | 6 => !b.slt a
  | 7 => b.slt a
  | 8 => !b.ult a
  | _ => b.ult a

/-- CMP: pd ← cond, pe ← not pd (Table 3.5). -/
def execCmp (w : Who) (gp pd pe : BitVec 3) (ra rb : BitVec 5) (cond : BitVec 4) (s : State) : Out :=
  .next (threadExec (.cmp w gp pd pe ra rb cond) w gp [ra, rb] (fun t s =>
    let c := condHolds cond (t.reg ra) (t.reg rb)
    s.setThread w ((t.setPred pd c).setPred pe (!c)).step) s)

/-- CMPI: ra against imm8 sign-extended (Table 3.5). -/
def execCmpi (w : Who) (gp pd pe : BitVec 3) (ra : BitVec 5) (cond : BitVec 4) (imm : BitVec 8) (s : State) : Out :=
  .next (threadExec (.cmpi w gp pd pe ra cond imm) w gp [ra] (fun t s =>
    let c := condHolds cond (t.reg ra) (imm.signExtend 64)
    s.setThread w ((t.setPred pd c).setPred pe (!c)).step) s)

/-- PLOG: AND, OR, XOR, ANDN of two predicates (Table 3.5). -/
def execPlog (w : Who) (gp pd pa pb : BitVec 3) (op : BitVec 2) (s : State) : Out :=
  .next (threadExec (.plog w gp pd pa pb op) w gp [] (fun t s =>
    let a := t.pred pa
    let b := t.pred pb
    let c := match op.toNat with
      | 0 => a && b
      | 1 => a || b
      | 2 => a != b
      | _ => a && !b
    s.setThread w (t.setPred pd c).step) s)

/-! ### Branches (R75) -/

/-- The target of a branch: its own address plus four times the offset. -/
def branchTo (pc : Word) (off : Word) : Word := pc + off * 4

/-- BR (Table 3.5). -/
def execBr (w : Who) (gp : BitVec 3) (off : BitVec 23) (s : State) : Out :=
  .next (threadExec (.br w gp off) w gp [] (fun t s =>
    s.setThread w { t with pc := branchTo t.pc (off.signExtend 64) }) s)

/-- CALL: g31 takes the return address (Table 3.5). -/
def execCall (w : Who) (gp : BitVec 3) (off : BitVec 23) (s : State) : Out :=
  .next (threadExec (.call w gp off) w gp [] (fun t s =>
    s.setThread w { t.putReg 31 (t.pc + 4) with pc := branchTo t.pc (off.signExtend 64) }) s)

/-- JALR: rd takes the return address and the PC takes ra, read before rd is written (Table 3.5). -/
def execJalr (w : Who) (gp : BitVec 3) (rd ra : BitVec 5) (s : State) : Out :=
  .next (threadExec (.jalr w gp rd ra) w gp [ra] (fun t s =>
    s.setThread w { t.putReg rd (t.pc + 4) with pc := t.reg ra }) s)

/-- A conditional branch. -/
def branchExec (i : Instr) (w : Who) (gp : BitVec 3) (ra rb : BitVec 5) (off : BitVec 13)
    (c : Word → Word → Bool) (s : State) : Out :=
  .next (threadExec i w gp [ra, rb] (fun t s =>
    s.setThread w { t with pc := if c (t.reg ra) (t.reg rb) then branchTo t.pc (simm off) else t.pc + 4 }) s)

/-- BEQ (Table 3.5). -/
def execBeq (w : Who) (gp : BitVec 3) (ra rb : BitVec 5) (off : BitVec 13) (s : State) : Out :=
  branchExec (.beq w gp ra rb off) w gp ra rb off (fun a b => a = b) s

/-- BNE (Table 3.5). -/
def execBne (w : Who) (gp : BitVec 3) (ra rb : BitVec 5) (off : BitVec 13) (s : State) : Out :=
  branchExec (.bne w gp ra rb off) w gp ra rb off (fun a b => a ≠ b) s

/-- BLT, signed (Table 3.5). -/
def execBlt (w : Who) (gp : BitVec 3) (ra rb : BitVec 5) (off : BitVec 13) (s : State) : Out :=
  branchExec (.blt w gp ra rb off) w gp ra rb off (fun a b => a.slt b) s

/-- BGE, signed (Table 3.5). -/
def execBge (w : Who) (gp : BitVec 3) (ra rb : BitVec 5) (off : BitVec 13) (s : State) : Out :=
  branchExec (.bge w gp ra rb off) w gp ra rb off (fun a b => !a.slt b) s

/-! ### Special registers (Table 3.3) -/

/-- A completion counter of a thread. -/
def Thread.counter (t : Thread) (c : Nat) : BitVec 32 := sget (fun _ => 0) t.cc c

/-- A completion counter written. -/
def Thread.setCounter (t : Thread) (c : Nat) (v : BitVec 32) : Thread :=
  { t with cc := sput (fun _ => 0) t.cc c v }

/-- The value of a special register, zero-extended (R74). -/
def State.special (s : State) (w : Who) (sr : BitVec 4) : Word :=
  let k := w.core.toNat
  let t := s.thread w
  match sr.toNat with
  | 0 => BitVec.ofNat 64 w.thr.toNat
  | 1 => BitVec.ofNat 64 k
  | 2 => BitVec.ofNat 64 (clusterOfCore k)
  | 3 => BitVec.ofNat 64 (dieOfCore k)
  | 4 => BitVec.ofNat 64 ((s.coreOwner k).getD 0).toNat
  | 5 => s.time
  | 6 => BitVec.ofNat 64 (s.eng - (s.core k).cycleBase)
  | 7 => BitVec.ofNat 64 (s.part ((s.coreOwner k).getD 0)).pgen.toNat
  | n => if n < 12 then (t.counter (n - 8)).zeroExtend 64 else BitVec.ofNat 64 (t.outOn (n - 12))

/-- MFS (R74). -/
def execMfs (w : Who) (gp : BitVec 3) (rd : BitVec 5) (sr : BitVec 4) (s : State) : Out :=
  .next (threadExec (.mfs w gp rd sr) w gp [] (fun t s =>
    s.setThread w (t.putReg rd (s.special w sr)).step) s)

/-- MTS (R74): a counter takes the low 32 bits; any other number faults with SPECIAL. -/
def execMts (w : Who) (gp : BitVec 3) (sr : BitVec 4) (ra : BitVec 5) (s : State) : Out :=
  .next (threadExec (.mts w gp sr ra) w gp [ra] (fun t s =>
    if 8 ≤ sr.toNat ∧ sr.toNat < 12 then
      s.setThread w (t.setCounter (sr.toNat - 8) ((t.reg ra).truncate 32)).step
    else s.faultHere w fcSpecial 0) s)

/-! ### Issue of memory accesses (R72, R78, R79) -/

/-- The cause that an access check gives. -/
def causeOf (st : Status) : BitVec 4 :=
  if st = stBound then fcBound else if st = stIntegrity then fcIntegrity
  else if st = stReleaseDenied then fcRelease else if st = stLinkLost then fcLinkLost
  else if st = stOrphan then fcOrphan else fcUnmapped

/-- The page of a register address. -/
def pageOfAddr (a : Nat) : Option Page := pageAt ((a - regBase) / 4096)

/-- The check of a thread's register access (R20, R22, R391): its own pages, pages nobody owns for reading, and
RTP_MBOX.PSUBMIT for writing. -/
def State.checkReg (s : State) (pid : BitVec 5) (write : Bool) (a : Nat) : Status :=
  match pageOfAddr a with
  | none => stUnmapped
  | some p =>
    if ¬ s.pageLive p then stUnmapped
    else if s.pageOwner p = some pid then stOk
    else if write then
      (if p = .dieE tyMbox ∧ 0x108 ≤ a % 4096 ∧ a % 4096 < 0x110 then stOk else stBound)
    else if s.pageOwner p = none then stOk else stBound

/-- The check that a thread makes of its load or store at issue, and the status that faults it (R20 to R22,
R79, R393, R450, R295). Memory shared with the Wicket refuses a CONFIDENTIAL store before its segment is
looked up (R21). -/
def State.checkThread (s : State) (w : Who) (write : Bool) (a n : Nat) : Status :=
  let g := s.agentOf w 1
  if write ∧ s.conf g ∧ localOf a / 0x200000000 = 0x70 ∧
      (a < 2 ^ 40 ∨ (a / 2 ^ 46 = 1 ∧ s.devNum g.die = some (a / 2 ^ 40 % 64))) then stReleaseDenied
  else
    (List.range n).foldl (fun st i =>
      joinCheck st (match s.placeOf g (a + i) with
        | .reg l => s.checkReg g.pid write l
        | .host _ => if s.host.bme ∧ ¬ s.host.inReset then stOk else stUnmapped
        | .remote _ _ => if s.joistOn g.die ∨ s.underway g then stOk else stUnmapped
        | pl => s.checkPlace g.pid write none pl)) stOk

/-- The refusal of a CONFIDENTIAL store over Joist outside rack trust (R295). -/
def State.remoteDenied (s : State) (w : Who) (a : Nat) : Bool :=
  s.wicketPath (s.agentOf w 1) a = some 2

/-- The fault of a thread's access that fails its check, with the counts that go with it. -/
def State.accessFault (s : State) (w : Who) (st : Status) (a : Nat) : State :=
  let g := s.agentOf w 1
  let s1 := if st = stReleaseDenied then
      s.wicketDeny g.die g.pid (if s.remoteDenied w a then 2 else 0) 1
    else s.countSegment st
  s1.faultHere w (causeOf st) a

/-- The issue of an access: MISALIGNED, a failed check, or the access joins the thread's outstanding accesses. -/
def State.issueAccess (s : State) (w : Who) (x : Access) : State :=
  let t := s.thread w
  let isStore : Bool := match x.kind with
    | .load _ => false
    | _ => true
  if x.addr % x.size ≠ 0 then s.faultHere w fcMisaligned x.addr
  else
    let st := if isStore ∧ s.remoteDenied w x.addr then stReleaseDenied else s.checkThread w isStore x.addr x.size
    if st ≠ stOk then s.accessFault w st x.addr
    else
      let t1 := if x.writes then
          { t with accs := t.accs.map (fun y => if y.writes ∧ y.rd = x.rd then { y with rd := 0 } else y) }
        else t
      s.setThread w { t1 with accs := t1.accs ++ [x], pc := t.pc + 4 }

/-- A load of n bytes at ra + imm. -/
def loadExec (i : Instr) (w : Who) (gp : BitVec 3) (rd ra : BitVec 5) (imm : Word) (n : Nat) (sext acq : Bool)
    (s : State) : Out :=
  .next (threadExec i w gp [ra] (fun t s =>
    s.issueAccess w { kind := .load sext, addr := (t.reg ra + imm).toNat, size := n, rd := rd, data := 0, cmp := 0,
                      src := 0, acq := acq, rel := false, pc := t.pc, stage := .issued }) s)

/-- A store of the low n bytes of rs at ra + imm. -/
def storeExec (i : Instr) (w : Who) (gp : BitVec 3) (rs ra : BitVec 5) (imm : Word) (n : Nat) (rel : Bool)
    (s : State) : Out :=
  .next (threadExec i w gp [rs, ra] (fun t s =>
    s.issueAccess w { kind := .store, addr := (t.reg ra + imm).toNat, size := n, rd := 0, data := t.reg rs, cmp := 0,
                      src := 0, acq := false, rel := rel, pc := t.pc, stage := .issued }) s)

/-- LD8 (R79). -/
def execLd8 (w : Who) (gp : BitVec 3) (rd ra : BitVec 5) (imm : BitVec 13) (s : State) : Out :=
  loadExec (.ld8 w gp rd ra imm) w gp rd ra (simm imm) 1 false false s

/-- LD16 (R79). -/
def execLd16 (w : Who) (gp : BitVec 3) (rd ra : BitVec 5) (imm : BitVec 13) (s : State) : Out :=
  loadExec (.ld16 w gp rd ra imm) w gp rd ra (simm imm) 2 false false s

/-- LD32 (R79). -/
def execLd32 (w : Who) (gp : BitVec 3) (rd ra : BitVec 5) (imm : BitVec 13) (s : State) : Out :=
  loadExec (.ld32 w gp rd ra imm) w gp rd ra (simm imm) 4 false false s

/-- LD64 (R79). -/
def execLd64 (w : Who) (gp : BitVec 3) (rd ra : BitVec 5) (imm : BitVec 13) (s : State) : Out :=
  loadExec (.ld64 w gp rd ra imm) w gp rd ra (simm imm) 8 false false s

/-- LDS8 (R79). -/
def execLds8 (w : Who) (gp : BitVec 3) (rd ra : BitVec 5) (imm : BitVec 13) (s : State) : Out :=
  loadExec (.lds8 w gp rd ra imm) w gp rd ra (simm imm) 1 true false s

/-- LDS16 (R79). -/
def execLds16 (w : Who) (gp : BitVec 3) (rd ra : BitVec 5) (imm : BitVec 13) (s : State) : Out :=
  loadExec (.lds16 w gp rd ra imm) w gp rd ra (simm imm) 2 true false s

/-- LDS32 (R79). -/
def execLds32 (w : Who) (gp : BitVec 3) (rd ra : BitVec 5) (imm : BitVec 13) (s : State) : Out :=
  loadExec (.lds32 w gp rd ra imm) w gp rd ra (simm imm) 4 true false s

/-- ST8 (R79). -/
def execSt8 (w : Who) (gp : BitVec 3) (rs ra : BitVec 5) (imm : BitVec 13) (s : State) : Out :=
  storeExec (.st8 w gp rs ra imm) w gp rs ra (simm imm) 1 false s

/-- ST16 (R79). -/
def execSt16 (w : Who) (gp : BitVec 3) (rs ra : BitVec 5) (imm : BitVec 13) (s : State) : Out :=
  storeExec (.st16 w gp rs ra imm) w gp rs ra (simm imm) 2 false s

/-- ST32 (R79). -/
def execSt32 (w : Who) (gp : BitVec 3) (rs ra : BitVec 5) (imm : BitVec 13) (s : State) : Out :=
  storeExec (.st32 w gp rs ra imm) w gp rs ra (simm imm) 4 false s

/-- ST64 (R79). -/
def execSt64 (w : Who) (gp : BitVec 3) (rs ra : BitVec 5) (imm : BitVec 13) (s : State) : Out :=
  storeExec (.st64 w gp rs ra imm) w gp rs ra (simm imm) 8 false s

/-- LDA: an acquire load (R33, Table 3.5). -/
def execLda (w : Who) (gp : BitVec 3) (rd ra : BitVec 5) (size : BitVec 2) (sext : Bool) (s : State) : Out :=
  loadExec (.lda w gp rd ra size sext) w gp rd ra 0 (2 ^ size.toNat) sext true s

/-- STL: a release store (R33, Table 3.5). -/
def execStl (w : Who) (gp : BitVec 3) (rs ra : BitVec 5) (size : BitVec 2) (s : State) : Out :=
  storeExec (.stl w gp rs ra size) w gp rs ra 0 (2 ^ size.toNat) true s

/-- An atomic operand lies in HBM, Press or Drawer, here or on another device (R32). -/
def State.atomicPlace (s : State) (w : Who) (a n : Nat) : Bool :=
  (List.range n).all (fun i => match s.place (dieOfCore w.core.toNat) (a + i) with
    | .hbm _ => true
    | .press _ _ => true
    | .drawer _ _ => true
    | .remote _ _ => true
    | _ => false)

/-- The issue of an atomic of OP op (R32, R80): CAS also reads rd. -/
def atomExec (i : Instr) (w : Who) (gp : BitVec 3) (rd ra rb : BitVec 5) (order : BitVec 2) (is64 : Bool)
    (op : BitVec 4) (s : State) : Out :=
  .next (threadExec i w gp (if op = 2 then [ra, rb, rd] else [ra, rb]) (fun t s =>
    let a := (t.reg ra).toNat
    let n := if is64 then 8 else 4
    let x : Access := { kind := .atom op, addr := a, size := n, rd := rd, data := t.reg rb, cmp := t.reg rd, src := 0,
                        acq := order.getLsbD 0, rel := order.getLsbD 1, pc := t.pc, stage := .issued }
    if a % n ≠ 0 ∨ s.atomicPlace w a n then s.issueAccess w x
    else s.faultHere w fcUnmapped a) s)

/-- ATOM FADD (R80). -/
def execFadd (w : Who) (gp : BitVec 3) (rd ra rb : BitVec 5) (order : BitVec 2) (is64 : Bool) (s : State) : Out :=
  atomExec (.fadd w gp rd ra rb order is64) w gp rd ra rb order is64 0 s

/-- ATOM SWAP (R80). -/
def execSwap (w : Who) (gp : BitVec 3) (rd ra rb : BitVec 5) (order : BitVec 2) (is64 : Bool) (s : State) : Out :=
  atomExec (.swap w gp rd ra rb order is64) w gp rd ra rb order is64 1 s

/-- ATOM CAS (R80). -/
def execCas (w : Who) (gp : BitVec 3) (rd ra rb : BitVec 5) (order : BitVec 2) (is64 : Bool) (s : State) : Out :=
  atomExec (.cas w gp rd ra rb order is64) w gp rd ra rb order is64 2 s

/-- ATOM MAX, signed (R80). -/
def execAtomMax (w : Who) (gp : BitVec 3) (rd ra rb : BitVec 5) (order : BitVec 2) (is64 : Bool) (s : State) : Out :=
  atomExec (.atomMax w gp rd ra rb order is64) w gp rd ra rb order is64 3 s

/-- ATOM LFADD (R81): the addresses of both partials are checked first; the addition is made at acceptance. -/
def execAtomLfadd (w : Who) (gp : BitVec 3) (rd ra rb : BitVec 5) (order : BitVec 2) (s : State) : Out :=
  .next (threadExec (.atomLfadd w gp rd ra rb order) w gp [ra, rb] (fun t s =>
    let a := (t.reg ra).toNat
    let b := (t.reg rb).toNat
    if ¬ (s.atomicPlace w a 20 ∧ s.atomicPlace w b 24) then
      s.faultHere w fcUnmapped (if s.atomicPlace w a 20 then b else a)
    else
      let st := joinCheck (s.checkThread w true a 20) (s.checkThread w false b 24)
      if s.remoteDenied w a then s.accessFault w stReleaseDenied a
      else if st ≠ stOk then s.accessFault w st (if s.checkThread w true a 20 = st then a else b)
      else
        s.setThread w { t with
          accs := t.accs.map (fun y => if y.writes ∧ y.rd = rd then { y with rd := 0 } else y) ++
            [{ kind := .atom 4, addr := a, size := 20, rd := rd, data := 0, cmp := 0, src := b,
               acq := order.getLsbD 0, rel := order.getLsbD 1, pc := t.pc, stage := .issued }]
          pc := t.pc + 4 }) s)

/-! ### Fences and barriers -/

/-- The held status of a refused store or atomic faults the thread (R292, R474). -/
def State.reportHeld (s : State) (w : Who) (go : State) : State :=
  let t := s.thread w
  match t.held with
  | some (st, a) => (s.setThread w { t with held := none }).faultHere w (causeOf st) a
  | none => go

/-- FENCE ACQ: waits for the thread's earlier loads (R33). -/
def execFenceAcq (w : Who) (gp : BitVec 3) (s : State) : Out :=
  .next (threadExec (.fenceAcq w gp) w gp [] (fun t s => s.setThread w t.step) s)

/-- FENCE REL: waits for every earlier access, then reports a held status (R33, R292). -/
def execFenceRel (w : Who) (gp : BitVec 3) (s : State) : Out :=
  .next (threadExec (.fenceRel w gp) w gp [] (fun t s => s.reportHeld w (s.setThread w t.step)) s)

/-- FENCE FULL (R33, R292). -/
def execFenceFull (w : Who) (gp : BitVec 3) (s : State) : Out :=
  .next (threadExec (.fenceFull w gp) w gp [] (fun t s => s.reportHeld w (s.setThread w t.step)) s)

/-- The instruction buffer of a core discarded (R83). -/
def State.dropIbuf (s : State) (k : Nat) : State := s.setCore k { s.core k with ibuf := [] }

/-- FENCE IFENCE: a full fence, then every line of the core's buffer is discarded (R83). -/
def execIfence (w : Who) (gp : BitVec 3) (s : State) : Out :=
  .next (threadExec (.ifence w gp) w gp [] (fun t s =>
    s.reportHeld w ((s.setThread w t.step).dropIbuf w.core.toNat)) s)

/-- A barrier of a cluster: none means that no arrival of a phase has been made. -/
def ClusterSt.bar (c : ClusterSt) (b : Nat) : Bar := sget (fun _ => ⟨0, 0⟩) c.bars b

/-- A barrier replaced. -/
def ClusterSt.setBar (c : ClusterSt) (b : Nat) (x : Bar) : ClusterSt :=
  { c with bars := sput (fun _ => ⟨0, 0⟩) c.bars b x }

/-- Every thread of a cluster that waits at a barrier is READY (R84). -/
def State.wakeBar (s : State) (c : Nat) (b : BitVec 4) : State :=
  { s with threads := s.threads.map (fun e =>
      if clusterOfCore (e.1 / 16) = c ∧ e.2.st = .waitBar ∧ e.2.wait = .bar b then
        (e.1, { e.2 with st := .ready, wait := .none }) else e) }

/-- An arrival at a barrier (R84): the first fixes the count, another count faults, the last ends the phase.
A SYNC that does not end the phase waits. The arrival is a release. -/
def barExec (i : Instr) (w : Who) (gp : BitVec 3) (ra rb : BitVec 5) (sync : Bool) (s : State) : Out :=
  .next (threadExec i w gp [ra, rb] (fun t s =>
    let b : BitVec 4 := (t.reg ra).truncate 4
    let n := (t.reg rb).toNat
    let c := clusterOfCore w.core.toNat
    let x := (s.cluster c).bar b.toNat
    if n = 0 ∨ 256 < n ∨ (x.count ≠ 0 ∧ x.count ≠ n) then s.faultHere w fcBarrier 0
    else if x.arrived + 1 = n then
      ((s.setCluster c ((s.cluster c).setBar b.toNat ⟨0, 0⟩)).setThread w t.step).wakeBar c b
    else
      (s.setCluster c ((s.cluster c).setBar b.toNat ⟨n, x.arrived + 1⟩)).setThread w
        (if sync then { t.step with st := .waitBar, wait := .bar b } else t.step)) s)

/-- BAR SYNC (R84). -/
def execBarSync (w : Who) (gp : BitVec 3) (ra rb : BitVec 5) (s : State) : Out :=
  barExec (.barSync w gp ra rb) w gp ra rb true s

/-- BAR ARRIVE (R84). -/
def execBarArrive (w : Who) (gp : BitVec 3) (ra rb : BitVec 5) (s : State) : Out :=
  barExec (.barArrive w gp ra rb) w gp ra rb false s

/-! ### ISSUE (R88 to R91) -/

/-- The command queue of an engine replaced. -/
def CoreSt.setQ (c : CoreSt) (e : Engine) (l : List EngEntry) : CoreSt :=
  match e with
  | .mxe => { c with mxeQ := l }
  | .rge => { c with rgeQ := l }
  | .mkx => { c with mkxQ := l }
  | .dma => { c with dmaQ := l }

/-- The engine of a core takes new commands (Table 16.3). -/
def State.engTakes (s : State) (k : Nat) (e : Engine) : Bool :=
  s.takesWork (s.corePage k 0) &&
  (match e with
    | .dma => true
    | _ => s.takesWork (s.corePage k (e.idx + 1)))

/-- A command of a thread enters an engine's queue (R89); one for a disabled core or engine with its status (R91). -/
def State.queueCommand (s : State) (w : Who) (k : Nat) (e : Engine) (desc : Nat) : State :=
  let pid := (s.agentOf w 1).pid
  let cls : BitVec 2 := BitVec.ofNat 2 (s.clsAt (dieOfCore w.core.toNat) desc)
  let x : EngEntry := { num := s.cmdNum, core := w.core, thr := w.thr, desc := desc, pid := pid,
                        pgen := (s.part pid).pgen, op := 0, evt := false,
                        status := if s.engTakes k e then none else some stDisabled, rel := none, cls := cls,
                        demoted := false, c3 := [], sums := [], undo := [], hdr := none, sealing := none,
                        held := 0, claim := none }
  { s.setCore k ((s.core k).setQ e ((s.core k).q e ++ [x])) with cmdNum := s.cmdNum + 1 }

/-- ISSUE (R88 to R91): its checks, the release of R34, the waits of R89 and R90, and the entry. A command to a
disabled core or engine is queued with its status DISABLED. Of several faults the first in R88's list is taken, and
FAULT_ADDR is the descriptor's address, or 0 for a bad target core: R88 states neither (DESIGN CHOICE, log 100). -/
def execIssue (w : Who) (gp : BitVec 3) (ra rb : BitVec 5) (remote : Bool) (s0 : State) : Out :=
  .next (threadExec (.issue w gp ra rb remote) w gp (if remote then [ra, rb] else [ra]) (fun t s =>
    let a := (t.reg ra).toNat
    let g := s.agentOf w 1
    if ¬ t.quiet then s0
    else if a % 64 ≠ 0 then s.faultHere w fcMisaligned a
    else
      let chk := s.ownedRange g a 64
      if chk ≠ stOk then s.faultHere w (causeOf chk) a
      else
        let r := s.readPiece g (a + 1) 1
        if r.2.1 ≠ stOk then r.1.faultHere w (causeOf r.2.1) a
        else match engineOf (Crypto.leNat r.2.2) with
          | none => s.faultHere w fcEngine a
          | some e =>
            let tg := s.issueTarget w remote (t.reg rb)
            if tg.1 ≠ stOk then s.faultHere w (causeOf tg.1) 0
            else if 255 ≤ t.outOn e.idx ∨ ¬ s.engCredit w.core.toNat tg.2 e then s0
            else
              (s.queueCommand w tg.2 e a).setThread w
                { t.step with out := sput (fun _ => 0) t.out e.idx (t.outOn e.idx + 1) }) s0)

/-! ### WAITC (R93) -/

/-- A counter has reached a target: (cc − T) mod 2^32 < 2^31. -/
def reached (cc tgt : BitVec 32) : Bool := (cc - tgt).toNat < 2 ^ 31

/-- WAITC: goes on if the target is reached, else waits (R93). -/
def execWaitc (w : Who) (gp : BitVec 3) (cnt : BitVec 2) (ra : BitVec 5) (imm : BitVec 13) (s : State) : Out :=
  .next (threadExec (.waitc w gp cnt ra imm) w gp [ra] (fun t s =>
    let tgt : BitVec 32 := (t.reg ra + imm.zeroExtend 64).truncate 32
    s.setThread w (if reached (t.counter cnt.toNat) tgt then t.step
      else { t.step with st := .waitCount, wait := .count cnt tgt })) s)

/-! ### HALT, START, STOP (R73, R99) -/

/-- HALT (R99): waits for the thread's accesses and reports a held status (R292, log 29). -/
def execHalt (w : Who) (gp : BitVec 3) (s : State) : Out :=
  .next (threadExec (.halt w gp) w gp [] (fun t s =>
    s.reportHeld w ((s.setThread w t.step).endThread w)) s)

/-- The offset of a thread's block in the CORE page (R98). -/
def thrOff (w : Who) : Nat := 0x200 + w.thr.toNat * 0x20

/-- START (R73, R99): accepted in IDLE only, on a core that takes work and that an ACTIVE partition, or one
being created, holds (log 31). FAULT_PC and FAULT_ADDR start at zero too, and a status that the earlier run held is
discarded; R73 names neither (DESIGN CHOICE, log 31). -/
def State.startThread (s : State) (w : Who) : State :=
  let k := w.core.toNat
  let t := s.thread w
  let ok : Bool := match s.coreOwner k with
    | some p => (s.part p).st = 1 || (s.part p).st = 2
    | none => false
  if s.engOn ∧ (s.physCore k).isSome ∧ t.st = .idle ∧ s.takesWork (s.corePage k 0) ∧ ok then
    s.setThread w { Thread.reset with
      st := .ready
      pc := BitVec.ofNat 64 (s.rd64 (s.corePage k 0) (thrOff w + 8))
      accs := t.accs.map (fun x => { x with rd := 0 }) }
  else s

/-- STOP (R99): a READY, waiting or FAULTED thread goes to IDLE or DRAINING. -/
def State.stopThread (s : State) (w : Who) : State :=
  match (s.thread w).st with
  | .idle => s
  | .draining => s
  | _ => s.endThread w

/-! ### Completion of an engine command (R35, R92, R99) -/

/-- The first entry of a queue that may complete and has no earlier entry of its thread (R92), with its place. -/
def completable (done : EngEntry → Bool) : List EngEntry → List EngEntry → Option (EngEntry × List EngEntry)
  | _, [] => none
  | before, x :: rest =>
    if done x ∧ ¬ before.any (fun y => y.core = x.core ∧ y.thr = x.thr) then some (x, before ++ rest)
    else completable done (before ++ [x]) rest

/-- Every remote operation of a doer has been answered (R291). -/
def State.answered (s : State) (doer : Doer) : Bool := !s.remote.any (fun o => o.doer = doer && o.done.isNone)

/-- The status of a command with that of its remote writes: the first failing answer takes the place of a normal result
(R292, R473). -/
def State.withAnswers (s : State) (doer : Doer) (st : Status) : Status :=
  if failing st then st
  else (s.remote.findSome? (fun o => if o.doer = doer then o.done.bind (fun x => if failing x.1 then some x.1 else none)
    else none)).getD st

/-- The remote operations of a doer are over. -/
def State.dropOps (s : State) (doer : Doer) : State := { s with remote := s.remote.filter (fun o => o.doer ≠ doer) }

/-- An entry has its status, and every answer that its command waits for has come. -/
def State.entryDone (s : State) (x : EngEntry) : Bool := x.status.isSome && s.answered (.command x.num)

/-- Work of a class that can be delayed: C1 and C2, C0 that was served as C1 (R10, R299), and C3, which admission and the port
schedulers hold back (R263, R408). -/
def delayable (cls : BitVec 2) (demoted : Bool) : Bool := cls ≠ 0 || demoted

/-- A lane served as C1 a packet of a doer that had waited for it (R10). -/
def State.opDemoted (s : State) (doer : Doer) : Bool := s.remote.any (fun o => o.doer = doer && o.demoted)

/-- The greatest wait count (R299). -/
def maxWaits : Nat := 2 ^ 24 - 1

/-- The counter of a thread advances by a completion; it leaves WAITC or DRAINING where that is due. -/
def State.countCompletion (s : State) (w : Who) (e : Engine) : State :=
  let t := s.thread w
  let cc := t.counter e.idx + 1
  let t1 := { (t.setCounter e.idx cc) with out := sput (fun _ => 0) t.out e.idx (t.outOn e.idx - 1) }
  let t2 := match t1.st, t1.wait with
    | .waitCount, .count c tgt =>
      if c.toNat = e.idx ∧ reached cc tgt then { t1 with st := .ready, wait := .none } else t1
    | .draining, _ => if t1.outstanding = 0 then { t1 with st := .idle } else t1
    | _, _ => t1
  s.setThread w t2

/-- DONE and LAST_ERR of an engine's page, and KS_COUNT (Tables 4.7, 5.10, 6.6); the DMA helper has none. -/
def State.engRecord (s : State) (k : Nat) (e : Engine) (x : EngEntry) (st : Status) : State :=
  match e with
  | .dma => s
  | _ =>
    let p := s.corePage k (e.idx + 1)
    let off := match e with
      | .mxe => 0x110
      | .rge => 0x120
      | _ => 0x114
    let s0 := s.bump p 0x104 1
    let s1 := if e = .rge ∧ x.op = 0x30 then s0.bump p 0x11C 1 else s0
    if failing st then
      s1.wrN p off (x.core.toNat * 2 ^ 20 + x.thr.toNat * 2 ^ 16 + x.op.toNat * 2 ^ 8 + st.toNat)
    else s1

/-- An accepted release of a frozen entry has completed (R175). -/
def State.releaseDone (s : State) (pid : BitVec 5) (serial : Option Nat) : State :=
  match serial with
  | none => s
  | some n => { s with frozen := s.frozen.map (fun f =>
      if f.pid = pid ∧ f.serial = n then { f with rels := f.rels - 1 } else f) }

/-- What a command's header says where the command never ran and so kept none of it (R91): its opcode and EVT, as they
stand in the descriptor. -/
def State.withHeader (s : State) (k : Nat) (x : EngEntry) : EngEntry :=
  if x.op ≠ 0 then x
  else
    let b := (s.memRead { die := dieOfCore k, pid := x.pid, cls := 1, sel := 0, port := clusterOfCore k } x.desc 64).2.2
    { x with op := b.getD 0 0, evt := (b.getD 2 0).getLsbD 4 }

/-- One command completes: its status byte, in its class (R450 counted), the engine's counts, the release it held, the event of EVT, the
wait count, and the issuing thread's counter, in this order (R35, R85, R92, R299). -/
def State.completeEntry (s : State) (k : Nat) (e : Engine) (y : EngEntry) (waits : Nat) (st0 : Status) : State :=
  let x := s.withHeader k y
  let w : Who := { core := x.core, thr := x.thr }
  let n := if delayable x.cls (x.demoted || s.opDemoted (.command x.num)) then min maxWaits (waits + x.held) else 0
  let st := withDelay (n ≠ 0) (closed (s.withAnswers (.command x.num) st0))
  let s1 := ((s.dropOps (.command x.num)).memWrite
    { die := dieOfCore k, pid := x.pid, cls := x.cls.toNat, sel := 0, port := clusterOfCore k } false none (x.desc + 3) [st]).1
  let s2 := (((s1.countSegment st0).engRecord k e x st).releaseDone x.pid x.rel)
  let s3 := if x.evt then s2.raise (s2.corePage x.core.toNat 0) 0 else s2
  (s3.bump (s3.corePage x.core.toNat 0) 0x134 n).countCompletion w e

/-- ENGINE_COMPLETION (R92): the engine's next complete command is reported to its thread; `waits` is its
wait count where its class can be delayed (R299, log 21). -/
def execEngineCompletion (core : BitVec 9) (eng : Engine) (waits : BitVec 24) (s : State) : Out :=
  let k := core.toNat
  match completable s.entryDone [] ((s.core k).q eng) with
  | none => .next s
  | some (x, rest) =>
    .next ((s.setCore k ((s.core k).setQ eng rest)).completeEntry k eng x waits.toNat (x.status.getD 0))

/-! ### Fetch of a line -/

/-- FETCH_LINE_RETURN (R82): the line that a stalled thread needs enters the buffer of 512 lines, the oldest
line leaving (log 25); a poisoned line or a fetch refused meanwhile faults the thread. -/
def execFetchLineReturn (w : Who) (s : State) : Out :=
  if ¬ s.active w then .next s
  else match s.fetch w with
    | .word _ => .next s
    | .bad => .next (s.threadFault w fcFetch (s.thread w).pc 0)
    | .miss =>
      let pc := (s.thread w).pc.toNat
      let k := w.core.toNat
      let r := s.readPiece (s.agentOf w 1) (lineOf pc) 64
      if r.2.1 ≠ stOk then
        .next (r.1.threadFault w fcIntegrity (s.thread w).pc (BitVec.ofNat 64 (lineOf pc)))
      else
        let c := s.core k
        let l := if c.ibuf.length < 512 then c.ibuf else c.ibuf.drop 1
        .next (s.setCore k { c with ibuf := l ++ [(lineOf pc, r.2.2)] })

/-- LOAD_RETURN (R72): the data of an accepted load or atomic reaches its register and the access ends. -/
def execLoadReturn (w : Who) (idx : Nat) (s : State) : Out :=
  let t := s.thread w
  match t.accs[idx]? with
  | none => .next s
  | some x =>
    match x.stage with
    | .got v => .next (s.setThread w ({ t with accs := t.accs.eraseIdx idx }.setReg x.rd v))
    | _ => .next s

end Sys2Proof.Machine
end

