-- ==== Sys2Proof/Machine/Dresser.lean ====
section
/-!
DEFINITION. The queues of the Dresser (chapter 10): configuration and cells (R276 to R278, R478), credits and
producers (R277, R279), NEXT and PUT (R96, R97), host posts (R282), flush and disable (R283, R284).
-/

namespace Sys2Proof.Machine

/-! ### Configuration -/

/-- The clusters of a partition on a die. -/
def State.clustersOn (s : State) (p : BitVec 5) (d : Nat) : Nat :=
  ((List.range 8).filter (fun i => (s.part p).clusters.getLsbD (8 * d + i))).length

/-- The clusters of a partition. -/
def State.clustersOf (s : State) (p : BitVec 5) : Nat :=
  ((List.range 32).filter (fun c => (s.part p).clusters.getLsbD c)).length

/-- The number of producers of a configuration (R277): the thread processors of the die's clusters, for a
work-item queue the routers of all clusters, and the host. -/
def State.producers (s : State) (p : BitVec 5) (d : Nat) (kind : BitVec 3) (host : Bool) : Nat :=
  16 * s.clustersOn p d + (if kind = 1 then s.clustersOf p else 0) + (if host then 1 else 0)

/-- The cells of a configuration: P × ceil(g × 8 / 256) (R278); none for KIND 0. -/
def State.cellsOf (s : State) (p : BitVec 5) (d : Nat) (kind : BitVec 3) (host : Bool) (grant : BitVec 8) : Nat :=
  if kind = 0 then 0 else s.producers p d kind host * (((grant.toNat + 1) * 8 + 255) / 256)

/-- The cells that a queue holds now. -/
def State.queueCells (s : State) (d : Nat) (q : BitVec 12) : Nat :=
  let x := s.queue d q
  match x.pid with
  | some p => s.cellsOf p d x.kind x.hostPost x.grant
  | none => 0

/-- The live configuration of a queue as QCFG shows it (Table 10.5): engine queues read KIND 4, Joist 5. -/
def State.liveCfg (s : State) (d : Nat) (q : BitVec 12) : Nat :=
  if 3072 ≤ q.toNat then
    (if q.toNat < 3584 then 4 * 2 ^ 16 else if q.toNat < 3720 then 5 * 2 ^ 16 else 0)
  else
    let x := s.queue d q
    (if x.hostPost then 2 ^ 24 else 0) + x.cls.toNat * 2 ^ 20 + x.kind.toNat * 2 ^ 16 + x.grant.toNat

/-- The thread waiting in NEXT wakes with a value in rd and its predicate (R96). -/
def State.wakeNext (s : State) (w : Who) (v : Word) (ok : Bool) : State :=
  let t := s.thread w
  match t.wait with
  | .next _ rd pd =>
    s.setThread w { (t.putReg rd v).setPred pd ok with st := .ready, wait := .none }
  | _ => s

/-- Every consumer waiting in NEXT on a queue wakes with a status (R283, R284, R278). -/
def State.wakeWaiters (s : State) (d : Nat) (q : BitVec 12) (st : Status) : State :=
  let x := s.queue d q
  x.waiters.foldl (fun t w => t.wakeNext w (st.zeroExtend 64) false)
    (s.setQueue d q { x with waiters := [] })

/-- QCFG as it reads (R478): the staged value, which is the live configuration until software writes it. -/
def State.qcfgWord (s : State) (d : Nat) (q : BitVec 12) : Nat :=
  match (s.die d).qcfg with
  | some v => v.toNat
  | none => s.liveCfg d q

/-- What software has staged in QCFG, or nothing (R478). -/
def State.stageCfg (s : State) (d : Nat) (v : Option (BitVec 32)) : State := s.setDie d { s.die d with qcfg := v }

/-- The outcome of a CONFIGURE recorded in QSTAT.LAST_STATUS, and QCFG reloaded with the live configuration (R478). -/
def State.endConfigure (s : State) (d : Nat) (q : BitVec 12) (st : Status) : State :=
  (s.setQueue d q { s.queue d q with last := st }).stageCfg d none

/-- CONFIGURE of a queue with a staged QCFG value (R278, R478). An accepted one first acts as a FLUSH of the empty queue,
whose waiters wake with FLUSHED, or with DISABLED where it unconfigures the queue; `flush` is what a FLUSH does. -/
def State.configure (s : State) (d : Nat) (q : BitVec 12) (cfg : Nat) (flush : State → Status → State) : State :=
  let x := s.queue d q
  let kind : BitVec 3 := BitVec.ofNat 3 (field cfg 16 3)
  let host := field cfg 24 1 = 1
  let grant : BitVec 8 := BitVec.ofNat 8 (field cfg 0 8)
  match x.pid with
  | none => s.endConfigure d q stQueueInvalid
  | some p =>
    if 3072 ≤ q.toNat ∨ 4 ≤ kind.toNat then s.endConfigure d q stQueueInvalid
    else if ¬ x.entries.isEmpty then s.endConfigure d q stNotEmpty
    else
      let free := s.rdN (dresserPage d) 0x100 + s.queueCells d q
      let need := s.cellsOf p d kind host grant
      if free < need then s.endConfigure d q stPool
      else
        let s1 := flush s (if kind = 0 then stDisabled else stFlushed)
        let y := s1.queue d q
        let s2 := s1.setQueue d q { y with kind := kind, hostPost := host, grant := grant
                                           cls := BitVec.ofNat 2 (field cfg 20 2) }
        (s2.wrN (dresserPage d) 0x100 (free - need)).endConfigure d q stOk

/-- The entries of a queue discarded and its waiters woken (R283, R284). Mitre's part in a SQ or RQ follows
R270 and R271. -/
def State.emptyQueue (s : State) (d : Nat) (q : BitVec 12) (st : Status) : State :=
  let s1 := s.wakeWaiters d q st
  s1.setQueue d q { s1.queue d q with entries := [] }

/-! ### Appending and taking -/

/-- An item appended to a queue; the oldest waiter takes it at once (R97). -/
def State.append (s : State) (d : Nat) (q : BitVec 12) (item : Word) (p : Producer) : State :=
  let x := s.queue d q
  match x.waiters with
  | w :: rest => (s.setQueue d q { x with waiters := rest }).wakeNext w item true
  | [] => s.setQueue d q { x with entries := x.entries ++ [(item, p)] }

/-- NEXT (R96). Of a queue of another partition that is no work-item queue either, R96 states both faults and no order: it
faults with BOUND_FAULT (DESIGN CHOICE, log 100). -/
def execNext (w : Who) (gp : BitVec 3) (rd ra : BitVec 5) (pd : BitVec 3) (nowait : Bool) (s : State) : Out :=
  .next (threadExec (.next w gp rd ra pd nowait) w gp [ra] (fun t s =>
    let k := w.core.toNat
    let d := dieOfCore k
    let q : BitVec 12 := (t.reg ra).truncate 12
    let x := s.queue d q
    let result := fun (s : State) (v : Word) (ok : Bool) =>
      s.setThread w ((t.putReg rd v).setPred pd ok).step
    if x.pid.isSome ∧ x.pid ≠ s.coreOwner k then s.faultHere w fcBound 0
    else if x.pid.isNone ∨ x.kind ≠ 1 then s.faultHere w fcNoGrant 0
    else if s.queueOff d q then result s (stDisabled.zeroExtend 64) false
    else match x.entries with
      | e :: rest => result (s.setQueue d q { x with entries := rest }) e.1 true
      | [] =>
        if nowait then result s 0 false
        else (s.setQueue d q { x with waiters := x.waiters ++ [w] }).setThread w
          { t.step with st := .waitNext, wait := .next q rd pd }) s)

/-- PUT (R97, R284); BOUND_FAULT before NO_GRANT, as for NEXT (DESIGN CHOICE, log 100). -/
def execPut (w : Who) (gp : BitVec 3) (ra rb : BitVec 5) (s0 : State) : Out :=
  .next (threadExec (.put w gp ra rb) w gp [ra, rb] (fun t s =>
    let k := w.core.toNat
    let d := dieOfCore k
    let q : BitVec 12 := (t.reg ra).truncate 12
    let x := s.queue d q
    if x.pid.isSome ∧ x.pid ≠ s.coreOwner k then s.faultHere w fcBound 0
    else if x.pid.isNone ∨ x.kind = 0 then s.faultHere w fcNoGrant 0
    else if s.queueOff d q then
      (s.bump (dresserPage d) 0x134 1).setThread w t.step
    else if ¬ x.hasCredit (.tp w.core) then s0
    else (s.setThread w t.step).append d q (t.reg rb) (.tp w.core)) s0)

/-! ### Host posting (R282) -/

/-- The host's free credits for a queue (HOST_CREDITS). -/
def State.hostCredits (s : State) (d : Nat) (q : BitVec 12) : Nat :=
  let x := s.queue d q
  if x.hostPost ∧ x.kind ≠ 0 then x.grant.toNat + 1 - x.held .host else 0

/-- A host post to the queue in POST_Q, or its refusal counted (R282, R284). -/
def State.hostPost (s : State) (d : Nat) (item : Word) : State :=
  let q : BitVec 12 := BitVec.ofNat 12 (s.fld (dresserPage d) 0x120 0 12)
  let x := s.queue d q
  let live : Bool := match x.pid with
    | some p => (s.part p).st = 2 || (s.part p).st = 1
    | none => false
  if x.hostPost ∧ x.kind ≠ 0 ∧ ¬ s.queueOff d q ∧ live ∧ x.hasCredit .host then
    s.append d q item .host
  else s.bump (dresserPage d) 0x130 1

end Sys2Proof.Machine
end

