-- ==== Sys2Proof/Machine/Operands.lean ====
section
/-!
DEFINITION. The number formats that the engines read and write (R40 to R55): exact values, rounding and
conversion, microscaling blocks, and quantisation into the ring formats.
-/

namespace Sys2Proof.Machine

/-- An exact floating-point operand: (−1)^neg × m × 2^e, an infinity or a NaN (R43: one NaN). -/
inductive FV where
  | fin (neg : Bool) (m : Nat) (e : Int)
  | inf (neg : Bool)
  | nan
deriving DecidableEq, Repr

/-- The fields of a floating-point format (Table 2.2). -/
structure FFmt where
  ebits : Nat
  fbits : Nat
  bias  : Nat
  inf   : Bool
  maxM  : Nat
  maxE  : Int
  cnan  : Nat
deriving DecidableEq, Repr

/-- Table 2.2. maxM × 2^maxE is the largest finite value. -/
def ffmt : Nat → Option FFmt
  | 0 => some ⟨8, 23, 127, true, 2 ^ 24 - 1, 104, 0x7FC00000⟩
  | 1 => some ⟨5, 10, 15, true, 2047, 5, 0x7E00⟩
  | 2 => some ⟨8, 7, 127, true, 255, 120, 0x7FC0⟩
  | 3 => some ⟨4, 3, 7, false, 14, 5, 0x7F⟩
  | 4 => some ⟨5, 2, 15, true, 7, 13, 0x7E⟩
  | _ => none

/-- The width of an element in bits (Table 2.1; MXFP8 without its scale). -/
def fmtBits : Nat → Nat
  | 0 => 32
  | 1 => 16
  | 2 => 16
  | 3 => 8
  | 4 => 8
  | 5 => 8
  | 6 => 8
  | 7 => 4
  | 8 => 64
  | 9 => 32
  | 10 => 64
  | 11 => 64
  | _ => 0

/-- The exact value of floating-point bits (R41 to R43); E4M3 has no infinity, and its all-ones code is NaN. -/
def FFmt.decode (f : FFmt) (v : Nat) : FV :=
  let neg := v / 2 ^ (f.ebits + f.fbits) % 2 = 1
  let ex := v / 2 ^ f.fbits % 2 ^ f.ebits
  let fr := v % 2 ^ f.fbits
  let top := 2 ^ f.ebits - 1
  if f.inf ∧ ex = top then (if fr = 0 then .inf neg else .nan)
  else if ¬ f.inf ∧ ex = top ∧ fr = 2 ^ f.fbits - 1 then .nan
  else if ex = 0 then .fin neg fr (1 - (f.bias : Int) - f.fbits)
  else .fin neg (2 ^ f.fbits + fr) ((ex : Int) - f.bias - f.fbits)

/-- A two's-complement number of n bits as an integer. -/
def toSigned (n v : Nat) : Int := if v % 2 ^ n < 2 ^ (n - 1) then (v % 2 ^ n : Nat) else (v % 2 ^ n : Nat) - 2 ^ n

/-- An integer as a two's-complement number of n bits. -/
def ofSigned (n : Nat) (i : Int) : Nat := (i % (2 ^ n : Nat)).toNat

/-- An integer as an exact value times 2^e. -/
def fvInt (i : Int) (e : Int) : FV := .fin (i < 0) i.natAbs e

/-- The exact value of an element in a format that stands for a number (codes 0 to 8). -/
def decodeElem (code v : Nat) : FV :=
  match ffmt code with
  | some f => f.decode v
  | none =>
    if code = 6 then fvInt (toSigned 8 v) 0
    else if code = 7 then fvInt (toSigned 4 v) 0
    else if code = 8 then fvInt (toSigned 64 v) (-32)
    else .nan

/-- An MXFP8 element under its scale byte (R48). -/
def decodeMx (scale v : Nat) : FV :=
  if scale = 0xFF then .nan
  else match decodeElem 3 v with
    | .fin n m e => .fin n m (e + scale - 127)
    | x => x

/-! ### Rounding (Table 2.3, R47) -/

/-- The magnitude m × 2^e as q units of 2^le and a remainder rem / 2^k of a unit. -/
def splitUnits (m : Nat) (e le : Int) : Nat × Nat × Nat :=
  if le ≤ e then (m * 2 ^ (e - le).toNat, 0, 0)
  else
    let k := (le - e).toNat
    (m / 2 ^ k, m % 2 ^ k, k)

/-- The units kept after rounding q + rem / 2^k under a mode; the draw is used by SR only. -/
def roundUnits (mode : Nat) (neg : Bool) (draw : BitVec 32) (q rem k : Nat) : Nat :=
  if rem = 0 then q
  else
    let up := match mode with
      | 0 => 2 * rem > 2 ^ k || (2 * rem == 2 ^ k && q % 2 == 1)
      | 1 => false
      | 2 => !neg
      | 3 => neg
      | _ => rem * 2 ^ 32 / 2 ^ k + draw.toNat ≥ 2 ^ 32
    if up then q + 1 else q

/-- The bits of q × 2^le in a floating-point format that represents it. -/
def FFmt.pack (f : FFmt) (neg : Bool) (q : Nat) (le : Int) : Nat :=
  let s := if neg then 2 ^ (f.ebits + f.fbits) else 0
  if q < 2 ^ f.fbits then s + q
  else
    let q' := if q = 2 ^ (f.fbits + 1) then 2 ^ f.fbits else q
    let le' := if q = 2 ^ (f.fbits + 1) then le + 1 else le
    s + (le' + f.fbits + f.bias).toNat * 2 ^ f.fbits + (q' - 2 ^ f.fbits)

/-- Magnitudes compared: m1 × 2^e1 > m2 × 2^e2. -/
def magGt (m1 : Nat) (e1 : Int) (m2 : Nat) (e2 : Int) : Bool :=
  let b := min e1 e2
  m1 * 2 ^ (e1 - b).toNat > m2 * 2 ^ (e2 - b).toNat

/-- The bits of the largest finite value of a format, with a sign. -/
def FFmt.maxBits (f : FFmt) (neg : Bool) : Nat := f.pack neg f.maxM f.maxE

/-- The bits of an infinity; NaN in a format without one. -/
def FFmt.infBits (f : FFmt) (neg : Bool) : Nat :=
  if f.inf then (if neg then 2 ^ (f.ebits + f.fbits) else 0) + (2 ^ f.ebits - 1) * 2 ^ f.fbits else f.cnan

/-- Conversion of an exact value into a floating-point format, with its status (R45). -/
def FFmt.encode (f : FFmt) (mode : Nat) (draw : BitVec 32) : FV → Nat × Status
  | .nan => (f.cnan, stNonfinite)
  | .inf neg => (f.infBits neg, stNonfinite)
  | .fin neg m e =>
    if m = 0 then (f.pack neg 0 0, stOk)
    else
      let x : Int := Nat.log2 m + e
      let le : Int := max x (1 - (f.bias : Int)) - f.fbits
      let (q, rem, k) := splitUnits m e le
      let q' := roundUnits mode neg draw q rem k
      if magGt q' le f.maxM f.maxE then (f.maxBits neg, stOverflow) else (f.pack neg q' le, stOk)

/-- An exact value rounded to an integer number of units of 2^le, with its sign. -/
def roundInt (mode : Nat) (draw : BitVec 32) (neg : Bool) (m : Nat) (e le : Int) : Int :=
  let (q, rem, k) := splitUnits m e le
  let r : Int := roundUnits mode neg draw q rem k
  if neg then -r else r

/-- Saturation to a range, and whether it happened. -/
def saturate (lo hi x : Int) : Int × Bool :=
  if x < lo then (lo, true) else if hi < x then (hi, true) else (x, false)

/-- Conversion of an exact value into a signed integer of n bits in units of 2^le (R46). -/
def encodeInt (n : Nat) (le : Int) (mode : Nat) (draw : BitVec 32) : FV → Nat × Status
  | .nan => (0, stNonfinite)
  | .inf neg => (ofSigned n (if neg then -2 ^ (n - 1) else 2 ^ (n - 1) - 1), stNonfinite)
  | .fin neg m e =>
    let (x, sat) := saturate (-2 ^ (n - 1)) (2 ^ (n - 1) - 1) (roundInt mode draw neg m e le)
    (ofSigned n x, if sat then stOverflow else stOk)

/-- Conversion of an exact value into a format of codes 0 to 4 and 6 to 8. -/
def encodeElem (code mode : Nat) (draw : BitVec 32) (v : FV) : Nat × Status :=
  match ffmt code with
  | some f => f.encode mode draw v
  | none =>
    if code = 6 then encodeInt 8 0 mode draw v
    else if code = 7 then encodeInt 4 0 mode draw v
    else encodeInt 64 (-32) mode draw v

/-! ### MXFP8 (R49) -/

/-- The scale exponent X of a block: from its largest finite magnitude, clamped to −127 to 127; 0 where no
finite element is nonzero. -/
def mxScale (vs : List FV) : Int :=
  let logs := vs.filterMap (fun v => match v with
    | .fin _ m e => if m = 0 then none else some ((Nat.log2 m : Int) + e)
    | _ => none)
  match logs with
  | [] => 0
  | l :: ls => max (-127) (min 127 (ls.foldl max l - 8))

/-- One element of a block under the exponent X: the value divided by 2^X, in E4M3, clamped to 448 silently;
NaN and infinity become NaN, and an infinity reports NONFINITE. -/
def encodeMxElem (x : Int) (mode : Nat) (draw : BitVec 32) : FV → Nat × Status
  | .nan => (0x7F, stOk)
  | .inf _ => (0x7F, stNonfinite)
  | .fin neg m e => ((encodeElem 3 mode draw (.fin neg m (e - x))).1, stOk)

/-! ### Exact arithmetic -/

/-- The exact product of two operands; zero times infinity is NaN. -/
def FV.mul : FV → FV → FV
  | .nan, _ => .nan
  | _, .nan => .nan
  | .inf a, .inf b => .inf (a != b)
  | .inf a, .fin b m _ => if m = 0 then .nan else .inf (a != b)
  | .fin a m _, .inf b => if m = 0 then .nan else .inf (a != b)
  | .fin a m e, .fin b n f => .fin (a != b) (m * n) (e + f)

/-- The signed mantissa of a finite value at exponent b. -/
def atExp (neg : Bool) (m : Nat) (e b : Int) : Int :=
  let x : Int := (m * 2 ^ (e - b).toNat : Nat)
  if neg then -x else x

/-- The exact sum of two operands; opposite infinities give NaN. The sum of two zeros keeps a common sign. -/
def FV.add : FV → FV → FV
  | .nan, _ => .nan
  | _, .nan => .nan
  | .inf a, .inf b => if a = b then .inf a else .nan
  | .inf a, _ => .inf a
  | _, .inf b => .inf b
  | .fin a m e, .fin b n f =>
    let c := min e f
    let x := atExp a m e c + atExp b n f c
    if x = 0 then .fin (a && b) 0 c else .fin (x < 0) x.natAbs c

/-- The value of FP32 bits. -/
def fp32 (v : BitVec 32) : FV := decodeElem 0 v.toNat

/-- An exact value rounded to FP32 to nearest even, an overflow going to infinity as IEEE 754 gives. -/
def toFp32Ieee (v : FV) : BitVec 32 :=
  match (encodeElem 0 0 0 v) with
  | (b, st) =>
    if st = stOverflow then (match v with
      | .fin neg _ _ => if neg then 0xFF800000 else 0x7F800000
      | _ => BitVec.ofNat 32 b)
    else BitVec.ofNat 32 b

/-! ### Ring formats (R52 to R54) -/

/-- t = N / 2^(32 − f), nearest, ties to even (R53). -/
def quantT (f : Nat) (n : Int) : Int := roundInt 0 0 (n < 0) n.natAbs 0 (32 - (f : Int))

/-- Quantisation of a Q32.32 value into Z32 (9), Z64 (10) or ZQ (11) of prime q: the stored value, and
whether it saturated. -/
def quantise (code q f : Nat) (n : Int) : Nat × Bool :=
  let (lo, hi, m) : Int × Int × Nat :=
    if code = 9 then (-2 ^ 31, 2 ^ 31 - 1, 2 ^ 32)
    else if code = 10 then (-2 ^ 63, 2 ^ 63 - 1, 2 ^ 64)
    else (-(((q : Int) - 1) / 2), ((q : Int) - 1) / 2, q)
  let (t, sat) := saturate lo hi (quantT f n)
  ((t % m).toNat, sat)

/-- Dequantisation into Q32.32 (R54): the 64-bit value, and whether it saturated. -/
def dequantise (code q f v : Nat) : Nat × Bool :=
  let t : Int := if code = 9 then toSigned 32 v else if code = 10 then toSigned 64 v
    else if 2 * (v % q) ≤ q - 1 then (v % q : Nat) else (v % q : Nat) - (q : Int)
  let (n, sat) := saturate (-2 ^ 63) (2 ^ 63 - 1) (t * 2 ^ (32 - f))
  (ofSigned 64 n, sat)

end Sys2Proof.Machine
end

