-- ==== Sys2Proof/Machine/Flags.lean ====
section
/-!
DEFINITION. The exact window accumulator and its flag byte (R56 to R60), long-form partials (R61 to R63) and
the resolution of a drain (R64, Table 2.6).
-/

namespace Sys2Proof.Machine

/-! Flag bits, Table 2.4. -/
abbrev flInexact : BitVec 8 := 0x01
abbrev flWide : BitVec 8 := 0x02
abbrev flOverflow : BitVec 8 := 0x04
abbrev flInvalid : BitVec 8 := 0x08
abbrev flPosInf : BitVec 8 := 0x10
abbrev flNegInf : BitVec 8 := 0x20

/-- A flag is set. -/
def hasFlag (f b : BitVec 8) : Bool := f &&& b ≠ 0

/-- WIDE follows N (R58). -/
def setWide (n : Int) (f : BitVec 8) : BitVec 8 :=
  if n < -2 ^ 127 ∨ 2 ^ 127 - 1 < n then f ||| flWide else f &&& ~~~flWide

/-- The addition of an integer to N (R58): frozen after an overflow, else exact or saturated with
ACC_OVERFLOW. -/
def Elem.addInt (x : Elem) (a : Int) : Elem :=
  if hasFlag x.flags flOverflow then x
  else
    let s := x.n.toInt + a
    if s < -2 ^ 135 then { n := BitVec.ofInt 136 (-2 ^ 135), flags := setWide (-2 ^ 135) (x.flags ||| flOverflow) }
    else if 2 ^ 135 - 1 < s then
      { n := BitVec.ofInt 136 (2 ^ 135 - 1), flags := setWide (2 ^ 135 - 1) (x.flags ||| flOverflow) }
    else { n := BitVec.ofInt 136 s, flags := setWide s x.flags }

/-- The addition of an exact value under window exponent w (R57 to R59); after an overflow a finite addend is
ignored (R58). -/
def Elem.addFV (w : Int) (x : Elem) : FV → Elem
  | .nan => { x with flags := x.flags ||| flInvalid }
  | .inf neg => { x with flags := x.flags ||| (if neg then flNegInf else flPosInf) }
  | .fin neg m e =>
    if hasFlag x.flags flOverflow then x else
    let (q, rem, _) := splitUnits m e (w - 96)
    let y := x.addInt (if neg then -(q : Int) else q)
    if rem = 0 then y else { y with flags := y.flags ||| flInexact }

/-- The empty accumulator. -/
def Elem.zero : Elem := { n := 0, flags := 0 }

/-! ### Long-form partials -/

/-- A long-form partial (Table 2.5). -/
structure LForm where
  elem : Elem
  w    : Int
deriving DecidableEq, Repr

/-- The partial of 20 bytes. -/
def lfOfBytes (bs : List Byte) : LForm :=
  { elem := { n := BitVec.ofNat 136 (Crypto.leNat (bs.take 17)), flags := bs.getD 19 0 }
    w := toSigned 16 (Crypto.leNat ((bs.drop 17).take 2)) }

/-- The 20 bytes of a partial (R62). -/
def LForm.toBytes (l : LForm) : List Byte :=
  Crypto.leBytes 17 l.elem.n.toNat ++ Crypto.leBytes 2 (ofSigned 16 l.w) ++ [l.elem.flags]

/-- A window exponent in range (R56). -/
def windowOk (w : Int) : Bool := -256 ≤ w && w ≤ 255

/-- A partial at an address passes R61. -/
def lfOk (a : Nat) (l : LForm) : Bool := a % 32 = 0 && windowOk l.w && l.elem.flags &&& 0xC0 = 0

/-- The addition of a source element into a destination of equal w (R63, steps 1 to 3). -/
def Elem.addElem (d s : Elem) : Elem :=
  let y := d.addInt s.n.toInt
  { n := y.n, flags := setWide y.n.toInt (y.flags ||| s.flags) }

/-- A long-form add (R63): FORMAT_INVALID, WINDOW_MISMATCH, or OK with the resulting destination. -/
def lfAdd (da : Nat) (d : LForm) (sa : Nat) (s : LForm) : Status × LForm :=
  if ¬ (lfOk da d ∧ lfOk sa s) then (stFormat, d)
  else if d.w ≠ s.w then (stWindow, d)
  else (stOk, { d with elem := d.elem.addElem s.elem })

/-! ### Drain (Table 2.6) -/

/-- The largest finite magnitude of a target with a sign, as bits (R64). -/
def limitBits (code : Nat) (neg : Bool) : Nat :=
  match ffmt code with
  | some f => f.maxBits neg
  | none =>
    let n := if code = 6 then 8 else if code = 7 then 4 else 64
    ofSigned n (if neg then -2 ^ (n - 1) else 2 ^ (n - 1) - 1)

/-- The value that a drain passes on, and the status so far: rows 1 to 3 of Table 2.6 or the exact value. -/
inductive Drained where
  | nonfinite (v : FV)
  | saturated (neg : Bool)
  | exact (v : FV) (inexact : Bool)
deriving DecidableEq, Repr

/-- Rows 1 to 3 of Table 2.6, else the exact value N × 2^(w − 96). -/
def Elem.drained (w : Int) (x : Elem) : Drained :=
  let p := hasFlag x.flags flPosInf
  let m := hasFlag x.flags flNegInf
  if hasFlag x.flags flInvalid ∨ (p ∧ m) then .nonfinite .nan
  else if p ∨ m then .nonfinite (.inf m)
  else if hasFlag x.flags flOverflow ∨ x.n.toInt < -2 ^ 127 ∨ 2 ^ 127 - 1 < x.n.toInt then
    .saturated (x.n.toInt < 0)
  else .exact (fvInt x.n.toInt (w - 96)) (hasFlag x.flags flInexact)

/-- The bits and the status of a drained value in a target of codes 0 to 4 and 6 to 8 (Table 2.6). -/
def Drained.encode (code mode : Nat) (draw : BitVec 32) : Drained → Nat × Status
  | .nonfinite (.inf neg) =>
    match ffmt code with
    | some f => (if f.inf then f.infBits neg else f.maxBits neg, stNonfinite)
    | none => (limitBits code neg, stNonfinite)
  | .nonfinite _ =>
    match ffmt code with
    | some f => (f.cnan, stNonfinite)
    | none => (0, stNonfinite)
  | .saturated neg => (limitBits code neg, stOverflow)
  | .exact v inexact =>
    let (b, st) := encodeElem code mode draw v
    (b, if st = stOverflow then stOverflow else if inexact then stInexact else stOk)

end Sys2Proof.Machine
end

