-- ==== Sys2Proof/Machine/Engine.lean ====
section
/-!
DEFINITION. What the four engines share: taking a command from its queue, reading its descriptor and the
header's checks (R85 to R87), ORDERED, the summary word of SKIP (R184 to R188), and operand access. An engine's
command runs whole in one step (log 3); its completion is reported by ENGINE_COMPLETION.
-/

namespace Sys2Proof.Machine

/-- A descriptor: 64 bytes. -/
abbrev Desc := List Byte

/-- A field of whole bytes of a descriptor. -/
def Desc.n (d : Desc) (off len : Nat) : Nat := Crypto.leNat ((d.drop off).take len)

/-- Bits [lo + n − 1 : lo] of a byte of a descriptor. -/
def Desc.bits (d : Desc) (off lo n : Nat) : Nat := field (d.n off 1) lo n

/-- The header's reserved bits are clear: byte 2 [7:6] and PTAG [7:5] (R5, Table 3.8). -/
def Desc.headOk (d : Desc) : Bool := d.bits 2 6 2 = 0 && d.bits 4 5 3 = 0

/-- PTAG names a session (R86). -/
def Desc.tagOk (d : Desc) (pid : BitVec 5) (pgen : BitVec 24) : Bool :=
  d.bits 4 0 5 = pid.toNat && d.n 5 3 = pgen.toNat

/-- Bytes from off to off + len − 1 are zero. -/
def Desc.zero (d : Desc) (off len : Nat) : Bool := d.n off len = 0

/-- SKIP of the header. -/
def Desc.skip (d : Desc) : Bool := d.bits 2 2 1 = 1

/-- The agent that reads the descriptor of an entry, in its class (R206, R213). -/
def entryAgent (k : Nat) (x : EngEntry) : Agent :=
  { die := dieOfCore k, pid := x.pid, cls := x.cls.toNat, sel := 16 * x.core.toNat + x.thr.toNat, port := clusterOfCore k,
    doer := .command x.num }

/-- The agent of an engine command: the engine's die, its issuer's session, its CLASS. -/
def cmdAgent (k : Nat) (x : EngEntry) (d : Desc) : Agent :=
  { die := dieOfCore k, pid := x.pid, cls := d.bits 2 0 2, sel := 16 * x.core.toNat + x.thr.toNat,
    port := clusterOfCore k, doer := .command x.num }

/-- The outcome of a command's body: state, status, and the serial of a release it was accepted against. -/
abbrev Ran := State × Status × Option Nat

/-- An entry of a queue takes its status, its class and what its run has met; a C3 command that found no Joist credit is
counted (R290), one that a controller refused is counted there (R214). -/
def State.finishEntry (s0 : State) (k : Nat) (e : Engine) (i : Nat) (d : Desc) (st : Status) (rel : Option Nat) : State :=
  let s := if st = stNoCredit ∧ ¬ s0.run.refused then s0.bump (.die (dieOfCore k) tyJoist 0) 0x12C 1 else s0
  s.setCore k ((s.core k).setQ e (((s.core k).q e).modify i (fun x =>
    { x with op := BitVec.ofNat 8 (d.n 0 1), evt := d.bits 2 4 1 = 1, status := some st, rel := rel,
             cls := if d.zero 0 64 then x.cls else BitVec.ofNat 2 (d.bits 2 0 2), demoted := s.run.demoted, c3 := s.run.touch,
             sums := s.run.sums, undo := s.run.undo, hdr := s.run.hdr, sealing := s.run.sealing })))

/-- An earlier command of the same thread has not completed (ORDERED, Table 3.8). -/
def heldByOrder (q : List EngEntry) (i : Nat) (x : EngEntry) (d : Desc) : Bool :=
  d.bits 2 5 1 = 1 && (q.take i).any (fun y => y.core = x.core && y.thr = x.thr)

/-- A descriptor as it stands in memory, without a read's effects: what the queue order of an engine is
decided by. -/
def State.peekDesc (s : State) (k : Nat) (x : EngEntry) : Desc :=
  (s.memRead (entryAgent k x) x.desc 64).2.2

/-- The entries of running commands that a queue has room for: 512 less the 384 of the credits (R280). -/
def runningMax : Nat := 128

/-- One command at place i of a queue runs as the row of opcode op: the descriptor read (R87), what its engine and
the Ledger's admission of its class hold it back for (R406), ORDERED, PTAG (R86), an opcode no row has, else the body. Another row's command stays. -/
def engineCmd (k : Nat) (e : Engine) (i : Nat) (x : EngEntry) (valid : Nat → Bool) (op : Nat) (inv : Status)
    (held : Desc → Bool) (body : Agent → EngEntry → Desc → State → Ran) (s : State) : State :=
  let r := s.memRead (entryAgent k x) x.desc 64
  let d : Desc := r.2.2
  if runningMax ≤ (((s.core k).q e).filter (fun y => y.status.isSome)).length ∨ held d ∨ ¬ s.admits x.cls then s
  else if r.2.1 ≠ stOk then r.1.finishEntry k e i (List.replicate 64 0) r.2.1 none
  else if heldByOrder ((s.core k).q e) i x d then s
  else if ¬ d.tagOk x.pid x.pgen then r.1.finishEntry k e i d stTag none
  else if ¬ valid (d.n 0 1) then r.1.finishEntry k e i d inv none
  else if d.n 0 1 ≠ op then s
  else
    let o := body (cmdAgent k x d) x d r.1
    s.settle (.command x.num) (o.1.finishEntry k e i d o.2.1 o.2.2)

/-- The first waiting entry of a queue. -/
def firstWaiting (q : List EngEntry) : Option (Nat × EngEntry) :=
  (q.zipIdx.find? (fun p => p.1.status.isNone)).map (fun p => (p.2, p.1))

/-- The engine of a core may start a command: its clock runs and its unit is present. -/
def State.engReady (s : State) (k : Nat) : Bool := s.engOn && (s.physCore k).isSome

/-- A command of an engine that takes its queue in order; `held` says of a place, an entry and its descriptor that the
engine holds it back. -/
def fifoCmd (k : Nat) (e : Engine) (valid : Nat → Bool) (op : Nat) (inv : Status)
    (held : Nat → EngEntry → Desc → Bool) (body : Agent → EngEntry → Desc → State → Ran) (s : State) : State :=
  if ¬ s.engReady k then s
  else match firstWaiting ((s.core k).q e) with
    | none => s
    | some (i, x) => engineCmd k e i x valid op inv (held i x) body s

/-- A refusal before anything is written. -/
def fail (s : State) (st : Status) : Ran := (s, st, none)

/-! ### Checks in order -/

/-- The first failing check of a list, in order (R473). -/
def firstFail : List (Bool × Status) → Status
  | [] => stOk
  | (ok, st) :: cs => if ok then firstFail cs else st

/-! ### SKIP (R184 to R188) -/

/-- The SUMMARY field's own check: TEST valid, BIT zero under WORD_ZERO, bits [63:56] zero (R186, R5); bits [2:0]
are taken as zero (R184, log 35). -/
def summaryOk (v : Nat) : Bool :=
  field v 54 2 ≠ 3 && !(field v 54 2 = 2 && field v 48 6 ≠ 0) && field v 56 8 = 0

/-- The outcome of the test of a summary word. -/
inductive SkipTest where
  | run
  | skipped
  | failed (st : Status)
deriving DecidableEq, Repr

/-- The test of a summary word (R186, R188). -/
def State.skipTest (s : State) (g : Agent) (v : Nat) : State × SkipTest :=
  let a := v % 2 ^ 48 / 8 * 8
  let chk := s.checkRange g false a 8
  if chk ≠ stOk then (s, .failed chk)
  else
    let (s1, st, word) := s.readNum g a 8
    if st ≠ stOk then (s1, .failed st)
    else
      let bit := field word (field v 48 6) 1
      let met : Bool := match field v 54 2 with
        | 0 => bit = 0
        | 1 => bit = 1
        | _ => word = 0
      (s1, if met then .skipped else .run)

/-- A body after its SKIP test: a skipped command ends OK and is counted at an offset of the CORE page (R187,
Table 7.3). -/
def withSkip (g : Agent) (k : Nat) (d : Desc) (off : Nat) (s : State) (go : State → Ran) : Ran :=
  if d.skip then
    match s.skipTest g (d.n 56 8) with
    | (s1, .failed st) => (s1, st, none)
    | (s1, .skipped) => (s1.bump (s1.corePage k 0) off 1, stOk, none)
    | (s1, .run) => go s1
  else go s

/-! ### Operands -/

/-- A destination overlaps an operand that it does not equal exactly, or two destinations overlap (R134). -/
def State.overlapBad (s : State) (d : Nat) (ops : List (Nat × Nat)) : List (Nat × Nat) → Bool
  | [] => false
  | y :: ys =>
    ops.any (fun x => s.overlap d x y && !(s.canon d x.1 = s.canon d y.1 && x.2 = y.2)) ||
    ys.any (fun x => s.overlap d x y) || s.overlapBad d ops ys

/-- Reads of several ranges in order; they stop at the first that fails, but a run that lacks data of another device
goes on to ask for all that it needs (R291). -/
def State.readAll (s : State) (g : Agent) (rs : List (Nat × Nat)) : State × Status × List (List Byte) :=
  rs.foldl (fun r p =>
    if r.2.1 ≠ stOk ∧ r.1.run.asks.isEmpty then r
    else
      let x := r.1.memRead g p.1 p.2
      (x.1, if r.2.1 ≠ stOk then r.2.1 else x.2.1, r.2.2 ++ [x.2.2])) (s, stOk, [])

/-- What a write of bytes in units of a size will cover, noted for a stop of its command (R135, R211). -/
def State.noteOld (s : State) (g : Agent) (unit a : Nat) (bs : List Byte) : State :=
  { s with run := { s.run with
      undo := s.run.undo ++ [{ addr := a, unit := unit, old := (s.memRead g a bs.length).2.2, new := bs }] } }

/-- A write of an engine in units of a size. -/
def State.engWrite (s : State) (g : Agent) (unit a : Nat) (bs : List Byte) : State × Status :=
  (s.noteOld g unit a bs).memWrite g false none a bs

/-- Writes of several pieces in order; they stop at the first that is refused. -/
def State.writeAll (s : State) (g : Agent) (ws : List (Nat × List Byte)) : State × Status :=
  ws.foldl (fun r p => if r.2 ≠ stOk then r else r.1.engWrite g 1 p.1 p.2) (s, stOk)

/-- Elements read one after the other, each from its operands (address, length); reading stops at the first
element that fails, and the elements before it stand. -/
def State.vecRead (s : State) (g : Agent) (n : Nat) (ops : Nat → List (Nat × Nat)) : State × Status × List (List Nat) :=
  (List.range n).foldl (fun r i =>
    if r.2.1 ≠ stOk ∧ r.1.run.asks.isEmpty then r
    else
      let x := r.1.readAll g (ops i)
      (x.1, if r.2.1 ≠ stOk then r.2.1 else x.2.1, if x.2.1 = stOk then r.2.2 ++ [x.2.2.map Crypto.leNat] else r.2.2)) (s, stOk, [])

/-- The length of the prefix that a stopped command had written, at most n: free (R135). -/
def State.stopAt (s : State) (n : Nat) : State × Nat :=
  ({ s with fresh := s.fresh + 1 }, Config.stopPrefix s.fresh % (n + 1))

/-- The greatest number of units of a size from an address, at most p, that ends between two naturally aligned 8 bytes, each
of which an engine writes at once (R31). -/
def cutAt (a unit p : Nat) : Nat :=
  (((List.range 8).find? (fun i => i ≤ p && (a + (p - i) * unit) % 8 = 0)).map (fun i => p - i)).getD 0

/-- The units of a size from an address that a stopped command had written, at most n: a free prefix that ends between two
naturally aligned 8 bytes (R31, R135). -/
def State.stopCut (s : State) (a unit n : Nat) : State × Nat := ((s.stopAt n).1, cutAt a unit (s.stopAt n).2)

/-- Elements of a size written from an address; of a command that stopped with a status, a free prefix. -/
def State.vecWrite (s : State) (g : Agent) (st : Status) (dst size : Nat) (vals : List Nat) : Ran :=
  let (s1, p) := if st = stOk then (s, vals.length) else s.stopCut dst size vals.length
  let (s2, st2) := s1.engWrite g size dst ((vals.take p).map (fun v => Crypto.leBytes size v)).flatten
  (s2, if st ≠ stOk then st else st2, none)

/-- The Wicket's part in an engine's writes: the first destination that leaves the partition's trust is
refused (R21, R295), before any byte is written (log 33). -/
def State.wicketAll (s : State) (g : Agent) (ws : List (Nat × Nat)) : State × Status :=
  ws.foldl (fun r p => if r.2 ≠ stOk then r else r.1.wicketWrite g p.1 p.2) (s, stOk)

/-- Element i of packed bytes in a format; INT4 takes the low nibble first (R50). -/
def elemAt (code : Nat) (bs : List Byte) (i : Nat) : Nat :=
  if code = 7 then field ((bs.getD (i / 2) 0).toNat) (4 * (i % 2)) 4
  else Crypto.leNat ((bs.drop (i * (fmtBits code / 8))).take (fmtBits code / 8))

/-- Elements packed in a format (R50). -/
def packElems (code : Nat) (vs : List Nat) : List Byte :=
  if code = 7 then
    (List.range ((vs.length + 1) / 2)).map (fun i =>
      BitVec.ofNat 8 (vs.getD (2 * i) 0 % 16 + 16 * (vs.getD (2 * i + 1) 0 % 16)))
  else (vs.map (fun v => Crypto.leBytes (fmtBits code / 8) v)).flatten

/-- The bytes of n elements of a format. -/
def elemBytes (code n : Nat) : Nat := (n * fmtBits code + 7) / 8

/-- The order of result statuses: NONFINITE, WINDOW_OVERFLOW, OK_INEXACT, OK (R124). -/
def worse (a b : Status) : Status :=
  let rank : Status → Nat := fun s => if s = stNonfinite then 3 else if s = stOverflow then 2
    else if s = stInexact then 1 else 0
  if rank a < rank b then b else a

end Sys2Proof.Machine
end

