-- ==== Sys2Proof/Machine/Wicket.lean ====
section
/-!
DEFINITION. Requests for keys over the key bus (R309, R323), and the Wicket's checks of a release descriptor
(R178, R179, Table 6.5), its acceptance and the sealed form (R180).
-/

namespace Sys2Proof.Machine

/-! ### Keys -/

/-- Engine mask bits (Table 11.3). -/
abbrev mbMemcrypt : Nat := 0
abbrev mbMitreTx : Nat := 1
abbrev mbMitreRx : Nat := 2
abbrev mbMkx : Nat := 3
abbrev mbSeal : Nat := 4
abbrev mbSign : Nat := 5
abbrev mbChal : Nat := 6
abbrev mbUnwrap : Nat := 7
abbrev mbMac : Nat := 8

/-- The key behind two shares. -/
def Masked.key (m : Masked) : BitVec 512 := m.sh0 ^^^ m.sh1

/-- The key behind the two shares of a slot. -/
def KeySlot.key (k : KeySlot) : BitVec 512 := k.sh0 ^^^ k.sh1

/-- The bytes of a key of a slot's length, key byte 0 first. -/
def KeySlot.bytesOf (k : KeySlot) (v : BitVec 512) : List Byte := Crypto.leBytes (k.bits / 8) v.toNat

/-- The slot is the partition's in its present session. -/
def State.keyOwned (s : State) (pid : BitVec 5) (k : KeySlot) : Bool :=
  !k.dev && k.pid = pid && k.pgen = (s.part pid).pgen

/-- An engine's request for a key (R309): the key, KEY_STALE, or KEY_ATTR_DENIED. -/
def State.keyRequest (s : State) (pid : BitVec 5) (slot : BitVec 8) (bit : Nat) : Status × List Byte :=
  let k := s.key slot
  match k.st with
  | .stale => (stKeyStale, [])
  | .empty => (stKeyDenied, [])
  | .valid =>
    if s.keyOwned pid k ∧ k.mask.getLsbD bit then (stOk, k.bytesOf k.key) else (stKeyDenied, [])

/-- The overlap window of a slot ends: the old key is zeroised and the slot's node takes the new label (R323). -/
def State.endWindow (s : State) (slot : BitVec 8) : State :=
  let k := s.key slot
  match k.old with
  | none => s
  | some (_, _, label) =>
    let s1 := s.setKey slot { k with old := none }
    match s1.node k.node.toNat with
    | some x => s1.setNode k.node.toNat (some { x with label := label })
    | none => s1

/-- An operation of a slot during an overlap window: the old key goes after its last (R323). -/
def State.countKeyOp (s : State) (slot : BitVec 8) : State :=
  let k := s.key slot
  match k.old with
  | none => s
  | some (v, n, label) => if n ≤ 1 then s.endWindow slot else s.setKey slot { k with old := some (v, n - 1, label) }

/-- The slot of a partition that carries an attribute: the lowest VALID one, else the lowest STALE one
(log 45). -/
def State.slotWith (s : State) (pid : BitVec 5) (bit : Nat) : Option (BitVec 8) :=
  let all := (List.range 256).map (fun n => BitVec.ofNat 8 n)
  let has := fun (st : KeyState) (n : BitVec 8) =>
    (s.key n).st = st && s.keyOwned pid (s.key n) && (s.key n).mask.getLsbD bit
  match all.find? (has .valid) with
  | some n => some n
  | none => all.find? (has .stale)

/-! ### Release descriptors -/

/-- What an accepted release descriptor says: kind, range, sealing slot and label, and the serial of its
token. -/
structure Release where
  isSealed : Bool
  src    : Nat
  len    : Nat
  slot   : BitVec 8
  label  : Nat
  serial : Nat
deriving DecidableEq, Repr

/-- The mechanism and parameter meet the partition's policy, compared exactly (R171 step 5). -/
def Part.policyOk (p : Part) (mech pnum pden : Nat) : Bool :=
  let m := if mech = 0 then p.gauss else p.lap
  p.mech.getLsbD mech && m.1.toNat * pden ≤ pnum * m.2.toNat

/-- The MAC of a token (R173). -/
def tokenMac (key body : List Byte) : List Byte := Crypto.kmac256 key body (Crypto.ascii "W880 NOISE TOKEN") 32

/-- A token's MAC verifies under the partition's WICKET_MAC slot, by its current key or by an old one in its
overlap window (R179 check 2, R323). -/
def State.tokenVerifies (s : State) (pid : BitVec 5) (tok : List Byte) : Bool :=
  match s.slotWith pid mbMac with
  | none => false
  | some n =>
    let (st, key) := s.keyRequest pid n mbMac
    st = stOk && (tok.drop 96 = tokenMac key (tok.take 96) ||
      (match (s.key n).old with
        | some (v, _, _) => tok.drop 96 = tokenMac ((s.key n).bytesOf v.key) (tok.take 96)
        | none => false))

/-- The slot whose operation a token check counts as. -/
def State.countMacOp (s : State) (pid : BitVec 5) : State :=
  match s.slotWith pid mbMac with
  | some n => s.countKeyOp n
  | none => s

/-- Checks 3 to 6 on a token (Table 6.5): the first failing reason, 0 for none. -/
def State.tokenReason (s : State) (pid : BitVec 5) (t : Desc) (src len : Nat) : Nat :=
  let p := s.part pid
  let sz := if t.bits 20 4 4 = 9 then 4 else 8
  if ¬ (t.n 16 4 = s.ptag pid && s.frozen.any (fun f => f.live && !f.thaw && f.pid = pid && f.serial = t.n 0 8)) then 3
  else if ¬ (t.n 32 8 ≤ src && src + len ≤ t.n 32 8 + t.n 40 4 * sz) then 4
  else if t.n 44 4 < p.kmin.toNat then 5
  else if ¬ p.policyOk (t.bits 20 0 1) (t.n 24 4) (t.n 28 4) then 6
  else 0

/-- The check of a release descriptor at an address for a transfer of a range (Table 6.5): the state after its
reads, the failing reason or 0, and what it says. A descriptor in register, unmapped or unowned memory is the Wicket's
refusal with reason 0x01 (Table 6.5) and no failed range of the command (R19): the spec says both of such an address, and
this is the model's choice (DESIGN CHOICE, log 101). So is reason 0x01 for CT set in a NOISED descriptor (R179, DESIGN CHOICE,
log 106). -/
def State.wicketCheck (s : State) (g : Agent) (desc src len : Nat) : State × Nat × Release :=
  let none' : Release := { isSealed := false, src := 0, len := 0, slot := 0, label := 0, serial := 0 }
  if desc = 0 ∨ desc % 64 ≠ 0 ∨ s.ownedRange g desc 64 ≠ stOk then (s, 1, none')
  else
    let (s1, st, b) := s.memRead g desc 64
    let d : Desc := b
    let kind := d.bits 0 0 2
    let r : Release := { isSealed := kind = 2, src := d.n 8 8, len := d.n 16 8, slot := BitVec.ofNat 8 (d.n 32 1),
                         label := d.n 40 8, serial := 0 }
    if st ≠ stOk ∨ d.n 4 4 ≠ s.ptag g.pid ∨ ¬ (kind = 1 || kind = 2) ∨ d.bits 0 3 5 ≠ 0 ∨
        (kind = 1 ∧ d.bits 0 2 1 = 1) ∨ ¬ d.zero 1 3 ∨ ¬ d.zero 33 7 ∨ ¬ d.zero 48 16 ∨
        r.len = 0 ∨ 2 ^ 32 < r.len ∨ r.src ≠ src ∨ r.len ≠ len then (s1, 1, none')
    else if kind = 1 then
      let chk := s1.checkRange g false (d.n 24 8) 128
      let (s2, st2, t) := if chk = stOk then s1.memRead g (d.n 24 8) 128 else (s1, chk, [])
      if st2 ≠ stOk ∨ ¬ s2.tokenVerifies g.pid t then (s2.countMacOp g.pid, 2, none')
      else
        let tok : Desc := t
        let why := s2.tokenReason g.pid tok r.src r.len
        (s2.countMacOp g.pid, why, { r with serial := tok.n 0 8 })
    else
      let k := s1.key r.slot
      if ¬ ((s1.keyRequest g.pid r.slot mbSeal).1 = stOk && k.branch = 3) then (s1, 7, none')
      else if d.bits 0 2 1 = 1 then
        let chk := s1.checkRange g false r.src 64
        let (s2, st2, h) := if chk = stOk then s1.memRead g r.src 64 else (s1, chk, [])
        let hd : Desc := h
        if st2 ≠ stOk ∨ hd.bits 14 0 2 ≠ 0 then (s2, 8, none') else (s2, 0, r)
      else (s1, 0, r)

/-- A release is accepted: RELEASES counts it, and a token's frozen entry holds it until it completes (R175). -/
def State.acceptRelease (s : State) (d : Nat) (pid : BitVec 5) (r : Release) : State :=
  let s1 := s.bump (.die d tyWicket 0) 0x100 1
  if r.isSealed then s1
  else { s1 with frozen := s1.frozen.map (fun f =>
    if f.pid = pid ∧ f.serial = r.serial ∧ f.live then { f with rels := f.rels + 1 } else f) }

/-- The serial that a release holds until it completes. -/
def Release.holds (r : Release) : Option Nat := if r.isSealed then none else some r.serial

/-- The length of what leaves (R180). -/
def Release.outLen (r : Release) : Nat := if r.isSealed then r.len + 80 else r.len

/-- The header of a sealed release (R180; multi-byte fields little-endian under R4). -/
def sealHeader (label pgen ctr len ptag : Nat) : List Byte :=
  Crypto.leBytes 8 label ++ Crypto.leBytes 4 pgen ++ Crypto.leBytes 8 ctr ++ Crypto.leBytes 8 len ++
  Crypto.leBytes 4 ptag ++ List.replicate 32 0

/-- The sealed form of source bytes: header, ciphertext and tag; the seal counter advances (R180). -/
def State.sealBytes (s : State) (pid : BitVec 5) (r : Release) (src : List Byte) : State × List Byte :=
  let p := s.part pid
  let (_, key) := s.keyRequest pid r.slot mbSeal
  let h := sealHeader r.label p.pgen.toNat p.sealCtr r.len (s.ptag pid)
  let (ct, tag) := Crypto.gcmSeal key ((h.drop 8).take 12) h src
  ((s.setPart pid { p with sealCtr := p.sealCtr + 1 }).countKeyOp r.slot, h ++ ct ++ tag)

end Sys2Proof.Machine
end

