-- ==== Sys2Proof/Machine/Entropy.lean ====
section
/-!
DEFINITION. The DRBG of Seedbed and its output queue (R355), how a consumer draws from it (R357, Table 13.1), and how a key
enters a slot of the Key Vault as two shares (R307, R313).
-/

namespace Sys2Proof.Machine

/-- The SEEDBED page. -/
abbrev seedPage : Page := .dieE tySeedbed

/-- STATE.MODE: 0 STARTUP, 1 HEALTHY, 3 FAILED (Table 13.3). -/
def State.seedMode (s : State) : Nat := s.fld seedPage 0x100 0 2

/-! ### CTR_DRBG (R355) -/

/-- Block i of the generator's output from a counter. -/
def drbgBlock (key : List Byte) (v : BitVec 128) (i : Nat) : List Byte :=
  Crypto.aes256 key (Crypto.beBytes 16 (v + BitVec.ofNat 128 i).toNat)

/-- The update of key and counter by 48 bytes. -/
def drbgUpdate (key : List Byte) (v : BitVec 128) (data : List Byte) : List Byte × BitVec 128 :=
  let t := Crypto.xorBytes ((List.range 3).flatMap (fun i => drbgBlock key v (i + 1))) data
  (t.take 32, BitVec.ofNat 128 (Crypto.beNat (t.drop 32)))

/-- The bytes of one request to the generator (R355). -/
def chunkLen : Nat := 4096

/-- n bytes of a chunk after those already delivered. -/
def SeedChunk.bytes (c : SeedChunk) (n : Nat) : List Byte :=
  let b := c.used / 16
  (((List.range ((c.used % 16 + n + 15) / 16)).flatMap (fun i => drbgBlock c.key c.v (b + i + 1))).drop (c.used % 16)).take n

/-- n bytes taken from the front of the output queue. -/
def takeChunks : List SeedChunk → Nat → List Byte × List SeedChunk
  | [], _ => ([], [])
  | c :: cs, n =>
    let m := min n (chunkLen - c.used)
    if c.used + m = chunkLen then
      let r := takeChunks cs (n - m)
      (c.bytes m ++ r.1, r.2)
    else (c.bytes m, { c with used := c.used + m } :: cs)

/-- QUEUE.LEVEL: the bytes in the output queue. -/
def State.seedLevel (s : State) : Nat := (s.seed.queue.map (fun c => chunkLen - c.used)).sum

/-- A request of 4 KiB generated into the queue, and the update after it (R355). -/
def State.generate (s : State) : State :=
  let x := s.seed
  let (k, v) := drbgUpdate x.key (x.v + 256) (List.replicate 48 0)
  { s with seed := { x with queue := x.queue ++ [{ key := x.key, v := x.v, used := 0 }], key := k, v := v,
                            since := x.since + chunkLen } }

/-! ### Consumers (R357, Table 13.1) -/

/-- n bytes leave the output queue. -/
def State.takeSeed (s : State) (n : Nat) : State × List Byte :=
  let (b, q) := takeChunks s.seed.queue n
  ({ s with seed := { s.seed with queue := q } }, b)

/-- n bytes delivered to an internal consumer. -/
def State.handOut (s : State) (n : Nat) : State × List Byte :=
  let (s1, b) := s.takeSeed n
  (s1.bump64 seedPage 0x128 n, b)

/-- The queue can serve a request of a consumer of Table 13.1 now: no waiting request of an earlier consumer stands before
it, and the queue holds its bytes. -/
def State.canServe (s : State) (order n : Nat) : Bool :=
  s.seedMode ≠ 0 && !(1 < order && s.seed.sweep.isSome) && !(2 < order && s.seed.wait.isSome) && n ≤ s.seedLevel

/-- A request of n bytes by an internal consumer that does not wait, 3 or 4 in the order of Table 13.1: RNG_FAILED after a
fatal failure, RNG_NOT_READY where the queue cannot serve it, else the bytes. -/
def State.drawInternal (s : State) (order n : Nat) : State × Status × List Byte :=
  if s.seedMode = 3 then (s, stRngFailed, [])
  else if ¬ s.canServe order n then (s.bump seedPage 0x11C 1, stRngNotReady, [])
  else
    let (s1, b) := s.handOut n
    (s1, stOk, b)

/-- The AON cycles of the 1 ms for which a request of the RTP waits. -/
def rtpPatience : Nat := 25000

/-- A request of n bytes by the RTP (order 2): none while it waits, for up to 1 ms, for the queue to serve it; at a wake from
SLEEP it waits for Seedbed's start-up and the first sweep (R401). -/
def State.drawRtp (s : State) (n : Nat) : State × Option (Status × List Byte) :=
  let past := fun (t : State) => { t with seed := { t.seed with wait := none } }
  if s.seedMode = 3 then (past s, some (stRngFailed, []))
  else if s.canServe 2 n then
    let (s1, b) := s.handOut n
    (past s1, some (stOk, b))
  else
    let since := s.seed.wait.getD s.time
    let waking : Bool := s.power = 2 && (s.seedMode = 0 || s.seed.sweep.isSome)
    if waking then ({ s with seed := { s.seed with wait := some since } }, none)
    else if s.seedMode = 0 ∨ rtpPatience ≤ s.time.toNat - since.toNat then
      ((past s).bump seedPage 0x11C 1, some (stRngNotReady, []))
    else ({ s with seed := { s.seed with wait := some since } }, none)

/-! ### Keys as shares (R307, R313) -/

/-- A key of a number of bytes under a mask. -/
def Masked.of (key : List Byte) (m : BitVec 512) : Masked :=
  { sh0 := BitVec.ofNat 512 (Crypto.leNat key) ^^^ m, sh1 := m }

/-- A slot takes a key under a mask: the shares are (key XOR mask) and mask. -/
def State.putKey (s : State) (n : BitVec 8) (k : KeySlot) (key : List Byte) (m : BitVec 512) : State :=
  let v := Masked.of key m
  s.setKey n { k with st := .valid, bits := 8 * key.length, sh0 := v.sh0, sh1 := v.sh1, pend := none, old := none
                      allot := (s.key n).allot }

/-- A mask for a slot other than 0, whose source the spec does not give (log 8). -/
def State.newMask (s : State) : State × BitVec 512 := ({ s with fresh := s.fresh + 1 }, Config.shareMask s.fresh)

/-- A slot takes a key under a fresh mask. -/
def State.fillSlot (s : State) (n : BitVec 8) (k : KeySlot) (key : List Byte) : State :=
  let (s1, m) := s.newMask
  s1.putKey n k key m

/-- A slot made EMPTY, both shares zeroised; its allotment stays. An overlap window of the slot ends first, so that its node
takes the new label (R323). -/
def State.emptySlot (s : State) (n : BitVec 8) : State :=
  (s.endWindow n).setKey n { KeySlot.reset with allot := (s.key n).allot }

/-- Two shares under a further mask: the key stands (R313). -/
def Masked.remask (m : Masked) (r : BitVec 512) : Masked := { sh0 := m.sh0 ^^^ r, sh1 := m.sh1 ^^^ r }

/-- A slot under a further mask, with its pending and its old key. -/
def KeySlot.remask (k : KeySlot) (r : BitVec 512) : KeySlot :=
  { k with sh0 := k.sh0 ^^^ r, sh1 := k.sh1 ^^^ r, pend := k.pend.map (fun p => (p.1.remask r, p.2))
           old := k.old.map (fun p => (p.1.remask r, p.2)) }

end Sys2Proof.Machine
end

