-- ==== Sys2Proof/Machine/Hbm.lean ====
section
/-!
DEFINITION. What the HBM stacks hold behind the plain bytes of the state: the ciphertext of each line (R218), the MACs of
blocks and of the lines of the freshness tree (R218, R219), under the keys that the controllers hold (R310), and what a scrub
writes (R229, R231). The stored MAC of an item is that of its contents, but for the difference that State.macErr holds.
-/

namespace Sys2Proof.Machine

/-! ### Keys (R310) -/

/-- The MEMCRYPT key of a slot that the controllers hold: while the slot is VALID, until it is revoked. -/
def State.heldKey (s : State) (n : Nat) : Option (List Byte) :=
  let k := s.key (BitVec.ofNat 8 n)
  if k.st = .valid ∧ k.mask.getLsbD mbMemcrypt then some (k.bytesOf k.key) else none

/-- The owner of the HBM at an address: a partition, or none for the open region and for memory that is not assigned. -/
def State.hbmOwner (s : State) (a : Nat) : Option (BitVec 5) := (s.region (a / 0x200000)).bind (fun r => r.owner)

/-- The memory key at an address: of the owning partition, else the device's (R218). -/
def State.memoryKey (s : State) (a : Nat) : Option (List Byte) :=
  s.heldKey (match s.hbmOwner a with
    | some p => 16 + 2 * p.toNat
    | none => 1)

/-- The MAC key at an address: of the owning partition, else the device's (R218, R231). -/
def State.macKey (s : State) (a : Nat) : Option (List Byte) :=
  s.heldKey (match s.hbmOwner a with
    | some p => 17 + 2 * p.toNat
    | none => 2)

/-! ### Lines and blocks (R218) -/

/-- The physical page that holds a block. -/
def State.physPage (s : State) (key : Nat) : Nat := (s.stack (key / 2 ^ 27)).phys (key % 2 ^ 27 / 8192)

/-- The physical address of a block within its stack. -/
def State.physBlock (s : State) (key : Nat) : Nat := s.physPage key * 0x200000 + key % 8192 * 256

/-- The epoch E of the page that holds a block. -/
def State.epochOf (s : State) (key : Nat) : BitVec 32 :=
  sget (fun _ => (0 : BitVec 32)) (s.stack (key / 2 ^ 27)).epoch (s.physPage key)

/-- The tweak of a line: its physical address, V0 and E. -/
def lineTweak (addr : Nat) (v0 e : BitVec 32) : BitVec 128 := e ++ v0 ++ BitVec.ofNat 64 addr

/-- What the stack holds of a block of plain bytes under a memory key: its four lines, encrypted. -/
def State.cipherBlock (s : State) (memKey : List Byte) (key : Nat) (plain : List Byte) : List Byte :=
  (List.range 4).flatMap (fun i =>
    Crypto.xtsLine memKey (Config.tweakKey memKey)
      (lineTweak (s.physBlock key + 64 * i) (sget (fun _ => 0) s.v0 key) (s.epochOf key)) ((plain.drop (64 * i)).take 64))

/-- The first 64 bits of KMAC256 under a MAC key (R218). The output length that the function takes in is 64 bits (DESIGN CHOICE,
log 106; log 103: the widths of what it covers). -/
def hbmMac (macKey m : List Byte) : BitVec 64 :=
  BitVec.ofNat 64 (Crypto.leNat (Crypto.kmac256 macKey m (Crypto.ascii "W880 HBM") 8))

/-- The MAC of a block: over its physical address, E, V0 and its ciphertext. -/
def State.blockMac (s : State) (macKey : List Byte) (key : Nat) (cipher : List Byte) : BitVec 64 :=
  hbmMac macKey (Crypto.leBytes 8 (s.physBlock key) ++ Crypto.leBytes 4 (s.epochOf key).toNat ++
    Crypto.leBytes 4 (s.ver0 key) ++ cipher)

/-! ### The freshness tree (R219) -/

/-- The contents of the L0 line over a block: sixteen V0. -/
def State.l0Line (s : State) (key : Nat) : List Byte :=
  (List.range 16).flatMap (fun i => Crypto.leBytes 4 (s.ver0 (key / 16 * 16 + i)))

/-- The version V1 of the L0 line over a block. -/
def State.ver1 (s : State) (key : Nat) : Nat :=
  (sget (fun _ => (0 : BitVec 32)) (s.stack (key / 2 ^ 27)).v1 (key % 2 ^ 27 / 16)).toNat

/-- The contents of the L1 line over a block: sixteen V1. -/
def State.l1Line (s : State) (key : Nat) : List Byte :=
  (List.range 16).flatMap (fun i => Crypto.leBytes 4 (s.ver1 (key / 256 * 256 + 16 * i)))

/-- The version V2 of the L1 line over a block. -/
def State.ver2 (s : State) (key : Nat) : Nat :=
  (sget (fun _ => (0 : BitVec 32)) (s.stack (key / 2 ^ 27)).v2 (key % 2 ^ 27 / 256)).toNat

/-- The MAC of the line of a level over a block: over its address, E, the version above it and its contents. -/
def State.lineMac (s : State) (macKey : List Byte) (level key : Nat) : BitVec 64 :=
  hbmMac macKey (Crypto.leBytes 8 (Config.treeAddress level (key / 16 ^ level)) ++
    Crypto.leBytes 4 (s.epochOf key).toNat ++ Crypto.leBytes 4 (if level = 1 then s.ver1 key else s.ver2 key) ++
    (if level = 1 then s.l0Line key else s.l1Line key))

/-- The MAC that an item's contents have: of a block (level 0) or of a line of the tree (level 1 or 2). -/
def State.macOf (s : State) (memKey macKey : List Byte) (level key : Nat) (plain : List Byte) : BitVec 64 :=
  if level = 0 then s.blockMac macKey key (s.cipherBlock memKey key plain) else s.lineMac macKey level key

/-- The MAC that the stack stores of an item. -/
def State.storedMac (s : State) (memKey macKey : List Byte) (level key : Nat) (plain : List Byte) : BitVec 64 :=
  s.macOf memKey macKey level key plain ^^^ sget (fun _ => 0) s.macErr (macItem level key)

/-! ### Scrub (R229, R233) -/

/-- What a scrub writes over a line of a stack: 64 zero bytes encrypted under its key with V0 = 0, or plain zeros where it
has no key. -/
def scrubLine (key : Option (List Byte)) (addr : Nat) (e : BitVec 32) : List Byte :=
  match key with
  | some k => Crypto.xtsLine k (Config.tweakKey k) (lineTweak addr 0 e) (List.replicate 64 0)
  | none => List.replicate 64 0

/-! ### What happens from outside (R207, R223) -/

/-- An error of two bits poisons the line that holds it (R207): it is counted, its address reported (Tables 8.3, 8.4), and
RETRY of the unit counts one (Table 17.2). -/
def State.upsetLine (s : State) (addr : Nat) : State :=
  let a := addr / 64 * 64
  let bad := { s with badLines := sput (fun _ => false) s.badLines (a / 64) true }
  if s.lineBad a then s
  else match s.placeLocal a with
    | .press c _ => ((bad.bump (s.clusterPage c 1) 0x104 1).wr64 (s.clusterPage c 1) 0x110 a).countRetry 1
        ((s.physCluster c).getD 0)
    | .drawer k _ => (bad.bump (s.corePage k 0) 0x12C 1).countRetry 0 ((s.physCore k).getD 0)
    | _ => s

/-- What an AON cycle brings from outside the device's logic (log 104). -/
def State.upset (s : State) : Upset → State
  | .quiet => s
  | .line addr => s.upsetLine addr
  | .item n diff => { s with macErr := sput (fun _ => 0) s.macErr n diff }
  | .fec die lane =>
    if die < 4 ∧ lane < 34 ∧ (s.link die lane).up then s.bump (.die die tyJoist 0) 0x124 1 else s
  | .sensor site => if site < 36 ∧ s.power ≠ 2 then s.countRetry 5 site else s

end Sys2Proof.Machine
end

