-- ==== Sys2Proof/Machine/MemSys.lean ====
section
/-!
DEFINITION. The memory system's own work (chapter 08): the region map and its frames (R27, R28), scrub (R229 to
R233), page re-encryption (R221), page retirement (R225) and the write-back of corrected words (R207).
-/

namespace Sys2Proof.Machine

/-! ### Regions (R27, R28) -/

/-- Frames of 128 KiB that a stack has: 30 GiB. -/
def stackFrames : Nat := 245760

/-- The frames that regions hold on a stack. -/
def State.usedFrames (s : State) (st : Nat) : List Nat :=
  s.regions.flatMap (fun e => match e.2 with
    | none => []
    | some r => r.frames.flatMap (fun f =>
        if f.1 = st then (List.range (if r.near.isSome then 4 else 1)).map (fun i => f.2 + i) else []))

/-- The lowest run of n free frames of a stack (R27, log 20). -/
def State.freeRun (s : State) (st n : Nat) : Option Nat :=
  let used := s.usedFrames st
  ((0 :: used.map (fun u => u + 1)).filter (fun b =>
    b + n ≤ stackFrames && (List.range n).all (fun i => !used.contains (b + i)))).min?

/-- The stacks that serve a region: all sixteen, or the four of its home die. -/
def stacksOf (near : Option (BitVec 2)) : List Nat :=
  match near with
  | none => List.range 16
  | some h => (List.range 4).map (fun i => 4 * h.toNat + i)

/-- A region is in scrub (R230). -/
def State.inScrub (s : State) (r : Nat) : Bool := s.scrubs.any (fun x => x.regions.contains r)

/-- A region that is assigned to nobody and not in scrub. -/
def State.regionFree (s : State) (r : Nat) : Bool := r < 245760 && (s.regionRaw r).isNone && !s.inScrub r

/-- An item of HBM with a MAC lies in frames of a stack. -/
def inFrames (st base n item : Nat) : Bool :=
  let key := item % 2 ^ 31 * 16 ^ (item / 2 ^ 31)
  st * 2 ^ 27 + base * 512 ≤ key && key < st * 2 ^ 27 + (base + n) * 512

/-- The lines of the freshness tree over frames written anew, with their MACs (R231). -/
def State.rewriteTree (s : State) (st base n : Nat) : State :=
  { s with macErr := s.macErr.filter (fun e => e.1 / 2 ^ 31 = 0 || !inFrames st base n e.1) }

/-- A region assigned with the lowest free frames, all fresh, their tree rewritten under the owner's MAC key (R231); none
where the frames are not free. -/
def State.assignRegion (s : State) (r : Nat) (owner : Option (BitVec 5)) (near : Option (BitVec 2)) : Option State :=
  let n := if near.isSome then 4 else 1
  let fs := (stacksOf near).filterMap (fun st => (s.freeRun st n).map (fun b => (st, b)))
  if s.regionFree r ∧ fs.length = (stacksOf near).length then
    some ((fs.foldl (fun (t : State) f => t.rewriteTree f.1 f.2 n) s).setRegion r
      (some { owner := owner, near := near, frames := fs }))
  else none

/-- The lowest n free region numbers. -/
def State.freeRegions (s : State) (n : Nat) : List Nat :=
  let cands := (List.range (s.regions.length + n)).filter (fun r => s.regionFree r)
  cands.take n

/-- The lowest n free regions assigned to a partition in a mode; none where they do not fit. -/
def State.assignMany (s : State) (owner : BitVec 5) (near : Option (BitVec 2)) (n : Nat) : Option State :=
  let rs := s.freeRegions n
  if rs.length < n then none
  else rs.foldl (fun t r => t.bind (fun u => u.assignRegion r (some owner) near)) (some s)

/-! ### Scrub (R229 to R233) -/

/-- The stacks that a set of regions lies on. -/
def State.regionStacks (s : State) (rs : List Nat) : List Nat :=
  (List.range 16).filter (fun st => rs.any (fun r => match s.regionRaw r with
    | some x => x.frames.any (fun f => f.1 = st)
    | none => false))

/-- Slot 9 holds the key of the running scrub that drew one last; without one it is EMPTY (Table 11.2, R229). -/
def State.scrubSlot (s : State) : State :=
  match (s.scrubs.filterMap Scrub.key).getLast? with
  | some k => s.fillSlot 9 { KeySlot.reset with origin := 3, mask := 1, dev := true } k
  | none => s.emptySlot 9

/-- A scrub of regions starts: its key is drawn, else it writes plain zeros (R229, R233). -/
def State.startScrub (s : State) (rs : List Nat) (pid : Option (BitVec 5)) : State :=
  let (s1, st, b) := s.drawInternal 4 32
  let s2 := (s.regionStacks rs).foldl (fun (t : State) n =>
    t.setFld (hbmcPage n) 0x124 0 2 (if st = stOk then 1 else 3)) s1
  let x : Scrub := { regions := rs, pid := pid, key := if st = stOk then some b else none }
  State.scrubSlot { s2 with scrubs := s2.scrubs ++ [x] }

/-- The blocks of frames of a stack made fresh: V0, V1 and V2 zero, no block poisoned (R231). -/
def State.freshFrames (s : State) (st base n : Nat) : State :=
  let lo := st * 2 ^ 27 + base * 512
  let hi := lo + n * 512
  let out := fun (k : Nat) => k < lo || hi ≤ k
  let x := s.stack st
  let s1 := { s with v0 := s.v0.filter (fun e => out e.1), macErr := s.macErr.filter (fun e => !inFrames st base n e.1) }
  s1.setStack st { x with
    v1 := x.v1.filter (fun e => out (st * 2 ^ 27 + e.1 * 16))
    v2 := x.v2.filter (fun e => out (st * 2 ^ 27 + e.1 * 256)) }

/-- A region's contents destroyed and the region unassigned. -/
def State.wipeRegion (s : State) (r : Nat) : State :=
  match s.regionRaw r with
  | none => s
  | some x =>
    let n := if x.near.isSome then 4 else 1
    let s1 := x.frames.foldl (fun (t : State) f => t.freshFrames f.1 f.2 n) (s.clearBytes (r * 0x200000) 0x200000)
    s1.setRegion r none

/-- The end of a scrub: its key is destroyed, its regions are fresh and unassigned, SCRUB_DONE is raised on their stacks, and ACTIVE
clears where no other scrub writes (R231, R235). -/
def State.endScrub (s : State) (idx : Nat) : State :=
  match s.scrubs[idx]? with
  | none => s
  | some sc =>
    let sts := s.regionStacks sc.regions
    let s1 := sc.regions.foldl (fun (t : State) r => t.wipeRegion r)
      (State.scrubSlot { s with scrubs := s.scrubs.eraseIdx idx })
    let busy := s1.regionStacks (s1.scrubs.flatMap Scrub.regions)
    sts.foldl (fun (t : State) n =>
      (if busy.contains n then t else t.setFld (hbmcPage n) 0x124 0 1 0).raise (hbmcPage n) 3) s1

/-! ### The rows -/

/-- PAGE_REENCRYPT (R221): a block's version is one write from its end, and its page takes a new epoch. -/
def execPageReencrypt (addr : BitVec 40) (s : State) : Out :=
  match s.blockKey addr.toNat with
  | some key => if s.versionsFull key then .next (s.reencrypt key) else .next s
  | none => .next s

/-- PAGE_RETIRE (R225): a logical page whose failure count has reached 4 moves to a pool page. -/
def execPageRetire (stack : BitVec 4) (lpage : Nat) (s : State) : Out :=
  if 4 ≤ (sget (fun _ => (0 : Nat)) (s.stack stack.toNat).fails lpage) then .next (s.retirePage stack.toNat lpage)
  else .next s

/-- ECC_WRITEBACK (R207, R434): a corrected word of Press or Drawer is counted; its data stand as they were read. -/
def execEccWriteback (addr : BitVec 40) (s : State) : Out :=
  match s.placeLocal addr.toNat with
  | .press c _ => .next ((s.bump (s.clusterPage c 1) 0x100 1).countCe 1 ((s.physCluster c).getD 0))
  | .drawer k _ => .next ((s.bump (s.corePage k 0) 0x128 1).countCe 0 ((s.physCore k).getD 0))
  | _ => .next s

end Sys2Proof.Machine
end

