-- ==== Sys2Proof/Machine/Smooth.lean ====
section
/-!
DEFINITION. The functions that the spec bounds to 2 units in the last place: GELU and SiLU (R122) and softmax (R193). The
true value is worked out in fixed point with 512 bits of fraction; of the FP32 values within the bound the model leaves
free which one the device gives.
-/

namespace Sys2Proof.Machine

/-- One in the fixed point of this file. -/
def fixOne : Nat := 2 ^ 512

/-- Far past the exponents of FP32: e^(−300) is below every FP32 value. -/
def expCap : Nat := 300 * fixOne

/-- A value not below zero, m × 2^e / den, in fixed point, at most 300. -/
def toFix (m den : Nat) (e : Int) : Nat :=
  min expCap (if 0 ≤ e then m * 2 ^ min e.toNat 600 * fixOne / den else m * fixOne / (den * 2 ^ min (-e).toNat 2000))

/-- The series of e^(−r) for r below one, by Horner's rule: 1 − r (1 − r/2 (1 − r/3 …)). -/
def expSeries (r : Nat) : Nat :=
  (List.range 96).foldl (fun acc i => fixOne - r * acc / ((96 - i) * fixOne)) fixOne

/-- e^(−t) in fixed point: the series at t / 512, squared nine times. -/
def expNeg (t : Nat) : Nat := (List.range 9).foldl (fun a _ => a * a / fixOne) (expSeries (t / 512))

/-- The exponent of the last place of FP32 at num / den × 2^e. -/
def lastPlace (num den : Nat) (e : Int) : Int :=
  if num = 0 then -149
  else
    let l : Int := (Nat.log2 num : Int) - Nat.log2 den
    let below : Bool := if 0 ≤ l then decide (num < den * 2 ^ l.toNat) else decide (num * 2 ^ (-l).toNat < den)
    max ((if below then l - 1 else l) + e - 23) (-149)

/-- A value within two last places of ± num / den × 2^e. -/
def within2 (neg : Bool) (num den : Nat) (e : Int) : FV → Bool
  | .fin cn cm ce =>
    let u := lastPlace num den e + 1
    let b := min ce (min e u)
    let c := atExp cn cm ce b * (den : Int)
    let r := atExp neg num e b
    (c - r).natAbs ≤ den * 2 ^ (u - b).toNat
  | _ => false

/-- An FP32 value within two last places of ± num / den × 2^e: the one proposed where it is, else the next one toward
zero. -/
def bounded (proposed : BitVec 32) (neg : Bool) (num den : Nat) (e : Int) : BitVec 32 :=
  if within2 neg num den e (fp32 proposed) then proposed
  else
    let u := lastPlace num den e
    let q := if u ≤ e then num * 2 ^ (e - u).toNat / den else num / (den * 2 ^ (u - e).toNat)
    toFp32Ieee (.fin neg q u)

/-- x / (1 + e^(−y)) for x = ± m × 2^e, and y of the same sign with |y| in fixed point (R122). -/
def logistic (proposed : BitVec 32) (neg : Bool) (m : Nat) (e : Int) (y : Nat) : BitVec 32 :=
  let x := expNeg y
  bounded proposed neg (m * (if neg then x else fixOne)) (fixOne + x) e

/-- SiLU of FP32 bits (R122): x / (1 + e^(−x)). -/
def siluBits (v : BitVec 32) : BitVec 32 :=
  match fp32 v with
  | .fin neg m e => logistic (Config.silu v) neg m e (toFix m 1 e)
  | _ => v

/-- 2 × 0.7978845608 (x + 0.044715 x³) of |x| = m × 2^e in fixed point: the y for which GELU is x / (1 + e^(−y)), since
0.5 (1 + tanh u) = 1 / (1 + e^(−2u)) (R122). -/
def geluArg (m : Nat) (e : Int) : Nat :=
  let k := 2 * 7978845608
  min expCap (toFix (m * k) (10 ^ 10) e + toFix (m * m * m * k * 44715) (10 ^ 16) (3 * e))

/-- GELU of FP32 bits (R122). -/
def geluBits (v : BitVec 32) : BitVec 32 :=
  match fp32 v with
  | .fin neg m e => logistic (Config.gelu v) neg m e (geluArg m e)
  | _ => v

/-- The finite values of a list of FP32 words. -/
def finites (vs : List (BitVec 32)) : List (Bool × Nat × Int) :=
  vs.filterMap (fun v => match fp32 v with
    | .fin n m e => some (n, m, e)
    | _ => none)

/-- A score that softmax gives a meaning beside a finite one: finite, or −∞, whose weight is 0. -/
def softScore (v : BitVec 32) : Bool :=
  match fp32 v with
  | .fin _ _ _ => true
  | .inf neg => neg
  | .nan => false

/-- Softmax of FP32 scores (R193): e^(s_i − s_max) over the sum of these, with 0 for a score of −∞. Of scores with a +∞ among
them, or none finite, the spec states no weights (log 18). -/
def softmaxBits (vs : List (BitVec 32)) : List (BitVec 32) :=
  let fs := finites vs
  if fs.isEmpty ∨ ¬ vs.all softScore then (List.range vs.length).map (fun i => Config.softmax vs i)
  else
    let b := fs.foldl (fun (a : Int) x => min a x.2.2) 0
    let ns := vs.map (fun v => match fp32 v with
      | .fin n m e => some (atExp n m e b)
      | _ => none)
    let tops := ns.filterMap id
    let top := tops.foldl max (tops.headD 0)
    let es := ns.map (fun n => match n with
      | some x => expNeg (toFix (top - x).toNat 1 b)
      | none => 0)
    (es.zipIdx).map (fun x => bounded (Config.softmax vs x.2) false x.1 es.sum 0)

end Sys2Proof.Machine
end

