-- ==== Sys2Proof/Machine/Mxe.lean ====
section
/-!
DEFINITION. The matrix engine and the Tally (chapter 04): slots (R103 to R105), accumulation (R106 to R108),
OPEN, MMA, SMMA (R110 to R116), EXPORT and IMPORT (R117, R118), DRAIN (R119 to R124), and the order of the
array and the drain unit over slots (R125).
-/

namespace Sys2Proof.Machine

/-! ### Slots -/

/-- Units of a slot by mode (Table 4.2). -/
def modeUnits (m : Nat) : Nat := if m = 2 then 2 else if m = 3 then 4 else 1

/-- The slot that starts at a unit. -/
def CoreSt.slot (c : CoreSt) (u : Nat) : Option Slot := sget (fun _ => none) c.tally u

/-- A slot replaced. -/
def CoreSt.setSlot (c : CoreSt) (u : Nat) (x : Option Slot) : CoreSt :=
  { c with tally := sput (fun _ => none) c.tally u x }

/-- The first unit of the slot that holds a unit. -/
def CoreSt.slotBase (c : CoreSt) (u : Nat) : Option Nat :=
  (List.range 4).findSome? (fun i =>
    if i ≤ u then
      match c.slot (u - i) with
      | some x => if i < modeUnits x.mode.toNat then some (u - i) else none
      | none => none
    else none)

/-- The units that a command naming an index covers (R125). -/
def CoreSt.cover (c : CoreSt) (opn : Bool) (idx mode : Nat) : List Nat :=
  let span := fun (u : Nat) => match c.slotBase u with
    | some b => (List.range (modeUnits (((c.slot b).map (fun x => x.mode.toNat)).getD 0))).map (fun i => b + i)
    | none => [u]
  if opn then ((List.range (modeUnits mode)).map (fun i => idx + i)).flatMap (fun u => u :: span u) else span idx

/-- An element of a slot. -/
def Slot.at (x : Slot) (i j : Nat) : Elem := sget (fun _ => Elem.zero) x.elems (32 * i + j)

/-- An element of a slot replaced. -/
def Slot.set (x : Slot) (i j : Nat) (e : Elem) : Slot :=
  { x with elems := sput (fun _ => Elem.zero) x.elems (32 * i + j) e }

/-- The signed value of an INT32 element. -/
def Elem.int32 (e : Elem) : Int := toSigned 32 e.n.toNat

/-- The exact value of an FP32 element. -/
def Elem.fp (e : Elem) : FV := decodeElem 0 (e.n.toNat % 2 ^ 32)

/-! ### The queue order of the two units (R125) -/

/-- Opcodes of the array, of the drain unit (Table 4.3). -/
def mxeArray (op : Nat) : Bool := op = 0x01 || op = 0x10 || op = 0x11 || op = 0x21
def mxeDrain (op : Nat) : Bool := op = 0x20 || op = 0x30
def mxeValid (op : Nat) : Bool := mxeArray op || mxeDrain op

/-- What a waiting entry covers. -/
def State.mxeCover (s : State) (k : Nat) (x : EngEntry) : List Nat :=
  let d := s.peekDesc k x
  (s.core k).cover (d.n 0 1 = 0x01) (d.bits 8 0 7) (d.bits 9 0 2)

/-- The entry that a unit takes next: its first waiting entry, or an earlier one no unit has (an invalid opcode),
held while an earlier waiting entry of the other unit covers a unit of its slot. -/
def State.mxePick (s : State) (k : Nat) (unit : Nat → Bool) : Option (Nat × EngEntry) :=
  let q := (s.core k).mxeQ
  let waiting := q.zipIdx.filter (fun p => p.1.status.isNone)
  match waiting.find? (fun p => let op := (s.peekDesc k p.1).n 0 1; unit op || !mxeValid op) with
  | none => none
  | some (x, i) =>
    let c := s.mxeCover k x
    if waiting.any (fun p => p.2 < i && (s.mxeCover k p.1).any (fun u => c.contains u)) then none else some (i, x)

/-- One MXE command as the row of an opcode. -/
def mxeCmd (k : Nat) (op : Nat) (body : Agent → EngEntry → Desc → State → Ran) (s : State) : State :=
  if ¬ s.engReady k then s
  else match s.mxePick k (if mxeArray op then mxeArray else mxeDrain) with
    | none => s
    | some (i, x) => engineCmd k .mxe i x mxeValid op stOperand (fun _ => false) body s

/-! ### OPEN (R105, R110) -/

/-- OPEN closes every slot it overlaps and opens the named one, all zero. -/
def CoreSt.openSlot (c : CoreSt) (idx mode : Nat) (w : Int) : CoreSt :=
  let closed := ((List.range (modeUnits mode)).filterMap (fun i => c.slotBase (idx + i))).foldl
    (fun c b => c.setSlot b none) c
  closed.setSlot idx (some { mode := BitVec.ofNat 2 mode, poisoned := false, sat := false,
                             w := if mode = 3 then w else 0, elems := [] })

/-- OPEN (0x01): checks 1, 2 and the alignment part of 3 (R476). -/
def bodyOpen (k : Nat) (_g : Agent) (_x : EngEntry) (d : Desc) (s : State) : Ran :=
  let idx := d.bits 8 0 7
  let mode := d.bits 9 0 2
  let w := toSigned 16 (d.n 10 2)
  let st := firstFail [
    (mode ≠ 3 || windowOk w, stFormat),
    (d.headOk && !d.skip && d.bits 8 7 1 = 0 && d.bits 9 2 6 = 0 && d.zero 12 52, stOperand),
    (idx % modeUnits mode = 0, stSlot)]
  if st ≠ stOk then fail s st
  else (s.setCore k ((s.core k).openSlot idx mode w), stOk, none)

/-! ### MMA and SMMA (R111 to R116) -/

/-- K_t and the accumulation modes of an operand pair (Table 4.1). -/
def pairOf (a b : Nat) : Option (Nat × List Nat) :=
  let e8 := fun x => x = 3 || x = 4
  if e8 a && e8 b then some (32, [0, 3])
  else if a = 5 ∧ b = 5 then some (32, [0, 3])
  else if a = 6 ∧ (b = 6 ∨ b = 7) then some (32, [1, 2, 3])
  else if a = 7 ∧ b = 7 then some (64, [1, 2, 3])
  else if (a = 2 ∧ b = 2) ∨ (a = 1 ∧ b = 1) then some (16, [0, 3])
  else if a = 0 ∧ b = 0 then some (4, [0, 3])
  else if a = 9 ∧ b = 9 then some (4, [2])
  else none

/-- One product of operands, as the exact value and as the integer of the Z64 rule (R106). -/
structure Prod where
  v : FV
  z : Int
deriving DecidableEq, Repr

/-- The exact value of an element: of FP, microscaled or integer formats; Z32 is unsigned. -/
def mmaValue (code scale v : Nat) : FV :=
  if code = 5 then decodeMx scale v else if code = 9 then .fin false v 0 else decodeElem code v

/-- The integer of an element for Z64 accumulation. -/
def mmaInt (code v : Nat) : Int :=
  if code = 6 then toSigned 8 v else if code = 7 then toSigned 4 v else (v : Int)

/-- A step's products added into one element (R106, R107). DESIGN CHOICE: within a step of an EWA slot the products enter
in order of increasing k; the spec gives no order, and it matters only where N passes the 136-bit range (R57, log 100). -/
def Elem.addStep (mode : Nat) (w : Int) (e : Elem) (ps : List Prod) : Elem × Bool :=
  match mode with
  | 0 =>
    let sum := ps.foldl (fun (a : FV) p => a.add p.v) (FV.fin false 0 0)
    match sum with
    | .fin _ 0 _ => (e, false)
    | x => ({ n := (toFp32Ieee (e.fp.add x)).zeroExtend 136, flags := 0 }, false)
  | 1 =>
    let (x, sat) := saturate (-2 ^ 31) (2 ^ 31 - 1) (e.int32 + (ps.map Prod.z).sum)
    ({ n := BitVec.ofNat 136 (ofSigned 32 x), flags := 0 }, sat)
  | 2 =>
    ({ n := BitVec.ofNat 136 (ofSigned 64 (e.n.toNat + (ps.map Prod.z).sum)), flags := 0 }, false)
  | _ => (ps.foldl (fun a p => a.addFV w p.v) e, false)

/-- The operands of a multiply. -/
structure Mul where
  m    : Nat
  kk   : Nat
  kt   : Nat
  af   : Nat
  bf   : Nat
  wsp  : Nat
  abm  : Bool
  a    : Nat
  b    : Nat
  ast  : Nat
  bst  : Nat
  asc  : Nat
  bsc  : Nat
deriving DecidableEq, Repr

/-- Dense-equivalent values of k in one step (R115). -/
def Mul.depth (x : Mul) : Nat := if x.wsp = 0 then x.kt else 2 * x.kt

/-- Rows of B as stored (R114). -/
def Mul.brows (x : Mul) (k : Nat) : Nat := if x.wsp = 0 then k else if x.wsp = 1 then k / 2 else k / 4

/-- Metadata bytes of k values (R114). -/
def Mul.meta (x : Mul) (k : Nat) : Nat := if x.wsp = 1 then k / 4 * 16 else if x.wsp = 2 then k / 4 * 8 else 0

/-- The ranges that a multiply reads (R19). -/
def Mul.ranges (x : Mul) : List (Nat × Nat) :=
  (List.range x.m).map (fun i => (x.a + i * x.ast, elemBytes x.af x.kk)) ++
  (List.range (x.brows x.kk)).map (fun i => (x.b + i * x.bst, elemBytes x.bf 32)) ++
  (if x.af = 5 then [(x.asc, x.m * (x.kk / 32)), (x.bsc, x.kk)] else []) ++
  (if x.wsp = 0 then [] else [(x.asc, x.meta x.kk)]) ++
  (if x.abm then [(x.bsc, (x.m * (x.kk / 16) + 7) / 8)] else [])

/-- Activation bit of row i and 16-element block b (R116). -/
def bitAt (bs : List Byte) (n : Nat) : Bool := field (bs.getD (n / 8) 0).toNat (n % 8) 1 = 1

/-- The products of element (i, j) in the step that begins at k0, from the step's rows of A and B, the scale
rows, the metadata and the bitmap. A block of A declared zero is zero whatever its elements and its scale byte hold
(R116). -/
def Mul.products (x : Mul) (k0 : Nat) (ar br : List (List Byte)) (sa : List Byte) (sb md bm : List Byte)
    (i j : Nat) : List Prod :=
  let arow := ar.getD i []
  let gone := fun (o : Nat) => x.abm && !bitAt bm (i * (x.kk / 16) + (k0 + o) / 16)
  let av := fun (o : Nat) =>
    if gone o then 0 else elemAt x.af arow o
  let bv := fun (r : Nat) => elemAt x.bf (br.getD r []) j
  let one := fun (o r : Nat) =>
    let a := av o
    let b := bv r
    ({ v := (mmaValue x.af (if gone o then 127 else (sa.getD i 0).toNat) a).mul (mmaValue x.bf (sb.getD j 0).toNat b)
       z := mmaInt x.af a * mmaInt x.bf b } : Prod)
  if x.wsp = 0 then (List.range x.kt).map (fun o => one o o)
  else (List.range (x.depth / 4)).flatMap (fun g =>
    let f := g * 32 + j
    if x.wsp = 1 then
      let nib := field (md.getD (f / 2) 0).toNat (4 * (f % 2)) 4
      [one (4 * g + nib % 4) (2 * g), one (4 * g + nib / 4) (2 * g + 1)]
    else [one (4 * g + field (md.getD (f / 4) 0).toNat (2 * (f % 4)) 2) g])

/-- The step at k0 is skipped: its blocks are declared zero in all rows (R116). -/
def Mul.stepZero (x : Mul) (k0 : Nat) (bm : List Byte) : Bool :=
  x.abm && (List.range x.m).all (fun i =>
    (List.range (x.depth / 16 + 1)).all (fun b =>
      !(16 * b < x.depth) || !bitAt bm (i * (x.kk / 16) + (k0 + 16 * b) / 16)))

/-- The ranges of the step at k0: rows of A, rows of B, then scales and metadata. -/
def Mul.stepRanges (x : Mul) (k0 : Nat) : List (Nat × Nat) :=
  (List.range x.m).map (fun i => (x.a + i * x.ast + elemBytes x.af k0, elemBytes x.af x.depth)) ++
  (List.range (x.brows x.depth)).map (fun r => (x.b + (x.brows k0 + r) * x.bst, elemBytes x.bf 32)) ++
  (if x.af = 5 then
    (List.range x.m).map (fun i => (x.asc + i * (x.kk / 32) + k0 / 32, 1)) ++ [(x.bsc + k0, 32)]
   else if x.wsp = 0 then [] else [(x.asc + x.meta k0, x.meta x.depth)])

/-- One step into a slot: every element of rows below M. -/
def Mul.runStep (x : Mul) (k0 : Nat) (rs : List (List Byte)) (bm : List Byte) (sl : Slot) : Slot :=
  let ar := rs.take x.m
  let nb := x.brows x.depth
  let br := (rs.drop x.m).take nb
  let tail := rs.drop (x.m + nb)
  let sa := if x.af = 5 then (tail.take x.m).flatten else []
  let sb := if x.af = 5 then (tail.drop x.m).flatten else []
  let md := if x.af = 5 then [] else tail.flatten
  (List.range x.m).foldl (fun sl i =>
    (List.range 32).foldl (fun sl j =>
      let (e, sat) := (sl.at i j).addStep sl.mode.toNat sl.w (x.products k0 ar br sa sb md bm i j)
      { sl.set i j e with sat := sl.sat || sat }) sl) sl

/-- The steps of a multiply; a poisoned operand stops it and poisons the slot (R113). -/
def Mul.run (x : Mul) (g : Agent) (bm : List Byte) : List Nat → State → Slot → State × Status × Slot
  | [], s, sl => (s, stOk, sl)
  | n :: ns, s, sl =>
    let k0 := n * x.depth
    if x.stepZero k0 bm then x.run g bm ns s sl
    else
      let (s1, st, rs) := s.readAll g (x.stepRanges k0)
      if st = stIntegrity then (s1, st, { sl with poisoned := true })
      else if st ≠ stOk then (s1, st, sl)
      else x.run g bm ns s1 (x.runStep k0 rs bm sl)

/-- The slot checks 3 and 5 of R476: the first unit of a slot, in an allowed mode, not poisoned. -/
def slotCheck (c : CoreSt) (idx : Nat) (modeOk : Nat → Bool) : Status :=
  match c.slot idx with
  | none => stSlot
  | some x => if ¬ modeOk x.mode.toNat then stOperand else if x.poisoned then stIntegrity else stOk

/-- The operands of a descriptor (Table 4.4). -/
def mulOf (d : Desc) (sparse : Bool) (kt : Nat) : Mul :=
  { m := d.bits 10 0 5 + 1, kk := d.n 12 4, kt := kt, af := d.bits 9 0 4, bf := d.bits 9 4 4,
    wsp := if sparse then d.bits 11 0 2 else 0, abm := sparse && d.bits 11 2 1 = 1,
    a := d.n 16 8, b := d.n 24 8, ast := d.n 32 4, bst := d.n 36 4, asc := d.n 40 8, bsc := d.n 48 8 }

/-- The shape checks of a multiply (R102, R112). -/
def mulOk (d : Desc) (sparse : Bool) (x : Mul) : Bool :=
  d.headOk && d.bits 8 7 1 = 0 && d.bits 10 5 3 = 0 &&
  (if sparse then d.bits 11 3 5 = 0 else d.bits 11 0 8 = 0) &&
  1 ≤ x.kk && x.kk ≤ 2 ^ 24 && x.kk % x.depth = 0 && x.wsp ≠ 3 &&
  !(x.wsp ≠ 0 && (x.af = 5 || x.af = 9)) && !(x.abm && x.kk % 16 ≠ 0) &&
  elemBytes x.af x.kk ≤ x.ast && elemBytes x.bf 32 ≤ x.bst &&
  (!d.skip || summaryOk (d.n 56 8))

/-- MMA and SMMA: checks 2 to 5 and SKIP in the order of R476, the ranges, then the steps. Where Table 4.4 gives bytes 48 to 55 to
B's scales and to the bitmap alike (SMMA in MXFP8 with ABM set), both are read at that one address (DESIGN CHOICE, log 106). -/
def bodyMul (k : Nat) (sparse : Bool) (g : Agent) (_x : EngEntry) (d : Desc) (s : State) : Ran :=
  let af := d.bits 9 0 4
  let bf := d.bits 9 4 4
  let idx := d.bits 8 0 7
  if 12 ≤ af ∨ 12 ≤ bf then fail s stFormat
  else match pairOf af bf with
    | none => fail s stOperand
    | some (kt, modes) =>
      let x := mulOf d sparse kt
      if ¬ mulOk d sparse x then fail s stOperand
      else
        let st := slotCheck (s.core k) idx (fun m => modes.contains m)
        if st ≠ stOk then fail s st
        else withSkip g k d 0x120 s (fun s =>
          let chk := s.checkRanges g (x.ranges.map (fun r => (false, r.1, r.2)))
          if chk ≠ stOk then fail s chk
          else match (s.core k).slot idx with
            | none => fail s stSlot
            | some sl =>
              let (s1, st1, bm) := if x.abm then s.memRead g x.bsc ((x.m * (x.kk / 16) + 7) / 8)
                else (s, stOk, [])
              if st1 ≠ stOk then
                (s1.setCore k ((s1.core k).setSlot idx (some { sl with poisoned := st1 = stIntegrity })), st1, none)
              else
                let (s2, st2, sl2) := x.run g bm (List.range (x.kk / x.depth)) s1 sl
                (s2.setCore k ((s2.core k).setSlot idx (some sl2)), st2, none))

/-! ### EXPORT and IMPORT (R117, R118) -/

/-- The bytes of a stored element in modes other than EWA. -/
def elemSize (mode : Nat) : Nat := if mode = 2 then 8 else 4

/-- The ranges of a tile in memory: 1,024 partials, or 32 rows. -/
def tileRanges (mode addr stride n : Nat) : List (Nat × Nat) :=
  if mode = 3 then (List.range 1024).map (fun e => (addr + e * 32, n))
  else (List.range 32).map (fun i => (addr + i * stride, 32 * elemSize mode))

/-- The bytes that EXPORT writes. -/
def Slot.exportBytes (x : Slot) (addr stride : Nat) : List (Nat × List Byte) :=
  if x.mode = 3 then
    (List.range 1024).map (fun e => (addr + e * 32, (LForm.mk (x.at (e / 32) (e % 32)) x.w).toBytes))
  else (List.range 32).map (fun i =>
    (addr + i * stride, ((List.range 32).map (fun j =>
      Crypto.leBytes (elemSize x.mode.toNat) (x.at i j).n.toNat)).flatten))

/-- The field checks of EXPORT and IMPORT. -/
def tileOk (d : Desc) (add : Bool) : Bool :=
  d.headOk && !d.skip && d.bits 8 7 1 = 0 && d.bits 9 (if add then 1 else 0) (if add then 7 else 8) = 0 &&
  d.zero 10 6 && d.zero 28 36

/-- EXPORT (0x20): writes the slot unchanged, which stays OPEN. DESIGN CHOICE: the alignment of an EWA MEM_ADDR (R61), which
R476 does not place, is checked after the slot and before the ranges, as R473 has alignment before ranges (log 100). -/
def bodyExport (k : Nat) (g : Agent) (_x : EngEntry) (d : Desc) (s : State) : Ran :=
  let idx := d.bits 8 0 7
  if ¬ tileOk d false then fail s stOperand
  else
    let st := slotCheck (s.core k) idx (fun _ => true)
    match (s.core k).slot idx with
    | none => fail s stSlot
    | some sl =>
      let m := sl.mode.toNat
      let addr := d.n 16 8
      let stride := d.n 24 4
      if st ≠ stOk then fail s st
      else if m = 3 ∧ addr % 32 ≠ 0 then fail s stFormat
      else
        let rs := tileRanges m addr stride 20
        let chk := s.checkRanges g (rs.map (fun r => (true, r.1, r.2)))
        if chk ≠ stOk then fail s chk
        else
          let (s1, st1) := s.wicketAll g rs
          if st1 ≠ stOk then fail s1 st1
          else
            let (s2, st2) := s1.writeAll g (sl.exportBytes addr stride)
            (s2, st2, none)

/-- One element of an IMPORT, replacing or adding (R118). -/
def importElem (mode : Nat) (add : Bool) (e : Elem) (bs : List Byte) : Elem × Bool :=
  let v := Crypto.leNat bs
  if mode = 3 then
    let p := (lfOfBytes bs).elem
    (if add then e.addElem p else p, false)
  else if ¬ add then ({ n := BitVec.ofNat 136 v, flags := 0 }, false)
  else match mode with
    | 0 => ({ n := (toFp32Ieee (e.fp.add (decodeElem 0 v))).zeroExtend 136, flags := 0 }, false)
    | 1 =>
      let (x, sat) := saturate (-2 ^ 31) (2 ^ 31 - 1) (e.int32 + toSigned 32 v)
      ({ n := BitVec.ofNat 136 (ofSigned 32 x), flags := 0 }, sat)
    | _ => ({ n := BitVec.ofNat 136 ((e.n.toNat + v) % 2 ^ 64), flags := 0 }, false)

/-- The bytes of element (i, j) in what IMPORT read. -/
def importBytes (mode : Nat) (rs : List (List Byte)) (i j : Nat) : List Byte :=
  if mode = 3 then rs.getD (32 * i + j) []
  else ((rs.getD i []).drop (j * elemSize mode)).take (elemSize mode)

/-- IMPORT (0x21): reads and checks every element before it changes the slot. -/
def bodyImport (k : Nat) (g : Agent) (_x : EngEntry) (d : Desc) (s : State) : Ran :=
  let idx := d.bits 8 0 7
  let add := d.bits 9 0 1 = 1
  if ¬ tileOk d true then fail s stOperand
  else
    let st := slotCheck (s.core k) idx (fun _ => true)
    match (s.core k).slot idx with
    | none => fail s stSlot
    | some sl =>
      let m := sl.mode.toNat
      let addr := d.n 16 8
      if st ≠ stOk then fail s st
      else
        let rs := tileRanges m addr (d.n 24 4) 24
        let chk := s.checkRanges g (rs.map (fun r => (false, r.1, r.2)))
        if chk ≠ stOk then fail s chk
        else if m = 3 ∧ addr % 32 ≠ 0 then fail s stFormat
        else
          let (s1, st1, bs) := s.readAll g rs
          if st1 ≠ stOk then fail s1 st1
          else if m = 3 ∧ bs.any (fun b => !lfOk 0 (lfOfBytes b)) then fail s1 stFormat
          else if m = 3 ∧ bs.any (fun b => (lfOfBytes b).w ≠ sl.w) then fail s1 stWindow
          else
            let sl' := (List.range 1024).foldl (fun x e =>
              let (y, sat) := importElem m add (x.at (e / 32) (e % 32)) (importBytes m bs (e / 32) (e % 32))
              { x.set (e / 32) (e % 32) y with sat := x.sat || sat }) sl
            (s1.setCore k ((s1.core k).setSlot idx (some sl')), stOk, none)

/-! ### DRAIN (R119 to R124) -/

/-- Exact order of two values that are not NaN. -/
def FV.lt : FV → FV → Bool
  | .inf a, .inf b => a && !b
  | .inf a, _ => a
  | _, .inf b => !b
  | .fin a m e, .fin b n f => atExp a m e (min e f) < atExp b n f (min e f)
  | _, _ => false

/-- Clamping (R121): a NaN bound or value gives NaN. -/
def FV.clamp (v lo hi : FV) : FV :=
  if lo = .nan ∨ hi = .nan ∨ v = .nan then .nan
  else if v.lt lo then lo else if hi.lt v then hi else v

/-- ReLU (R121): +∞ stays, −∞ and values below zero become 0; a negative zero is not below zero and stays
(log 96). -/
def FV.relu (v : FV) : FV :=
  match v with
  | .nan => .nan
  | .inf neg => if neg then .fin false 0 0 else v
  | .fin neg m _ => if neg && m ≠ 0 then .fin false 0 0 else v

/-- An exact value as a number: its zero has no sign (log 96). -/
def FV.number : FV → FV
  | .fin neg m e => if m = 0 then .fin false 0 0 else .fin neg m e
  | v => v

/-- GELU and SiLU of the value rounded to FP32 (R122): NaN for NaN, and the limits at ±∞. DESIGN CHOICE: the limit at −∞
is a negative zero, the sign of the values that approach it; the spec states no sign (log 96). -/
def FV.smooth (f : BitVec 32 → BitVec 32) (v : FV) : FV :=
  match fp32 (toFp32Ieee v) with
  | .nan => .nan
  | .inf neg => if neg then .fin true 0 0 else .inf false
  | _ => fp32 (f (toFp32Ieee v))

/-- The options of a DRAIN (Table 4.5). -/
structure DrainOp where
  rnd   : Nat
  ofmt  : Nat
  act   : Nat
  bias  : Bool
  scale : Nat
  rows  : Nat
  frac  : Nat
  sval  : BitVec 32
  lo    : BitVec 32
  hi    : BitVec 32
deriving DecidableEq, Repr

/-- The fused steps of one element (R121): exact, or rounded to FP32 after scale and after bias. -/
def DrainOp.fuse (o : DrainOp) (fp : Bool) (sc bi : BitVec 32) (v : FV) : FV :=
  let r := fun (x : FV) => if fp then fp32 (toFp32Ieee x) else x.number
  let v1 := if o.scale = 0 then v else r (v.mul (fp32 (if o.scale = 1 then o.sval else sc)))
  let v2 := if o.bias then r (v1.add (fp32 bi)) else v1
  match o.act with
  | 1 => v2.relu
  | 2 => v2.smooth geluBits
  | 3 => v2.smooth siluBits
  | 4 => v2.clamp (fp32 o.lo) (fp32 o.hi)
  | _ => v2

/-- An element after rows 1 to 3 of Table 2.6 or the fused steps. -/
def DrainOp.elem (o : DrainOp) (sl : Slot) (sc bi : BitVec 32) (e : Elem) : Drained :=
  let fused := fun (v : FV) (inexact : Bool) => match o.fuse (sl.mode = 0) sc bi v with
    | .fin n m x => Drained.exact (.fin n m x) inexact
    | x => .nonfinite x
  match sl.mode.toNat with
  | 0 => fused e.fp false
  | 1 => fused (fvInt e.int32 0) false
  | _ =>
    match e.drained sl.w with
    | .exact v inexact => fused v inexact
    | x => x

/-- An element of an MXFP8 drain: the value that R49 encodes, and its status. -/
def mxValue : Drained → FV × Status
  | .nonfinite v => (v, stNonfinite)
  | .saturated neg => (.fin neg 7 133, stOverflow)
  | .exact v inexact =>
    match v with
    | .fin neg m e =>
      if magGt m e 7 133 then (.fin neg 7 133, stOverflow) else (v, if inexact then stInexact else stOk)
    | x => (x, stNonfinite)

/-- One output row: its bytes, its scale byte under MXFP8, and its status. -/
def DrainOp.row (o : DrainOp) (sl : Slot) (sc bi : List (BitVec 32)) (draw : Nat → BitVec 32) (i : Nat) :
    List Byte × List Byte × Status :=
  let es := (List.range 32).map (fun j => (j, sl.at i j))
  if sl.mode = 2 then
    let rs := es.map (fun p =>
      if o.ofmt = 8 then dequantise 10 0 o.frac (p.2.n.toNat % 2 ^ 64) else (p.2.n.toNat % 2 ^ fmtBits o.ofmt, false))
    (packElems o.ofmt (rs.map Prod.fst), [], if rs.any Prod.snd then stOverflow else stOk)
  else
    let ds := es.map (fun p => (p.1, o.elem sl (sc.getD p.1 0) (bi.getD p.1 0) p.2))
    if o.ofmt = 5 then
      let vs := ds.map (fun p => (p.1, mxValue p.2))
      let x := mxScale (vs.map (fun p => p.2.1))
      let bs := vs.map (fun p => encodeMxElem x o.rnd (draw (32 * i + p.1)) p.2.1)
      (packElems 5 (bs.map Prod.fst), [BitVec.ofInt 8 (x + 127)],
        (vs.map (fun p => p.2.2) ++ bs.map Prod.snd).foldl worse stOk)
    else
      let bs := ds.map (fun p => p.2.encode o.ofmt o.rnd (draw (32 * i + p.1)))
      (packElems o.ofmt (bs.map Prod.fst), [], (bs.map Prod.snd).foldl worse stOk)

/-- The DRAIN options of a descriptor. -/
def drainOf (d : Desc) : DrainOp :=
  { rnd := d.bits 9 4 3, ofmt := d.bits 9 0 4, act := d.bits 10 3 3, bias := d.bits 10 2 1 = 1,
    scale := d.bits 10 0 2, rows := d.bits 12 0 5 + 1, frac := d.bits 13 0 6,
    sval := BitVec.ofNat 32 (d.n 28 4), lo := BitVec.ofNat 32 (d.n 48 4), hi := BitVec.ofNat 32 (d.n 52 4) }

/-- The target suits the slot's mode (R120). -/
def drainTarget (d : Desc) (mode : Nat) : Bool :=
  let f := d.bits 9 0 4
  if mode = 2 then (f = 8 || f = 9 || f = 10) && d.bits 10 0 6 = 0
  else f ≤ 8

/-- The field checks of DRAIN: reserved codes first, then the options (R120, R476). -/
def drainCheck (d : Desc) : Status :=
  let o := drainOf d
  firstFail [
    (o.ofmt < 12 && o.rnd < 5, stFormat),
    (d.headOk && !d.skip && d.bits 8 7 1 = 0 && d.bits 9 7 1 = 0 && d.bits 10 6 2 = 0 && d.bits 11 2 6 = 0 &&
     d.bits 12 5 3 = 0 && d.bits 13 6 2 = 0 && d.zero 14 2 &&
     o.act ≤ 4 && o.scale ≠ 3 && d.bits 11 0 2 ≠ 3 && o.frac ≤ 32 &&
     !(o.act = 4 && (fp32 o.hi).lt (fp32 o.lo) && fp32 o.hi ≠ .nan && fp32 o.lo ≠ .nan), stOperand)]

/-- The slot after a drain: closed, kept, or cleared (Table 4.5). -/
def afterDrain (d : Desc) (sl : Slot) : Option Slot :=
  if d.bits 11 0 2 = 1 then some sl
  else if d.bits 11 0 2 = 2 then some { sl with elems := [], sat := false }
  else none

/-- DRAIN (0x30). Under SR each element written takes one draw of the core's generator (R47). DESIGN CHOICE (log 100):
RNG_NOT_READY, which R476 does not list, is tested after the ranges and before the Wicket; and a DRAIN that a refused write
stops leaves its slot OPEN as it was, while the generator advances by all its elements (R124 states neither). -/
def bodyDrain (k : Nat) (g : Agent) (_x : EngEntry) (d : Desc) (s : State) : Ran :=
  let idx := d.bits 8 0 7
  let o := drainOf d
  let st := firstFail [(drainCheck d = stOk, drainCheck d),
    (slotCheck (s.core k) idx (drainTarget d) = stOk, slotCheck (s.core k) idx (drainTarget d))]
  match (s.core k).slot idx with
  | none => fail s (if drainCheck d ≠ stOk then drainCheck d else stSlot)
  | some sl =>
    if st ≠ stOk then fail s st
    else
      let rowLen := elemBytes o.ofmt 32
      let outs := (List.range o.rows).map (fun i => (d.n 16 8 + i * d.n 24 4, rowLen)) ++
        (if o.ofmt = 5 then [(d.n 56 8, o.rows)] else [])
      let ins := (if o.scale = 2 then [(d.n 32 8, 128)] else []) ++ (if o.bias then [(d.n 40 8, 128)] else [])
      let chk := s.checkRanges g (outs.map (fun r => (true, r.1, r.2)) ++ ins.map (fun r => (false, r.1, r.2)))
      if chk ≠ stOk then fail s chk
      else if o.rnd = 4 ∧ (s.core k).srKey.isNone then fail s stRngNotReady
      else
        let (s1, st1) := s.wicketAll g outs
        if st1 ≠ stOk then fail s1 st1
        else
          let (s2, st2, sc) := if o.scale = 2 then s1.memRead g (d.n 32 8) 128 else (s1, stOk, [])
          if st2 ≠ stOk then fail s2 st2
          else
            let (s3, st3, bi) := if o.bias then s2.memRead g (d.n 40 8) 128 else (s2, stOk, [])
            if st3 ≠ stOk then fail s3 st3
            else
              let words := fun (b : List Byte) => (List.range 32).map (fun j => BitVec.ofNat 32 (elemAt 0 b j))
              let pos := (s3.core k).srPos
              let key := ((s3.core k).srKey).getD []
              let rows := (List.range o.rows).map (fun i =>
                o.row sl (words sc) (words bi) (fun e => Config.srDraw key (pos + e)) i)
              let ws := (List.range o.rows).map (fun i => (d.n 16 8 + i * d.n 24 4, (rows.getD i ([], [], 0)).1)) ++
                (if o.ofmt = 5 then [(d.n 56 8, (rows.map (fun r => r.2.1)).flatten)] else [])
              let (s4, st4) := s3.writeAll g ws
              let c := s4.core k
              let c1 := if o.rnd = 4 then { c with srPos := pos + 32 * o.rows } else c
              if st4 ≠ stOk then (s4.setCore k c1, st4, none)
              else
                let worst := (rows.map (fun r => r.2.2)).foldl worse stOk
                (s4.setCore k (c1.setSlot idx (afterDrain d sl)),
                  (if sl.mode = 1 ∧ sl.sat then worse worst stOverflow else worst), none)

/-! ### The rows -/

/-- OPEN (R105). -/
def execOpn (core : BitVec 9) (s : State) : Out := .next (mxeCmd core.toNat 0x01 (bodyOpen core.toNat) s)

/-- MMA (R111). -/
def execMma (core : BitVec 9) (s : State) : Out := .next (mxeCmd core.toNat 0x10 (bodyMul core.toNat false) s)

/-- SMMA (R114). -/
def execSmma (core : BitVec 9) (s : State) : Out := .next (mxeCmd core.toNat 0x11 (bodyMul core.toNat true) s)

/-- EXPORT (R117). -/
def execExportSlot (core : BitVec 9) (s : State) : Out := .next (mxeCmd core.toNat 0x20 (bodyExport core.toNat) s)

/-- IMPORT (R118). -/
def execImportSlot (core : BitVec 9) (s : State) : Out := .next (mxeCmd core.toNat 0x21 (bodyImport core.toNat) s)

/-- DRAIN (R119). -/
def execDrain (core : BitVec 9) (s : State) : Out := .next (mxeCmd core.toNat 0x30 (bodyDrain core.toNat) s)

end Sys2Proof.Machine
end

