-- ==== Sys2Proof/Machine/Ring.lean ====
section
/-!
DEFINITION. Exact arithmetic modulo the primes of a ring-parameter set: powers and inverses, the negacyclic
transforms (R139), automorphisms (R140), basis extension (R141), centred residues and the noise logarithms
(R137, R144).
-/

namespace Sys2Proof.Machine.Ring

/-- b^e modulo m, over the low k bits of e. -/
def powBits : Nat → Nat → Nat → Nat → Nat
  | 0, _, _, m => 1 % m
  | k + 1, b, e, m => if e % 2 = 1 then b * powBits k (b * b % m) (e / 2) m % m else powBits k (b * b % m) (e / 2) m

/-- b^e modulo m, for e below 2^64. -/
def powMod (b e m : Nat) : Nat := powBits 64 (b % m) e m

/-- Euclid's algorithm: the greatest common divisor of a and b, and x with x × a0 ≡ gcd for the a0 that x0
stands for. -/
def euclid : Nat → Nat → Nat → Int → Int → Nat × Int
  | 0, a, _, x, _ => (a, x)
  | k + 1, a, b, x, y => if b = 0 then (a, x) else euclid k b (a % b) y (x - (a / b : Nat) * y)

/-- The inverse of a modulo m; free where there is none. -/
def inv (a m : Nat) : Nat :=
  let (g, x) := euclid 128 (a % m) m 1 0
  if g = 1 then (x % m).toNat else Config.noInverse a m

/-- The low b bits of k reversed. -/
def brv : Nat → Nat → Nat
  | 0, _ => 0
  | b + 1, k => k % 2 * 2 ^ b + brv b (k / 2)

/-- The sum of a_j × w^j modulo q. -/
def evalAt (q w : Nat) (a : List Nat) : Nat :=
  (a.foldl (fun (r : Nat × Nat) x => ((r.1 + x * r.2) % q, r.2 * w % q)) (0, 1 % q)).1

/-- NTT of a coefficient limb (R139). -/
def ntt (logn q psi : Nat) (a : List Nat) : List Nat :=
  (List.range (2 ^ logn)).map (fun k => evalAt q (powMod psi (2 * brv logn k + 1) q) a)

/-- The exact inverse of the NTT (R139). -/
def intt (logn q psi : Nat) (a : List Nat) : List Nat :=
  let n := 2 ^ logn
  (List.range n).map (fun j =>
    let sum := a.zipIdx.foldl (fun (r : Nat) p =>
      (r + p.1 * powMod psi (2 * n - (2 * brv logn p.2 + 1) * j % (2 * n)) q) % q) 0
    sum * inv n q % q)

/-- The automorphism X → X^g on coefficients (R140). -/
def autoCoef (logn q g : Nat) (a : List Nat) : List Nat :=
  let n := 2 ^ logn
  let h := inv g (2 * n)
  (List.range n).map (fun p =>
    let j := p * h % (2 * n)
    if j < n then a.getD j 0 else (q - a.getD (j - n) 0) % q)

/-- The automorphism on NTT values (R140). -/
def autoNtt (logn g : Nat) (a : List Nat) : List Nat :=
  let n := 2 ^ logn
  (List.range n).map (fun k => a.getD (brv logn ((g * (2 * brv logn k + 1) % (2 * n) - 1) / 2)) 0)

/-- The product of primes. -/
def prod (ps : List Nat) : Nat := ps.foldl (fun (r : Nat) p => r * p) 1

/-- Fast basis extension of source limbs (prime, coefficients) to a target prime, without correction (R141). -/
def extend (n : Nat) (src : List (Nat × List Nat)) (p : Nat) : List Nat :=
  let b := prod (src.map Prod.fst)
  src.foldl (fun (acc : List Nat) x =>
    let h := b / x.1
    let hi := inv h x.1
    List.zipWith (fun r y => (r + y * hi % x.1 * h) % p) acc x.2) (List.replicate n 0)

/-- A residue in the centred range. Of t/2 and −t/2 for an even t, which are one residue, this takes −t/2 (DESIGN CHOICE, log
106: R144 does not say). -/
def centred (x q : Nat) : Int := if 2 * x ≤ q - 1 then x else (x : Int) - q

/-- An integer as a residue. -/
def res (x : Int) (q : Nat) : Nat := (x % (q : Int)).toNat

/-- LQ = floor(16 × log2 q) (R137). -/
def lq (q : Nat) : Nat := Nat.log2 (q ^ 16)

/-- T16 = ceil(16 × log2 t) (R137); free for a set without t. -/
def t16 (t : Nat) : Nat := if t = 0 then Config.t16Zero else Nat.log2 (t ^ 16 - 1) + 1

/-- round(256 × log2 q) (R144). -/
def scaleLog (q : Nat) : Nat := (Nat.log2 (q ^ 512) + 1) / 2

/-- Coefficients lifted from their residues to integers of the centred range modulo the product (log 37). -/
def lift (n : Nat) (src : List (Nat × List Nat)) : List Int :=
  let b := prod (src.map Prod.fst)
  let xs := src.foldl (fun (acc : List Nat) x =>
    let h := b / x.1
    let hi := inv h x.1
    List.zipWith (fun r y => (r + y * hi % x.1 * h) % b) acc x.2) (List.replicate n 0)
  xs.map (fun x => centred x b)

/-- The negacyclic product of integer polynomials of n coefficients. -/
def mulNeg (n : Nat) (a b : List Int) : List Int :=
  (List.range n).map (fun k =>
    a.zipIdx.foldl (fun (r : Int) p =>
      if p.2 ≤ k then r + p.1 * b.getD (k - p.2) 0 else r - p.1 * b.getD (n + k - p.2) 0) 0)

/-- t × x / q rounded to the nearest integer. -/
def scaleRound (t : Nat) (q : Nat) (x : Int) : Int := (2 * (t : Int) * x + q) / (2 * q)

end Sys2Proof.Machine.Ring
end

