-- ==== Sys2Proof/Machine/Rge.lean ====
section
/-!
DEFINITION. The ring engine (chapter 05): its checks (R133, R134) and stops (R135), ring-parameter sets (R136,
R137), vectors (R138), raw polynomials (R139 to R142), ciphertexts (R143 to R146), KEYSWITCH (R147 to R151),
and the aggregation commands MACC, SCATTER_ADD, LAGRANGE and LFADD (R152 to R157, R201).
-/

namespace Sys2Proof.Machine

/-- The opcodes of Table 5.2. -/
def rgeValid (op : Nat) : Bool :=
  op = 0x01 || op = 0x02 || (0x10 ≤ op && op ≤ 0x13) || (0x20 ≤ op && op ≤ 0x24) || (0x28 ≤ op && op ≤ 0x30) ||
  (0x40 ≤ op && op ≤ 0x42) || op = 0x48

/-- A command takes keystream from its core's MKX: MACC, and SCATTER_ADD with a mask or a sampled index (R152, R153); one
that its summary word skips claims nothing (R187). -/
def State.wantsKeystream (s : State) (k : Nat) (x : EngEntry) (d : Desc) : Bool :=
  (d.n 0 1 = 0x40 || (d.n 0 1 = 0x41 && (d.bits 9 1 1 = 1 || d.bits 9 2 2 = 2))) &&
  !(d.skip && (s.skipTest (cmdAgent k x d) (d.n 56 8)).2 = .skipped)

/-- The first waiting command of a core's RGE that takes keystream notes when its claim arrived (R152). -/
def State.noteClaim (s : State) (k op : Nat) : State :=
  match firstWaiting (s.core k).rgeQ with
  | none => s
  | some (i, x) =>
    let d := s.peekDesc k x
    if x.claim.isNone && d.n 0 1 = op && s.wantsKeystream k x d then
      s.setCore k ((s.core k).setQ .rge ((s.core k).rgeQ.modify i (fun y => { y with claim := some s.cmdNum })))
    else s

/-- An RGE command is held back: a KEYSWITCH until every earlier command has completed, any command while an earlier
KEYSWITCH has not (R151), and one whose claim on the MKX arrived after an MKX command that has not completed (R152). -/
def State.rgeHeld (s : State) (k i : Nat) (x : EngEntry) (d : Desc) : Bool :=
  let before := (s.core k).rgeQ.take i
  (d.n 0 1 = 0x30 && !before.isEmpty) || before.any (fun y => y.status.isSome && y.op = 0x30) ||
  (match x.claim with
    | some n => (s.core k).mkxQ.any (fun z => z.num < n)
    | none => false)

/-- One RGE command as the row of an opcode (R132). -/
def rgeCmd (k op : Nat) (body : Agent → EngEntry → Desc → State → Ran) (s : State) : State :=
  let s1 := if s.engReady k then s.noteClaim k op else s
  fifoCmd k .rge rgeValid op stRing (s1.rgeHeld k) body s1

/-! ### Ring-parameter sets (R136, R137) -/

/-- A ring-parameter slot. -/
def CoreSt.rpsAt (c : CoreSt) (i : Nat) : Option Rps := sget (fun _ => none) c.rps i

/-- A ring-parameter slot replaced. -/
def CoreSt.setRps (c : CoreSt) (i : Nat) (x : Option Rps) : CoreSt :=
  { c with rps := sput (fun _ => none) c.rps i x }

/-- The slot whose tag is the one given (R143). -/
def CoreSt.findRps (c : CoreSt) (tag : Word) : Option Rps :=
  (List.range 16).findSome? (fun i => match c.rpsAt i with
    | some r => if r.tag = tag then some r else none
    | none => none)

/-- The digit size α_d. -/
def Rps.alpha (r : Rps) : Nat := (r.nq + r.dnum - 1) / r.dnum

/-- N. -/
def Rps.n (r : Rps) : Nat := 2 ^ r.logn

/-- A prime of the set, and its root. -/
def Rps.prime (r : Rps) (i : Nat) : Nat := r.primes.getD i 1
def Rps.psi (r : Rps) (i : Nat) : Nat := r.psis.getD i 0

/-- Transforms of a limb of prime i. -/
def Rps.ntt (r : Rps) (i : Nat) (a : List Nat) : List Nat := Ring.ntt r.logn (r.prime i) (r.psi i) a
def Rps.intt (r : Rps) (i : Nat) (a : List Nat) : List Nat := Ring.intt r.logn (r.prime i) (r.psi i) a

/-- The set that an image of 1,024 bytes describes. -/
def rpsOf (b : Desc) : Rps :=
  let cnt := b.n 9 1 + b.n 10 1
  { tag := BitVec.ofNat 64 (b.n 0 8), logn := b.n 8 1, nq := b.n 9 1, np := b.n 10 1, dnum := b.n 11 1,
    scheme := BitVec.ofNat 2 (b.n 12 1), t := b.n 16 8, ksn := b.n 24 2, rn := b.n 26 2, tol := b.n 28 2,
    primes := (List.range cnt).map (fun i => b.n (64 + 8 * i) 8),
    psis := (List.range cnt).map (fun i => b.n (448 + 8 * i) 8) }

/-- The image passes R137, apart from the tags of the other slots. -/
def rpsImageOk (b : Desc) : Bool :=
  let r := rpsOf b
  r.tag ≠ 0 && 12 ≤ r.logn && r.logn ≤ 17 && 1 ≤ r.nq && r.nq ≤ 48 && r.np ≤ 47 && r.nq + r.np ≤ 48 &&
  1 ≤ r.dnum && r.dnum ≤ r.nq && (r.np = 0 || r.alpha ≤ r.np) && b.n 12 1 < 4 &&
  (if r.scheme = 1 ∨ r.scheme = 2 then 2 ≤ r.t && r.t < r.prime 0 else r.t = 0) &&
  b.zero 13 3 && b.zero 30 34 && b.zero 832 192 &&
  (List.range (r.nq + r.np)).all (fun i =>
    2 < r.prime i && r.prime i < 2 ^ 60 && r.prime i % (2 * r.n) = 1 &&
    Ring.powMod (r.psi i) r.n (r.prime i) = r.prime i - 1 &&
    (List.range i).all (fun j => r.prime j ≠ r.prime i))

/-- LOAD_RPS. -/
def bodyLoadRps (k : Nat) (g : Agent) (_x : EngEntry) (d : Desc) (s : State) : Ran :=
  let img := d.n 16 8
  let sl := d.bits 8 0 4
  if ¬ (d.headOk && !d.skip && d.bits 8 4 4 = 0 && d.zero 9 7 && d.zero 24 40 && img % 64 = 0) then fail s stRing
  else
    let chk := s.checkRange g false img 1024
    if chk ≠ stOk then fail s chk
    else
      let (s1, st, b) := s.memRead g img 1024
      if st ≠ stOk then fail s1 st
      else
        let im : Desc := b
        let r := rpsOf im
        let c := s1.core k
        if ¬ rpsImageOk im ∨ (List.range 16).any (fun i => i ≠ sl && (c.rpsAt i).map Rps.tag == some r.tag) then
          fail s1 stRpsInvalid
        else (s1.setCore k (c.setRps sl (some r)), stOk, none)

/-- DROP_RPS. -/
def bodyDropRps (k : Nat) (_g : Agent) (_x : EngEntry) (d : Desc) (s : State) : Ran :=
  if ¬ (d.headOk && !d.skip && d.bits 8 4 4 = 0 && d.zero 9 55) then fail s stRing
  else (s.setCore k ((s.core k).setRps (d.bits 8 0 4) none), stOk, none)

/-! ### Vectors (R138) -/

/-- The bytes of an element of a ring format. -/
def ringSize (fmt : Nat) : Nat := if fmt = 9 then 4 else 8

/-- The modulus of a ring format: 2^32, 2^64, or the prime. -/
def ringMod (fmt q : Nat) : Nat := if fmt = 9 then 2 ^ 32 else if fmt = 10 then 2 ^ 64 else q

/-- One element of VADD, VSUB, VMUL or VCONV. -/
def vecOp (op fmt q : Nat) (mont dir : Bool) (a b : Nat) : Nat :=
  let m := ringMod fmt q
  let x := a % m
  let y := b % m
  match op with
  | 0x10 => (x + y) % m
  | 0x11 => (x + (m - y)) % m
  | 0x12 => if mont then x * y % m * Ring.inv (2 ^ 64) m % m else x * y % m
  | _ => if dir then x * Ring.inv (2 ^ 64) m % m else x * 2 ^ 64 % m

/-- A set named by its slot and a prime of it: RPS_ABSENT, RING_OPERAND_INVALID, or the prime. -/
def CoreSt.primeOf (c : CoreSt) (slot prime : Nat) : Status × Nat :=
  match c.rpsAt slot with
  | none => (stRpsAbsent, 1)
  | some r => if prime < r.nq + r.np then (stOk, r.prime prime) else (stRing, 1)

/-- VADD, VSUB, VMUL and VCONV (0x10 to 0x13). -/
def bodyVec (op k : Nat) (g : Agent) (_x : EngEntry) (d : Desc) (s : State) : Ran :=
  let fmt := d.bits 8 0 4
  let zq := fmt = 11
  let mont := d.bits 9 0 1 = 1
  let scalar := d.bits 9 1 1 = 1
  let cnt := d.n 12 4
  let a := d.n 16 8
  let b := d.n 24 8
  let dd := d.n 32 8
  let sz := ringSize fmt
  let conv := op = 0x13
  let useB := !conv && !scalar
  let ops := (a, cnt * sz) :: (if useB then [(b, cnt * sz)] else [])
  let st2 := firstFail [
    (fmt < 12, stFormat),
    (d.headOk && d.bits 8 4 4 = 0 && d.bits 9 3 5 = 0 && 9 ≤ fmt && (zq || (!mont && !conv)) &&
      d.bits 10 4 4 = 0 && d.bits 11 6 2 = 0 && 1 ≤ cnt && cnt ≤ 2 ^ 28 &&
      d.zero 40 16 && a % sz = 0 && dd % sz = 0 && (!useB || b % sz = 0) &&
      !s.overlapBad g.die ops [(dd, cnt * sz)] && (!d.skip || summaryOk (d.n 56 8)), stRing)]
  if st2 ≠ stOk then fail s st2
  else withSkip g k d 0x124 s (fun s =>
    let chk := s.checkRanges g ((true, dd, cnt * sz) :: ops.map (fun r => (false, r.1, r.2)))
    if chk ≠ stOk then fail s chk
    else
      let (st4, q) := if zq then (s.core k).primeOf (d.bits 10 0 4) (d.bits 11 0 6) else (stOk, 1)
      if st4 ≠ stOk then fail s st4
      else
        let (s1, stw) := s.wicketAll g [(dd, cnt * sz)]
        if stw ≠ stOk then fail s1 stw
        else
          let (s2, st, vs) := s1.vecRead g cnt (fun i =>
            (a + i * sz, sz) :: (if useB then [(b + i * sz, sz)] else []))
          s2.vecWrite g st dd sz (vs.map (fun v =>
            vecOp op fmt q mont (d.bits 9 2 1 = 1) (v.getD 0 0) (if useB then v.getD 1 0 else b))))

/-! ### Raw polynomials (R139 to R142) -/

/-- A limb read as residues (R52). -/
def State.readLimb (s : State) (g : Agent) (a n q : Nat) : State × Status × List Nat :=
  let (s1, st, vs) := s.vecRead g n (fun i => [(a + 8 * i, 8)])
  (s1, st, vs.map (fun v => v.getD 0 0 % q))

/-- Limbs read in order: (address, prime) each; reading stops at the first limb that fails. -/
def State.readLimbs (s : State) (g : Agent) (n : Nat) (ls : List (Nat × Nat)) : State × Status × List (List Nat) :=
  ls.foldl (fun r l =>
    if r.2.1 ≠ stOk then r
    else
      let x := r.1.readLimb g l.1 n l.2
      (x.1, x.2.1, if x.2.1 = stOk then r.2.2 ++ [x.2.2] else r.2.2)) (s, stOk, [])

/-- What a raw command needs of its descriptor and its set: the source limbs by prime index, the number of
destination limbs, or the failure. -/
def rawPlan (op : Nat) (d : Desc) (r : Rps) : Option (List Nat × Nat) :=
  let first := d.bits 9 0 6
  let limbs := d.bits 10 0 6 + 1
  let all := (List.range limbs).map (fun m => first + m)
  let top := r.nq + r.np
  if top < first + limbs then none
  else match op with
    | 0x22 => if d.n 40 4 < 2 * r.n then some (all, limbs) else none
    | 0x23 =>
      let t := d.bits 12 0 6 + 1
      if d.bits 11 0 6 + t ≤ top then some (all, t) else none
    | 0x24 =>
      let lvl := d.bits 12 0 6
      let lo := d.bits 11 0 6 * r.alpha
      let hi := min (lo + r.alpha) (lvl + 1)
      if lvl < r.nq ∧ lo ≤ lvl ∧ first ≤ lo ∧ hi ≤ first + limbs then
        some ((List.range (hi - lo)).map (fun i => lo + i), lvl + 1 + r.np)
      else none
    | _ => some (all, limbs)

/-- A digit extended to the Q primes 0 to the level and the P primes (R142). -/
def decompose (r : Rps) (lvl : Nat) (src : List (Nat × List Nat)) : List (List Nat) :=
  let ps := (List.range (lvl + 1)) ++ (List.range r.np).map (fun i => r.nq + i)
  ps.map (fun i => match src.find? (fun x => x.1 = i) with
    | some x => x.2
    | none => Ring.extend r.n (src.map (fun x => (r.prime x.1, x.2))) (r.prime i))

/-- The destination limbs of a raw command, from the source limbs that were read. -/
def rawResult (op : Nat) (d : Desc) (r : Rps) (src : List (Nat × List Nat)) : List (List Nat) :=
  match op with
  | 0x20 => src.map (fun x => r.ntt x.1 x.2)
  | 0x21 => src.map (fun x => r.intt x.1 x.2)
  | 0x22 => src.map (fun x => Ring.autoCoef r.logn (r.prime x.1) (d.n 40 4) x.2)
  | 0x23 =>
    (List.range (d.bits 12 0 6 + 1)).map (fun i =>
      Ring.extend r.n (src.map (fun x => (r.prime x.1, x.2))) (r.prime (d.bits 11 0 6 + i)))
  | _ => decompose r (d.bits 12 0 6) src

/-- The destination limbs that a raw command's fields name. -/
def rawOuts (op : Nat) (d : Desc) (r : Rps) : Nat :=
  if op = 0x23 then d.bits 12 0 6 + 1 else if op = 0x24 then d.bits 12 0 6 + 1 + r.np else d.bits 10 0 6 + 1

/-- NTT, INTT, AUTO, BASEXT and DECOMP (0x20 to 0x24). The ranges named in the descriptor (step 3 of R133) have a length that
the set gives; where the slot is empty, step 3 checks their first element (log 36). -/
def bodyRaw (op k : Nat) (g : Agent) (_x : EngEntry) (d : Desc) (s : State) : Ran :=
  let src := d.n 16 8
  let dst := d.n 32 8
  if ¬ (d.headOk && !d.skip && d.bits 8 4 4 = 0 && d.bits 9 6 2 = 0 && d.bits 10 6 2 = 0 &&
      d.bits 11 6 2 = 0 && d.bits 12 6 2 = 0 && d.zero 13 3 && d.zero 24 8 &&
      (op ≠ 0x22 || d.n 40 1 % 2 = 1) && d.zero 44 20 && src % 8 = 0 && dst % 8 = 0) then
    fail s stRing
  else
    let rps := (s.core k).rpsAt (d.bits 8 0 4)
    let lens : Nat × Nat := match rps with
      | none => (8, 8)
      | some r => ((d.bits 10 0 6 + 1) * (8 * r.n), rawOuts op d r * (8 * r.n))
    let chk := s.checkRanges g [(true, dst, lens.2), (false, src, lens.1)]
    if chk ≠ stOk then fail s chk
    else match rps with
    | none => fail s stRpsAbsent
    | some r =>
      match rawPlan op d r with
      | none => fail s stRing
      | some (is, outs) =>
        let sz := 8 * r.n
        let ops := is.map (fun i => (src + (i - d.bits 9 0 6) * sz, sz))
        let whole := (src, (d.bits 10 0 6 + 1) * sz)
        if s.overlapBad g.die [whole] [(dst, outs * sz)] then fail s stRing
        else
          let (s1, stw) := s.wicketAll g [(dst, outs * sz)]
          if stw ≠ stOk then fail s1 stw
          else
            let (s2, st, ls) := s1.readLimbs g r.n (List.zipWith (fun o i => (o.1, r.prime i)) ops is)
            let res := if (op = 0x23 || op = 0x24) && st ≠ stOk then [] else rawResult op d r (List.zip is ls)
            s2.vecWrite g st dst 8 res.flatten

/-! ### Ciphertexts (R143 to R146) -/

/-- A ciphertext header (Table 5.5). -/
structure CtHdr where
  tag    : Word
  level  : Nat
  form   : Bool
  comp   : Nat
  scale  : Nat
  noise  : Nat
  unsure : Bool
  galois : Nat
  skid   : Word
  user   : List Byte
deriving DecidableEq, Repr

/-- The header that 64 bytes spell. -/
def ctOf (b : Desc) : CtHdr :=
  { tag := BitVec.ofNat 64 (b.n 0 8), level := b.bits 8 0 6, form := b.bits 9 2 1 = 1, comp := b.bits 9 0 2,
    scale := b.n 10 2, noise := b.n 12 2, unsure := b.bits 14 0 1 = 1, galois := b.n 16 4,
    skid := BitVec.ofNat 64 (b.n 24 8), user := (b.drop 32).take 32 }

/-- The bytes of a header; INCOMPLETE where the command stopped (R135). -/
def CtHdr.bytes (h : CtHdr) (incomplete : Bool) : List Byte :=
  Crypto.leBytes 8 h.tag.toNat ++ Crypto.leBytes 1 h.level ++
  Crypto.leBytes 1 (h.comp + if h.form then 4 else 0) ++ Crypto.leBytes 2 h.scale ++ Crypto.leBytes 2 h.noise ++
  Crypto.leBytes 2 ((if h.unsure then 1 else 0) + if incomplete then 2 else 0) ++ Crypto.leBytes 4 h.galois ++
  Crypto.leBytes 4 0 ++ Crypto.leBytes 8 h.skid.toNat ++ h.user

/-- The header passes R143. -/
def ctOk (r : Rps) (b : Desc) : Bool :=
  let h := ctOf b
  h.level < r.nq && (h.comp = 2 || h.comp = 3) && (h.galois = 0 || (h.galois % 2 = 1 && h.galois < 2 * r.n)) &&
  b.bits 14 1 1 = 0 && b.bits 8 6 2 = 0 && b.bits 9 3 5 = 0 && b.bits 14 2 6 = 0 && b.bits 15 0 8 = 0 && b.zero 20 4

/-- The bytes of a body. -/
def bodyBytes (r : Rps) (comp level : Nat) : Nat := comp * (level + 1) * r.n * 8

/-- BUD of a level (R137). -/
def Rps.budget (r : Rps) (level : Nat) : Int :=
  (((List.range (level + 1)).map (fun i => Ring.lq (r.prime i))).sum : Nat) - (Ring.t16 r.t : Int) - 16

/-- The primes that MODDOWN drops, from the top down. -/
def dropped (level drop : Nat) : List Nat := (List.range drop).map (fun i => level - i)

/-- The predicted noise, saturating (Table 5.7). -/
def predict (op : Nat) (r : Rps) (a b : CtHdr) (pnorm drop : Nat) : Nat :=
  min 0xFFFF (match op with
    | 0x28 => max a.noise b.noise + 16
    | 0x29 => max a.noise b.noise + 16
    | 0x2A => a.noise + b.noise + 16 * r.logn + Ring.t16 r.t
    | 0x2B => a.noise + 16
    | 0x2C => a.noise + pnorm + 8 * r.logn
    | 0x2F => max (a.noise - ((dropped a.level drop).map (fun i => Ring.lq (r.prime i))).sum) r.rn + 16
    | 0x30 => max a.noise r.ksn + 16
    | _ => a.noise)

/-- The requirements of Table 5.6 (R144): OK, CT_INVALID or KEY_MISMATCH. -/
def ctRequire (op : Nat) (d : Desc) (r : Rps) (a b : CtHdr) : Status :=
  let ckks : Bool := r.scheme = 0
  let near : Nat → Nat → Bool := fun x y => x - y ≤ r.tol && y - x ≤ r.tol
  let drop := d.bits 8 0 6
  match op with
  | 0x2A => firstFail [
      (a.form && b.form && a.comp = 2 && b.comp = 2 && a.tag = b.tag && a.level = b.level && a.galois = 0 &&
        b.galois = 0 && (!ckks || a.scale + b.scale ≤ 0xFFFF), stCtInvalid),
      (a.skid = b.skid, stKeyMismatch)]
  | 0x2B => firstFail [(!ckks || near (d.n 46 2) a.scale, stCtInvalid)]
  | 0x2C => firstFail [(a.form && (!ckks || a.scale + d.n 46 2 ≤ 0xFFFF), stCtInvalid)]
  | 0x2D => firstFail [(a.comp = 2 && a.galois = 0, stCtInvalid)]
  | 0x2E => stOk
  | 0x2F => firstFail [(1 ≤ drop && (!ckks || a.level < drop ||
      ((dropped a.level drop).map (fun i => Ring.scaleLog (r.prime i))).sum ≤ a.scale), stCtInvalid)]
  | _ => firstFail [
      (a.tag = b.tag && a.level = b.level && a.comp = b.comp && a.form = b.form && a.galois = b.galois &&
        (!ckks || near a.scale b.scale), stCtInvalid),
      (a.skid = b.skid, stKeyMismatch)]

/-- The header of the result, its noise and flag apart. -/
def ctResult (op : Nat) (d : Desc) (r : Rps) (a b : CtHdr) : CtHdr :=
  let drop := d.bits 8 0 6
  let sc := match op with
    | 0x2A => a.scale + b.scale
    | 0x2C => a.scale + d.n 46 2
    | 0x2F => a.scale - ((dropped a.level drop).map (fun i => Ring.scaleLog (r.prime i))).sum
    | _ => a.scale
  { a with
    level := if op = 0x2F then a.level - drop else a.level
    form := if op = 0x2E then d.bits 8 6 1 = 1 else a.form
    comp := if op = 0x2A then 3 else a.comp
    scale := if r.scheme = 0 then sc else 0
    galois := if op = 0x2D then d.n 40 4 else a.galois }

/-- A body as components of limbs. -/
abbrev CtBody := List (List (List Nat))

/-- A body cut from limbs in order. -/
def toComps (level comp : Nat) (ls : List (List Nat)) : CtBody :=
  (List.range comp).map (fun c => (ls.drop (c * (level + 1))).take (level + 1))

/-- Limb-wise combination of two lists of limbs under the primes in order. -/
def limbOp (r : Rps) (f : Nat → Nat → Nat → Nat) (a b : List (List Nat)) : List (List Nat) :=
  (List.zip a b).zipIdx.map (fun p => List.zipWith (f (r.prime p.2)) p.1.1 p.1.2)

/-- Sum, difference and product of residues. -/
def addQ (q x y : Nat) : Nat := (x + y) % q
def subQ (q x y : Nat) : Nat := (x + (q - y)) % q
def mulQ (q x y : Nat) : Nat := x * y % q

/-- The tensor product (R144): limb-wise in NTT form; in BFV the integer product scaled by t / Q_ℓ (log 37). -/
def tensor (r : Rps) (a b : CtBody) : CtBody :=
  let c := fun (x : CtBody) i => x.getD i []
  if r.scheme = 1 then
    let up := fun (x : List (List Nat)) => Ring.lift r.n (x.zipIdx.map (fun p => (r.prime p.2, r.intt p.2 p.1)))
    let q := Ring.prod ((List.range (c a 0).length).map r.prime)
    let down := fun (x : List Int) => (List.range (c a 0).length).map (fun i =>
      r.ntt i (x.map (fun v => Ring.res (Ring.scaleRound r.t q v) (r.prime i))))
    let a0 := up (c a 0)
    let a1 := up (c a 1)
    let b0 := up (c b 0)
    let b1 := up (c b 1)
    [down (Ring.mulNeg r.n a0 b0),
     down (List.zipWith (· + ·) (Ring.mulNeg r.n a0 b1) (Ring.mulNeg r.n a1 b0)),
     down (Ring.mulNeg r.n a1 b1)]
  else
    [limbOp r mulQ (c a 0) (c b 0),
     limbOp r addQ (limbOp r mulQ (c a 0) (c b 1)) (limbOp r mulQ (c a 1) (c b 0)),
     limbOp r mulQ (c a 1) (c b 1)]

/-- One prime dropped from the coefficient-form limbs of a component (R144). -/
def dropLimb (r : Rps) (ls : List (List Nat)) : List (List Nat) :=
  let l := ls.length - 1
  let q := r.prime l
  let dl := (ls.getD l []).map (fun x =>
    let c := Ring.centred x q
    if r.scheme = 2 then
      c + q * Ring.centred (Ring.res (-c * Ring.inv (q % r.t) r.t) r.t) r.t
    else if r.scheme = 3 then Config.ringDrop c q
    else c)
  (ls.take l).zipIdx.map (fun p =>
    let qi := r.prime p.2
    List.zipWith (fun x y => subQ qi x (Ring.res y qi) * Ring.inv q qi % qi) p.1 dl)

/-- MODDOWN of a component by a number of primes, in its form. -/
def modDown (r : Rps) (form : Bool) (n : Nat) (ls : List (List Nat)) : List (List Nat) :=
  let c := if form then ls.zipIdx.map (fun p => r.intt p.2 p.1) else ls
  let x := (List.range n).foldl (fun (y : List (List Nat)) _ => dropLimb r y) c
  if form then x.zipIdx.map (fun p => r.ntt p.2 p.1) else x

/-- The body of the result of a ciphertext command. -/
def ctCompute (op : Nat) (d : Desc) (r : Rps) (a b : CtHdr) (x y : CtBody) : CtBody :=
  match op with
  | 0x28 => List.zipWith (limbOp r addQ) x y
  | 0x29 => List.zipWith (limbOp r subQ) x y
  | 0x2A => tensor r x y
  | 0x2B => x.zipIdx.map (fun p => if p.2 = 0 then limbOp r addQ p.1 (y.getD 0 []) else p.1)
  | 0x2C => x.map (fun c => limbOp r mulQ c (y.getD 0 []))
  | 0x2D => x.map (fun c => c.zipIdx.map (fun p =>
      if a.form then Ring.autoNtt r.logn (d.n 40 4) p.1 else Ring.autoCoef r.logn (r.prime p.2) (d.n 40 4) p.1))
  | 0x2E =>
    let f := d.bits 8 6 1 = 1
    if f = a.form then x
    else x.map (fun c => c.zipIdx.map (fun p => if f then r.ntt p.2 p.1 else r.intt p.2 p.1))
  | _ => x.map (fun c => modDown r a.form (a.level - (ctResult op d r a b).level) c)

/-- A ciphertext whose command stopped after p words of its body: words that the spec does not give, and the header with
INCOMPLETE set (R135, log 40); nothing where it had not written. -/
def State.ctStopped (s : State) (g : Agent) (dd p : Nat) (hdr : List Byte) : State :=
  if p = 0 then s
  else
    let junk := (List.range p).map (fun i => (Config.scratchWord s.fresh i).toNat)
    let (s1, _) := { s with fresh := s.fresh + 1 }.memWrite g false none (dd + 64)
      (junk.map (fun v => Crypto.leBytes 8 v)).flatten
    (s1.memWrite g false none dd hdr).1

/-- A ciphertext written: the body, then the header. A command that stopped has written a prefix of unreported
length, and where it has written it leaves the header INCOMPLETE (R135, log 40). -/
def State.ctWrite (s : State) (g : Agent) (st : Status) (dd : Nat) (h : CtHdr) (len : Nat) (body : List Nat) : Ran :=
  if st = stOk then
    let s0 := { s with run := { s.run with hdr := some (dd, h.bytes true) } }
    let (s1, st1) := s0.engWrite g 8 (dd + 64) (body.map (fun v => Crypto.leBytes 8 v)).flatten
    let (s2, st2) := s1.engWrite g 64 dd (h.bytes (st1 ≠ stOk))
    (s2, if st1 ≠ stOk then st1 else if st2 ≠ stOk then st2 else if h.unsure then stUncertain else stOk, none)
  else
    let (s1, p) := s.stopAt (len / 8)
    (s1.ctStopped g dd p (h.bytes true), st, none)

/-- The budget of BFV and BGV (R146): NOISE_BUDGET, or whether the flag is set. -/
def noiseCheck (r : Rps) (level nu : Nat) (unchecked : Bool) : Status × Bool :=
  let isOver : Bool := (r.scheme = 1 || r.scheme = 2) && r.budget level < (nu : Int)
  if isOver && !unchecked then (stNoiseBudget, false) else (stOk, isOver)

/-- The residues of a body, or of a plaintext of one component. -/
def limbAddrs (r : Rps) (a comp level : Nat) : List (Nat × Nat) :=
  (List.range (comp * (level + 1))).map (fun i => (a + i * r.n * 8, r.prime (i % (level + 1))))

/-- CADD to MODDOWN (0x28 to 0x2F), in the order of R133. -/
def bodyCt (op k : Nat) (g : Agent) (_x : EngEntry) (d : Desc) (s : State) : Ran :=
  let aA := d.n 16 8
  let bA := d.n 24 8
  let dA := d.n 32 8
  let two : Bool := op = 0x28 || op = 0x29 || op = 0x2A
  let plain : Bool := op = 0x2B || op = 0x2C
  if ¬ (d.headOk && !d.skip && d.bits 8 7 1 = 0 &&
      d.zero 9 7 && d.zero 48 16 && (op ≠ 0x2D || d.n 40 1 % 2 = 1) && aA % 8 = 0 && dA % 8 = 0 &&
      (!(two || plain) || bA % 8 = 0)) then fail s stRing
  else
    let chk := s.checkRanges g ([(false, aA, 64), (true, dA, 64)] ++ (if two then [(false, bA, 64)] else []))
    if chk ≠ stOk then fail s chk
    else
      let (s1, st1, hs) := s.readAll g ((aA, 64) :: (if two then [(bA, 64)] else []))
      if st1 ≠ stOk then fail s1 st1
      else
        let ab : Desc := hs.getD 0 []
        let bb : Desc := if two then hs.getD 1 [] else ab
        let a := ctOf ab
        let b := ctOf bb
        match (s1.core k).findRps a.tag, (s1.core k).findRps b.tag with
        | some r, some rb =>
          if op = 0x2D ∧ 2 * r.n ≤ d.n 40 4 then fail s1 stRing
          else
            let st5 := firstFail [(ctOk r ab && ctOk rb bb, stCtInvalid),
              (ctRequire op d r a b = stOk, ctRequire op d r a b)]
            if st5 ≠ stOk then fail s1 st5
            else
              let h0 := ctResult op d r a b
              let lenA := bodyBytes r a.comp a.level
              let lenB := if two then bodyBytes r b.comp b.level else if plain then bodyBytes r 1 a.level else 0
              let bB := if two then bA + 64 else bA
              let lenD := bodyBytes r h0.comp h0.level
              let ops := (aA, 64 + lenA) :: (if two then [(bA, 64 + lenB)] else if plain then [(bA, lenB)] else [])
              let chk6 := s1.checkRanges g ((true, dA, 64 + lenD) :: ops.map (fun o => (false, o.1, o.2)))
              let nu := predict op r a b (d.n 44 2) (d.bits 8 0 6)
              let (stn, isOver) := noiseCheck r h0.level nu (d.bits 2 3 1 = 1)
              let st6 := firstFail [(!s1.overlapBad g.die ops [(dA, 64 + lenD)], stRing), (chk6 = stOk, chk6),
                (!(op = 0x2F && a.level < d.bits 8 0 6), stLevel), (stn = stOk, stn)]
              if st6 ≠ stOk then fail s1 st6
              else
                let (s2, stw) := s1.wicketAll g [(dA, 64 + lenD)]
                if stw ≠ stOk then fail s2 stw
                else
                  let h := { h0 with noise := nu, unsure := a.unsure || (two && b.unsure) || isOver }
                  let (s3, st3, xs) := s2.readLimbs g r.n (limbAddrs r (aA + 64) a.comp a.level)
                  let (s4, st4, ys) := if st3 = stOk ∧ lenB ≠ 0 then
                      s3.readLimbs g r.n (limbAddrs r bB (if two then b.comp else 1) a.level)
                    else (s3, st3, [])
                  let out := if st4 = stOk then
                      ctCompute op d r a b (toComps a.level a.comp xs) (toComps a.level (if two then b.comp else 1) ys)
                    else []
                  s4.ctWrite g st4 dA h lenD (out.map List.flatten).flatten
        | _, _ => fail s1 stRpsAbsent

/-! ### KEYSWITCH (R147 to R151) -/

/-- The key header agrees with the ciphertext and the set (R148). -/
def keyOk (r : Rps) (h : CtHdr) (b : Desc) : Bool :=
  let kind := b.n 32 1
  b.n 0 8 = h.tag.toNat && b.n 24 8 = h.skid.toNat && kind ≤ 2 && (kind ≠ 0 || h.comp = 3) &&
  (kind ≠ 1 || (b.n 36 4 = h.galois && b.n 16 8 = h.skid.toNat)) &&
  (kind ≠ 2 || (h.galois = 0 && b.n 16 8 = h.skid.toNat)) &&
  h.level < b.n 33 1 && b.n 33 1 ≤ r.nq && b.zero 35 1 && b.zero 40 24

/-- A digit header is what R147 requires. -/
def digitOk (key b : Desc) (j : Nat) : Bool := b.n 0 8 = key.n 8 8 && b.n 8 1 = j && b.zero 9 55

/-- The address of digit j of a key. -/
def digitAt (r : Rps) (key kq j : Nat) : Nat := key + 64 + j * (64 + 2 * (kq + r.np) * r.n * 8)

/-- The addresses and primes of the limbs that a digit streams: two polynomials of Q limbs 0 to ℓ and the P
limbs (R149). -/
def digitLimbs (r : Rps) (base kq level : Nat) : List (Nat × Nat) :=
  [0, 1].flatMap (fun p =>
    ((List.range (level + 1)) ++ (List.range r.np).map (fun i => kq + i)).map (fun i =>
      (base + 64 + (p * (kq + r.np) + i) * r.n * 8,
        r.prime (if i < level + 1 ∧ i < kq then i else r.nq + (i - kq)))))

/-- The prime indices of a digit's limbs: Q 0 to ℓ, then P. -/
def ksPrimes (r : Rps) (level : Nat) : List Nat := List.range (level + 1) ++ (List.range r.np).map (fun i => r.nq + i)

/-- Two accumulators after one digit (R149 step 2): key limbs times the transformed digit, added. -/
def ksDigit (r : Rps) (level j : Nat) (dc : List (List Nat)) (key : List (List Nat))
    (acc : List (List Nat) × List (List Nat)) : List (List Nat) × List (List Nat) :=
  let lo := j * r.alpha
  let hi := min (lo + r.alpha) (level + 1)
  let src := (List.range (hi - lo)).map (fun i => (lo + i, dc.getD (lo + i) []))
  let ps := ksPrimes r level
  let ext := (List.zip ps (decompose r level src)).map (fun x => r.ntt x.1 x.2)
  let mac := fun (a kk : List (List Nat)) =>
    (List.zip ps (List.zip a (List.zip ext kk))).map (fun x =>
      let q := r.prime x.1
      List.zipWith (fun u v => (u + v) % q) x.2.1 (List.zipWith (mulQ q) x.2.2.1 x.2.2.2))
  (mac acc.1 (key.take ps.length), mac acc.2 (key.drop ps.length))

/-- Steps 3 and 4 and the transforms of step 5 for one accumulator: the correction in NTT form. -/
def ksDown (r : Rps) (level : Nat) (acc : List (List Nat)) : List (List Nat) :=
  let pp := (List.range r.np).map (fun i => r.nq + i)
  let pl := (List.zip pp (acc.drop (level + 1))).map (fun x => (r.prime x.1, r.intt x.1 x.2))
  let bigP := Ring.prod (pp.map r.prime)
  (List.zip (List.range (level + 1)) (acc.take (level + 1))).map (fun x =>
    let q := r.prime x.1
    let ext := r.ntt x.1 (Ring.extend r.n pl q)
    List.zipWith (fun u v => subQ q u v * Ring.inv bigP q % q) x.2 ext)

/-- The digits streamed in order: header check, then limbs, then the accumulators. -/
def ksStream (g : Agent) (r : Rps) (keyA : Nat) (key : Desc) (level : Nat) (dc : List (List Nat))
    (js : List Nat) (s : State) (acc : List (List Nat) × List (List Nat)) :
    State × Status × (List (List Nat) × List (List Nat)) :=
  js.foldl (fun (t : State × Status × (List (List Nat) × List (List Nat))) j =>
    if t.2.1 ≠ stOk then t
    else
      let base := digitAt r keyA (key.n 33 1) j
      let (s1, st1, hb) := t.1.memRead g base 64
      if st1 ≠ stOk then (s1, st1, t.2.2)
      else if ¬ digitOk key hb j then (s1, stKeyMismatch, t.2.2)
      else
        let (s2, st2, ls) := s1.readLimbs g r.n (digitLimbs r base (key.n 33 1) level)
        (s2, st2, if st2 = stOk then ksDigit r level j dc ls t.2.2 else t.2.2)) (s, stOk, acc)

/-- The scratch area after a KEYSWITCH: undefined words (R148, log 40). -/
def State.scrambled (s : State) (g : Agent) (a words : Nat) : State × Status :=
  { s with fresh := s.fresh + 1 }.memWrite g false none a
    ((List.range words).map (fun i => Crypto.leBytes 8 (Config.scratchWord s.fresh i).toNat)).flatten

/-- KEYSWITCH (0x30). -/
def bodyKeyswitch (k : Nat) (g : Agent) (_x : EngEntry) (d : Desc) (s : State) : Ran :=
  let ctA := d.n 16 8
  let keyA := d.n 24 8
  let dA := d.n 32 8
  let scA := d.n 40 8
  if ¬ (d.headOk && !d.skip && d.zero 8 8 && d.zero 52 12 && ctA % 8 = 0 && keyA % 8 = 0 && dA % 8 = 0 &&
      scA % 8 = 0) then fail s stRing
  else
    let chk := s.checkRanges g [(false, ctA, 64), (false, keyA, 64), (true, dA, 64), (true, scA, d.n 48 4)]
    if chk ≠ stOk then fail s chk
    else
      let (s1, st1, hs) := s.readAll g [(ctA, 64), (keyA, 64)]
      if st1 ≠ stOk then fail s1 st1
      else
        let hb : Desc := hs.getD 0 []
        let kb : Desc := hs.getD 1 []
        let h := ctOf hb
        match (s1.core k).findRps h.tag with
        | none => fail s1 stRpsAbsent
        | some r =>
          let lvl := h.level
          let words := (4 * (lvl + 1) + 3 * r.np) * r.n
          let beta := (lvl + 1 + r.alpha - 1) / r.alpha
          let kq := kb.n 33 1
          let lenC := 64 + bodyBytes r h.comp lvl
          let lenD := 64 + bodyBytes r 2 lvl
          let lenK := 64 + beta * (64 + 2 * (kq + r.np) * r.n * 8)
          let nu := predict 0x30 r h h 0 0
          let (stn, isOver) := noiseCheck r lvl nu (d.bits 2 3 1 = 1)
          if ¬ ctOk r hb then fail s1 stCtInvalid
          else
            let same : Bool := s1.canon g.die ctA = s1.canon g.die dA
            let ops := (keyA, lenK) :: (if same then [] else [(ctA, lenC)])
            let chk6 := s1.checkRanges g [(false, ctA, lenC), (false, keyA, lenK), (true, dA, lenD), (true, scA, words * 8)]
            let bad := s1.overlapBad g.die ops [(dA, lenD), (scA, words * 8)] || s1.overlap g.die (ctA, lenC) (scA, words * 8)
            let st6 := firstFail [(words * 8 ≤ d.n 48 4 && !bad, stRing), (chk6 = stOk, chk6),
              (keyOk r h kb, stKeyMismatch)]
            if st6 ≠ stOk then fail s1 st6
            else
              let (s2, st2, dig) := s1.memRead g (digitAt r keyA kq 0) 64
              let st7 := firstFail [(st2 = stOk, st2), (digitOk kb dig 0, stKeyMismatch), (stn = stOk, stn)]
              if st7 ≠ stOk then fail s2 st7
              else
                let (s3, stw) := s2.wicketAll g [(scA, words * 8), (dA, lenD)]
                if stw ≠ stOk then fail s3 stw
                else
                  let di := if kb.n 32 1 = 0 then 2 else 1
                  let row := (lvl + 1) * r.n * 8
                  let (s4, st4, dl) := s3.readLimbs g r.n (limbAddrs r (ctA + 64 + di * row) 1 lvl)
                  let dc := if h.form then dl.zipIdx.map (fun p => r.intt p.2 p.1) else dl
                  let zero := (ksPrimes r lvl).map (fun _ => List.replicate r.n 0)
                  let (s5, st5, acc) := if st4 = stOk then
                      ksStream g r keyA kb lvl dc (List.range beta) s4 (zero, zero)
                    else (s4, st4, (zero, zero))
                  let (s6, st6) := s5.scrambled g scA words
                  let stA := if st5 ≠ stOk then st5 else st6
                  if stA ≠ stOk then fail s6 stA
                  else
                    let out : CtHdr := { h with comp := 2, form := true, galois := 0, noise := nu,
                                                skid := BitVec.ofNat 64 (kb.n 24 8), unsure := h.unsure || isOver }
                    let (s7, st7, cl) := s6.readLimbs g r.n (limbAddrs r (ctA + 64) 2 lvl)
                    let cs := toComps lvl 2 cl
                    let up := fun (c : List (List Nat)) => if h.form then c else c.zipIdx.map (fun p => r.ntt p.2 p.1)
                    let body := [limbOp r addQ (up (cs.getD 0 [])) (ksDown r lvl acc.1),
                                 limbOp r addQ (up (cs.getD 1 [])) (ksDown r lvl acc.2)]
                    s7.ctWrite g st7 dA out (lenD - 64) (body.map List.flatten).flatten

/-! ### Seed slots and mask streams (R152, R160) -/

/-- Bytes of a seed's stream from a byte offset. -/
def streamBytes (seed : List Byte) (off n : Nat) : List Byte :=
  ((Crypto.stream seed (off / 16) (off % 16 + n)).drop (off % 16)).take n

/-- Mask element e of a seed (R152); free in ZQ (log 43). -/
def maskElem (seed : List Byte) (fmt e : Nat) : Nat :=
  if fmt = 11 then Config.zqMask seed e
  else Crypto.leNat (streamBytes seed (e * ringSize fmt) (ringSize fmt))

/-- The coordinates included in a range under a sampling seed and rate (R198). -/
def included (seed : List Byte) (p base len : Nat) : List Nat :=
  ((List.range len).map (fun i => base + i)).filter (fun c => Crypto.leNat (streamBytes seed (4 * c) 4) < p)

/-- A seed slot of the partition: OK or BOUND_FAULT. -/
def State.slotOwned (s : State) (g : Agent) (n : Nat) : Status :=
  if (s.seedSlot g.die n).pid = some g.pid then stOk else stBound

/-- The BLOCKS count of a core's mask expander advanced (Table 6.6, log 41). -/
def State.countBlocks (s : State) (k n : Nat) : State := s.bump64 (s.corePage k 3) 0x108 n

/-! Accumulators that RGEs contest (R154) -/

/-- The 8-byte words that a range touches. -/
def wordsOf (a n : Nat) : List Nat := (List.range ((a % 8 + n + 7) / 8)).map (fun i => a / 8 * 8 + 8 * i)

/-- What an accumulator word held before a command of another RGE that has not completed added into it. -/
def State.contested (s : State) (k w : Nat) : Option Word :=
  s.cores.findSome? (fun c =>
    if c.1 = k then none
    else c.2.rgeQ.findSome? (fun y => (y.sums.find? (fun p => p.1 = w)).map Prod.snd))

/-- A core's sums into accumulator words. Of a word that a command of another RGE has added into and not completed, the
result of one of the two stands and the other's addend is lost (R154): which one is free (log 102). The words and what they
held before go into the queue entry. -/
def State.summing (s : State) (k : Nat) (g : Agent) (ws : List Nat) (go : State → Ran) : Ran :=
  let now := fun (t : State) (w : Nat) => BitVec.ofNat 64 (t.readNum g w 8).2.2
  let at' := fun (w : Nat) => s.canon g.die w
  let hot := ws.filterMap (fun w => (s.contested k (at' w)).map (fun b => (w, b)))
  let mine := fun (w : Nat) => Config.raceWinner s.fresh w
  let put := fun (t : State) (p : Nat × Word) => (t.memWrite g false none p.1 (Crypto.leBytes 8 p.2.toNat)).1
  let s1 := (hot.filter (fun p => mine p.1)).foldl put (if hot.isEmpty then s else { s with fresh := s.fresh + 1 })
  let sums := ws.map (fun w => (at' w, now s1 w))
  let r := go { s1 with run := { s1.run with sums := s1.run.sums ++ sums } }
  ((hot.filter (fun p => !mine p.1)).foldl (fun t p => put t (p.1, now s p.1)) r.1, r.2)

/-- MACC (0x40) (R152). -/
def bodyMacc (k : Nat) (g : Agent) (_x : EngEntry) (d : Desc) (s : State) : Ran :=
  let fmt := d.bits 8 0 4
  let sub := d.bits 9 0 1 = 1
  let only := d.bits 9 1 1 = 1
  let slot := d.bits 10 0 8 + 256 * d.bits 11 0 4
  let cnt := d.n 12 4
  let xA := d.n 16 8
  let acc := d.n 24 8
  let off := d.n 32 8
  let sz := ringSize fmt
  let ops := if only then [] else [(xA, cnt * sz)]
  let st2 := firstFail [
    (fmt < 12, stFormat),
    (d.headOk && d.bits 8 4 4 = 0 && d.bits 9 2 6 = 0 && d.bits 11 4 4 = 0 && (fmt = 9 || fmt = 10) && 1 ≤ cnt &&
      cnt ≤ 2 ^ 28 && d.zero 40 16 && (only || xA % sz = 0) && acc % sz = 0 && off * sz % 16 = 0 &&
      !s.overlapBad g.die ops [(acc, cnt * sz)] && (!d.skip || summaryOk (d.n 56 8)), stRing)]
  if st2 ≠ stOk then fail s st2
  else withSkip g k d 0x124 s (fun s =>
    let chk := joinCheck (s.slotOwned g slot)
      (s.checkRanges g ((true, acc, cnt * sz) :: ops.map (fun o => (false, o.1, o.2))))
    if chk ≠ stOk then fail s chk
    else match (s.seedSlot g.die slot).seed with
      | none => fail s stSeedEmpty
      | some seed =>
        let (s1, stw) := s.wicketAll g [(acc, cnt * sz)]
        if stw ≠ stOk then fail s1 stw
        else
          s1.summing k g (wordsOf acc (cnt * sz)) (fun s1 =>
            let (s2, st, vs) := s1.vecRead g cnt (fun i =>
              (acc + i * sz, sz) :: (if only then [] else [(xA + i * sz, sz)]))
            let m := ringMod fmt 1
            let out := vs.zipIdx.map (fun p =>
              let k := maskElem seed fmt (off + p.2) % m
              (p.1.getD 0 0 + p.1.getD 1 0 + (if sub then m - k else k)) % m)
            (s2.countBlocks k ((cnt * sz + 15) / 16)).vecWrite g st acc sz out))

/-! ### SCATTER_ADD (R153, R201) -/

/-- The indices of a SCATTER_ADD: read from memory, or drawn by sampling; with the coordinate whose mask element
each takes. -/
def State.scatterIndices (s : State) (g : Agent) (d : Desc) (k cnt : Nat) (sample : List Byte) :
    State × Status × List (Nat × Nat) :=
  match d.bits 9 2 2 with
  | 2 =>
    let base := d.n 48 8
    let cs := included sample (d.n 36 4) base (d.n 40 4)
    (s.countBlocks k (2 * ((d.n 40 4 + 3) / 4)), if cs.length = cnt then stOk else stSampleMismatch,
      cs.map (fun c => (c - base, c)))
  | m =>
    let w := if m = 0 then 4 else 8
    let (s1, st, vs) := s.vecRead g cnt (fun j => [(d.n 32 8 + j * w, w)])
    let is := vs.map (fun v => v.getD 0 0)
    (s1, if st ≠ stOk then st else if is.any (fun i => d.n 40 4 ≤ i) then stRing else stOk, is.map (fun i => (i, i)))

/-- The additions of a SCATTER_ADD in increasing j, each element written in turn. -/
def State.scatterRun (s : State) (g : Agent) (acc sz m : Nat) (ws : List (Nat × Nat)) : State × Status :=
  ws.foldl (fun r w =>
    if r.2 ≠ stOk then r
    else
      let (s1, st, v) := r.1.readNum g (acc + w.1 * sz) sz
      if st ≠ stOk then (s1, st)
      else s1.engWrite g sz (acc + w.1 * sz) (Crypto.leBytes sz ((v % m + w.2) % m))) (s, stOk)

/-- SCATTER_ADD (0x41, R153). The test of the indices, which only a read can make, stands after RPS_ABSENT and SEED_SLOT_EMPTY
(DESIGN CHOICE, log 106). -/
def bodyScatter (k : Nat) (g : Agent) (_x : EngEntry) (d : Desc) (s : State) : Ran :=
  let fmt := d.bits 8 0 4
  let zq : Bool := fmt = 11
  let sub := d.bits 9 0 1 = 1
  let masked := d.bits 9 1 1 = 1
  let idxm := d.bits 9 2 2
  let sampled : Bool := idxm = 2
  let slot := d.bits 10 0 8 + 256 * d.bits 11 0 4
  let sslot := d.bits 32 0 8 + 256 * d.bits 33 0 4
  let cnt := d.n 12 4
  let val := d.n 16 8
  let acc := d.n 24 8
  let len := d.n 40 4
  let sz := ringSize fmt
  let iw := if idxm = 0 then 4 else 8
  let ops := (val, cnt * sz) :: (if sampled then [] else [(d.n 32 8, cnt * iw)])
  let st2 := firstFail [
    (fmt < 12, stFormat),
    (d.headOk && d.bits 8 4 4 = 0 && d.bits 9 4 4 = 0 && d.bits 11 4 4 = 0 && 9 ≤ fmt && idxm ≠ 3 && 1 ≤ cnt &&
      cnt ≤ 2 ^ 24 && d.bits 44 4 4 = 0 && d.bits 45 6 2 = 0 && d.zero 46 2 &&
      (if sampled then d.bits 33 4 4 = 0 && d.zero 34 2 && d.n 48 8 % 4 = 0 && 1 ≤ d.n 36 4
       else d.n 32 8 % iw = 0 && d.zero 48 8) &&
      val % sz = 0 && acc % sz = 0 && !s.overlapBad g.die ops [(acc, len * sz)] &&
      (!d.skip || summaryOk (d.n 56 8)), stRing)]
  if st2 ≠ stOk then fail s st2
  else withSkip g k d 0x124 s (fun s =>
    let own := joinCheck (if masked then s.slotOwned g slot else stOk) (if sampled then s.slotOwned g sslot else stOk)
    let chk := joinCheck own (s.checkRanges g ((true, acc, len * sz) :: ops.map (fun o => (false, o.1, o.2))))
    let (st4, q) := if zq then (s.core k).primeOf (d.bits 44 0 4) (d.bits 45 0 6) else (stOk, 1)
    let mSeed := (s.seedSlot g.die slot).seed
    let sSeed := (s.seedSlot g.die sslot).seed
    let st3 := firstFail [(chk = stOk, chk), (st4 = stOk, st4),
      (!(masked && mSeed.isNone) && !(sampled && sSeed.isNone), stSeedEmpty),
      (!(sampled && s.conf g && (s.seedSlot g.die sslot).recon), stExportDenied)]
    if st3 ≠ stOk then fail s st3
    else
      let (s1, st5, is) := s.scatterIndices g d k cnt (sSeed.getD [])
      if st5 ≠ stOk then fail s1 st5
      else
        let (s2, stw) := s1.wicketAll g [(acc, len * sz)]
        if stw ≠ stOk then fail s2 stw
        else
          let m := ringMod fmt q
          let ws := (is.flatMap (fun i => wordsOf (acc + i.1 * sz) sz)).dedup
          s2.summing k g ws (fun s2 =>
            let (s3, st, vs) := s2.vecRead g cnt (fun j => [(val + j * sz, sz), (acc + (is.getD j (0, 0)).1 * sz, sz)])
            let (s4, p) := if st = stOk then (s3, vs.length) else s3.stopAt vs.length
            let adds := (List.zip vs is).map (fun x =>
              let mk := if masked then maskElem (mSeed.getD []) fmt x.2.2 % m else 0
              (x.2.1, (x.1.getD 0 0 % m + (if sub then m - mk else mk)) % m))
            let s5 := if masked then s4.countBlocks k cnt else s4
            let (s6, st6) := s5.scatterRun g acc sz m (adds.take p)
            (s6, if st ≠ stOk then st else st6, none)))

/-! ### LAGRANGE (R155, R156) -/

/-- The weight of point i: the product over the other points of x_j × (x_j − x_i)^−1 (R155). -/
def lagrangeWeight (q : Nat) (xs : List Nat) (i : Nat) : Nat :=
  let xi := xs.getD i 0
  xs.zipIdx.foldl (fun (r : Nat) p =>
    if p.2 = i then r else r * (p.1 * Ring.inv (subQ q p.1 xi) q % q) % q) (1 % q)

/-- f(0) from the weights and the shares. -/
def lagrangeSum (q : Nat) (ws ys : List Nat) : Nat := (List.zipWith (fun w y => w * (y % q) % q) ws ys).sum % q

/-- One secret of a SEED reconstruction: its 32 bytes, or none where a limb is out of range (R156). -/
def seedOfLimbs (ls : List Nat) : Option (List Byte) :=
  if (ls.take 4).all (fun l => l < 2 ^ 56) ∧ ls.getD 4 0 < 2 ^ 32 then
    some (Crypto.leBytes 32 ((ls.zipIdx.map (fun p => p.1 * 2 ^ (56 * p.2))).sum))
  else none

/-- The place of one reconstructed secret: memory, or a seed slot (R155). -/
def State.putSecret (s : State) (g : Agent) (toslot : Bool) (base out sz m : Nat) (v : List Byte) : State × Status :=
  if toslot then
    (s.setSeedSlot g.die (base + m) { s.seedSlot g.die (base + m) with seed := some v, recon := true, vault := none },
      stOk)
  else s.engWrite g sz (out + m * sz) v

/-- LAGRANGE (0x42). -/
def bodyLagrange (k : Nat) (g : Agent) (_x : EngEntry) (d : Desc) (s : State) : Ran :=
  let seed := d.bits 9 0 1 = 1
  let toslot := d.bits 9 1 1 = 1
  let t := d.n 12 2
  let n := d.n 14 2
  let xA := d.n 16 8
  let yA := d.n 24 8
  let oA := d.n 32 8
  let base := d.bits 40 0 8 + 256 * d.bits 41 0 4
  let stA := d.n 48 8
  let ysz := if seed then 40 else 8
  let osz := if seed then 32 else 8
  let ops := [(xA, 8 * t), (yA, n * t * ysz)]
  let dsts := (if toslot then [] else [(oA, n * osz)]) ++ (if seed then [(stA, n)] else [])
  if ¬ (d.headOk && !d.skip && d.bits 8 4 4 = 0 && d.bits 9 2 6 = 0 && d.bits 10 6 2 = 0 && d.zero 11 1 && 2 ≤ t &&
      t ≤ 1024 && 1 ≤ n && n ≤ 4096 && d.bits 41 4 4 = 0 && d.zero 42 6 && d.zero 56 8 && (seed || !toslot) &&
      xA % 8 = 0 && yA % 8 = 0 && (seed || oA % 8 = 0) && (!toslot || base + n ≤ 4096) &&
      !s.overlapBad g.die ops dsts) then fail s stRing
  else
    let own := if toslot then
        (List.range n).foldl (fun st i => joinCheck st (s.slotOwned g (base + i))) stOk else stOk
    let chk := joinCheck own (s.checkRanges g (dsts.map (fun o => (true, o.1, o.2)) ++ ops.map (fun o => (false, o.1, o.2))))
    let (st4, q) := (s.core k).primeOf (d.bits 8 0 4) (d.bits 10 0 6)
    let st3 := firstFail [(chk = stOk, chk), (st4 = stOk, st4), (!seed || 2 ^ 56 < q, stRing)]
    if st3 ≠ stOk then fail s st3
    else
      let (s1, st1, xv) := s.vecRead g t (fun i => [(xA + 8 * i, 8)])
      let xs := xv.map (fun v => v.getD 0 0 % q)
      if st1 ≠ stOk then fail s1 st1
      else if xs.any (fun x => x = 0) ∨ ¬ xs.Nodup then fail s1 stRing
      else
        let (s2, stw) := s1.wicketAll g dsts
        if stw ≠ stOk then fail s2 stw
        else
          let ws := (List.range t).map (lagrangeWeight q xs)
          let (s3, st, ys) := s2.vecRead g n (fun m => (List.range (t * (ysz / 8))).map (fun i =>
            (yA + m * t * ysz + 8 * i, 8)))
          let (s4, p) := if st = stOk then (s3, ys.length) else s3.stopAt ys.length
          let r := (ys.take p).zipIdx.foldl (fun (r : State × Status × Bool) y =>
            if r.2.1 ≠ stOk then r
            else
              let limb := fun l => lagrangeSum q ws ((List.range t).map (fun i => y.1.getD (i * (ysz / 8) + l) 0))
              let v := if seed then seedOfLimbs ((List.range 5).map limb) else some (Crypto.leBytes 8 (limb 0))
              let (s5, st5) := match v with
                | some b => r.1.putSecret g toslot base oA osz y.2 b
                | none => (r.1, stOk)
              let (s6, st6) := if seed then
                  s5.engWrite g 1 (stA + y.2) [if v.isSome then stOk else stReconRange] else (s5, stOk)
              (s6, if st5 ≠ stOk then st5 else st6, r.2.2 || v.isNone)) (s4, stOk, false)
          (r.1, if st ≠ stOk then st else if r.2.1 ≠ stOk then r.2.1 else if r.2.2 then stReconRange else stOk, none)

/-! ### LFADD (R157) -/

/-- One long-form addition at its destination: here, or by an ATOM packet to another device (R291); the flag
says that w differed. -/
def State.lfaddOne (s : State) (g : Agent) (src dst : Nat) (sb : List Byte) : State × Status :=
  match s.place g.die dst with
  | .remote dev l =>
    (s.sendOp g false true dev l 20 false (sb.take 20), stOk)
  | _ =>
    let (s1, st, db) := s.memRead g dst 20
    if st ≠ stOk then (s1, st)
    else
      let (r, x) := lfAdd dst (lfOfBytes db) src (lfOfBytes sb)
      if r ≠ stOk then (s1, r) else s1.engWrite g 20 dst x.toBytes

/-- LFADD (0x48): every source and destination is read and checked before the first addition. -/
def bodyLfadd (_k : Nat) (g : Agent) (_x : EngEntry) (d : Desc) (s : State) : Ran :=
  let cnt := d.n 12 4
  let src := d.n 16 8
  let dst := d.n 24 8
  if ¬ (d.headOk && !d.skip && d.zero 8 4 && 1 ≤ cnt && cnt ≤ 2 ^ 20 && d.zero 32 32 &&
      !s.overlapBad g.die [(src, 32 * cnt)] [(dst, 32 * cnt)]) then fail s stRing
  else
    let mem := fun (a n : Nat) => (List.range n).foldl (fun st i => joinCheck st (match s.place g.die (a + i) with
      | .host _ => stUnmapped
      | _ => stOk)) stOk
    let chk := (List.range cnt).foldl (fun st m => joinCheck st (joinCheck
      (joinCheck (mem (src + 32 * m) 24) (mem (dst + 32 * m) 20))
      (joinCheck (s.checkRange g false (src + 32 * m) 24) (s.checkRange g true (dst + 32 * m) 20)))) stOk
    if chk ≠ stOk then fail s chk
    else
      let (s0, stw) := s.wicketAll g ((List.range cnt).map (fun m => (dst + 32 * m, 20)))
      if stw ≠ stOk then fail s0 stw
      else
        let (s1, st1, ss) := s0.readAll g ((List.range cnt).map (fun m => (src + 32 * m, 24)))
        let (s2, st2, ds) := if st1 = stOk then s1.readAll g ((List.range cnt).map (fun m => (dst + 32 * m, 20)))
          else (s1, st1, [])
        let ps := List.zip (ss.map lfOfBytes) (ds.map lfOfBytes)
        let st3 := firstFail [(st2 = stOk, st2),
          (src % 32 = 0 && dst % 32 = 0 && ps.all (fun p => lfOk 0 p.1 && lfOk 0 p.2), stFormat),
          (ps.all (fun p => p.1.w = p.2.w), stWindow)]
        if st3 ≠ stOk then fail s2 st3
        else
          let r := ss.zipIdx.foldl (fun (r : State × Status) p =>
            let (t, st) := r.1.lfaddOne g (src + 32 * p.2) (dst + 32 * p.2) p.1
            (t, if r.2 = stOk then st else r.2)) (s2, stOk)
          (r.1, r.2, none)

/-! ### The rows -/

/-- LOAD_RPS (R136). -/
def execLoadRps (core : BitVec 9) (s : State) : Out := .next (rgeCmd core.toNat 0x01 (bodyLoadRps core.toNat) s)

/-- DROP_RPS (R136). -/
def execDropRps (core : BitVec 9) (s : State) : Out := .next (rgeCmd core.toNat 0x02 (bodyDropRps core.toNat) s)

/-- VADD (R138). -/
def execVadd (core : BitVec 9) (s : State) : Out := .next (rgeCmd core.toNat 0x10 (bodyVec 0x10 core.toNat) s)

/-- VSUB (R138). -/
def execVsub (core : BitVec 9) (s : State) : Out := .next (rgeCmd core.toNat 0x11 (bodyVec 0x11 core.toNat) s)

/-- VMUL (R138). -/
def execVmul (core : BitVec 9) (s : State) : Out := .next (rgeCmd core.toNat 0x12 (bodyVec 0x12 core.toNat) s)

/-- VCONV (R138). -/
def execVconv (core : BitVec 9) (s : State) : Out := .next (rgeCmd core.toNat 0x13 (bodyVec 0x13 core.toNat) s)

/-- NTT (R139). -/
def execNtt (core : BitVec 9) (s : State) : Out := .next (rgeCmd core.toNat 0x20 (bodyRaw 0x20 core.toNat) s)

/-- INTT (R139). -/
def execIntt (core : BitVec 9) (s : State) : Out := .next (rgeCmd core.toNat 0x21 (bodyRaw 0x21 core.toNat) s)

/-- AUTO (R140). -/
def execAuto (core : BitVec 9) (s : State) : Out := .next (rgeCmd core.toNat 0x22 (bodyRaw 0x22 core.toNat) s)

/-- BASEXT (R141). -/
def execBasext (core : BitVec 9) (s : State) : Out := .next (rgeCmd core.toNat 0x23 (bodyRaw 0x23 core.toNat) s)

/-- DECOMP (R142). -/
def execDecomp (core : BitVec 9) (s : State) : Out := .next (rgeCmd core.toNat 0x24 (bodyRaw 0x24 core.toNat) s)

/-- CADD (R144). -/
def execCadd (core : BitVec 9) (s : State) : Out := .next (rgeCmd core.toNat 0x28 (bodyCt 0x28 core.toNat) s)

/-- CSUB (R144). -/
def execCsub (core : BitVec 9) (s : State) : Out := .next (rgeCmd core.toNat 0x29 (bodyCt 0x29 core.toNat) s)

/-- CMUL (R144). -/
def execCmul (core : BitVec 9) (s : State) : Out := .next (rgeCmd core.toNat 0x2A (bodyCt 0x2A core.toNat) s)

/-- PADD (R144). -/
def execPadd (core : BitVec 9) (s : State) : Out := .next (rgeCmd core.toNat 0x2B (bodyCt 0x2B core.toNat) s)

/-- PMUL (R144). -/
def execPmul (core : BitVec 9) (s : State) : Out := .next (rgeCmd core.toNat 0x2C (bodyCt 0x2C core.toNat) s)

/-- CAUTO (R144). -/
def execCauto (core : BitVec 9) (s : State) : Out := .next (rgeCmd core.toNat 0x2D (bodyCt 0x2D core.toNat) s)

/-- CNTT (R144). -/
def execCntt (core : BitVec 9) (s : State) : Out := .next (rgeCmd core.toNat 0x2E (bodyCt 0x2E core.toNat) s)

/-- MODDOWN (R144, R145). -/
def execModdown (core : BitVec 9) (s : State) : Out := .next (rgeCmd core.toNat 0x2F (bodyCt 0x2F core.toNat) s)

/-- KEYSWITCH (R148 to R150). -/
def execKeyswitch (core : BitVec 9) (s : State) : Out := .next (rgeCmd core.toNat 0x30 (bodyKeyswitch core.toNat) s)

/-- MACC (R152). -/
def execMacc (core : BitVec 9) (s : State) : Out := .next (rgeCmd core.toNat 0x40 (bodyMacc core.toNat) s)

/-- SCATTER_ADD (R153, R201). -/
def execScatterAdd (core : BitVec 9) (s : State) : Out := .next (rgeCmd core.toNat 0x41 (bodyScatter core.toNat) s)

/-- LAGRANGE (R155, R156). -/
def execLagrange (core : BitVec 9) (s : State) : Out := .next (rgeCmd core.toNat 0x42 (bodyLagrange core.toNat) s)

/-- LFADD (R157). -/
def execLfadd (core : BitVec 9) (s : State) : Out := .next (rgeCmd core.toNat 0x48 (bodyLfadd core.toNat) s)

end Sys2Proof.Machine
end

