-- ==== Sys2Proof/Machine/Mkx.lean ====
section
/-!
DEFINITION. The mask expander (R160 to R166, R477): seed slots loaded and cleared, EXPAND, and coordinate
sampling (R198 to R200); and the DMA helper (R210 to R212).
-/

namespace Sys2Proof.Machine

/-! ### Mask expander -/

/-- The opcodes of Tables 6.1 and 7.9. -/
def mkxValid (op : Nat) : Bool := op = 0x01 || op = 0x02 || op = 0x10 || op = 0x20 || op = 0x21

/-- One MKX command as the row of an opcode (R166); it waits for a claim of the core's RGE that arrived before it, until
that command completes (R152). -/
def mkxCmd (k op : Nat) (body : Agent → EngEntry → Desc → State → Ran) (s : State) : State :=
  fifoCmd k .mkx mkxValid op stRing
    (fun _ x _ => (s.core k).rgeQ.any (fun y => match y.claim with
      | some n => n ≤ x.num
      | none => false)) body s

/-- SLOT of bytes 8 and 9. -/
def Desc.slot (d : Desc) : Nat := d.bits 8 0 8 + 256 * d.bits 9 0 4

/-- The ownership of a span of seed slots. -/
def State.spanOwned (s : State) (g : Agent) (slot n : Nat) : Status :=
  (List.range n).foldl (fun st i => joinCheck st (s.slotOwned g (slot + i))) stOk

/-- A seed slot takes a content. -/
def State.putSeed (s : State) (d n : Nat) (seed : Option (List Byte)) : State :=
  s.setSeedSlot d n { s.seedSlot d n with seed := seed, recon := false, vault := none }

/-- SEED_LOAD (R164). A poisoned source stops it after a prefix of the slots (log 40). -/
def bodySeedLoad (_k : Nat) (g : Agent) (_x : EngEntry) (d : Desc) (s : State) : Ran :=
  let n := d.n 12 4
  let src := d.n 16 8
  if ¬ (d.headOk && !d.skip && d.bits 9 4 4 = 0 && d.zero 10 2 && d.zero 24 40 && 1 ≤ n && n ≤ 4096 && src % 32 = 0 &&
      d.slot + n ≤ 4096) then fail s stRing
  else
    let own := s.spanOwned g d.slot n
    let chk := s.checkRange g false src (32 * n)
    let st := firstFail [(own = stOk, own), (chk = stOk, chk)]
    if st ≠ stOk then fail s st
    else
      let (s1, st1, vs) := (List.range n).foldl (fun (r : State × Status × List (List Byte)) i =>
        if r.2.1 ≠ stOk ∧ r.1.run.asks.isEmpty then r
        else
          let x := r.1.memRead g (src + 32 * i) 32
          (x.1, if r.2.1 ≠ stOk then r.2.1 else x.2.1, if x.2.1 = stOk then r.2.2 ++ [x.2.2] else r.2.2)) (s, stOk, [])
      let (s2, p) := if st1 = stOk then (s1, n) else s1.stopAt vs.length
      ((vs.take p).zipIdx.foldl (fun (t : State) v => t.putSeed g.die (d.slot + v.2) (some v.1)) s2, st1, none)

/-- SEED_CLEAR (R164). -/
def bodySeedClear (_k : Nat) (g : Agent) (_x : EngEntry) (d : Desc) (s : State) : Ran :=
  let n := d.n 12 4
  if ¬ (d.headOk && !d.skip && d.bits 9 4 4 = 0 && d.zero 10 2 && d.zero 16 48 && 1 ≤ n && n ≤ 4096 &&
      d.slot + n ≤ 4096) then fail s stRing
  else
    let own := s.spanOwned g d.slot n
    if own ≠ stOk then fail s own
    else ((List.range n).foldl (fun (t : State) i => t.putSeed g.die (d.slot + i) none) s, stOk, none)

/-- EXPAND (R165). -/
def bodyExpand (k : Nat) (g : Agent) (_x : EngEntry) (d : Desc) (s : State) : Ran :=
  let fmt := d.bits 10 0 4
  let n := d.n 12 4
  let dst := d.n 16 8
  let off := d.n 24 8
  let sz := ringSize fmt
  let chk := s.checkRange g true dst (n * sz)
  let own := s.slotOwned g d.slot
  let sl := s.seedSlot g.die d.slot
  let st := firstFail [
    (fmt < 12, stFormat),
    (d.headOk && !d.skip && d.bits 9 4 4 = 0 && d.bits 10 4 4 = 0 && d.zero 11 1 && (fmt = 9 || fmt = 10) && 1 ≤ n &&
      n ≤ 2 ^ 28 && d.zero 32 32 && dst % sz = 0 && off * sz % 16 = 0, stRing),
    (!s.conf g, stExportDenied), (own = stOk, own), (chk = stOk, chk), (sl.seed.isSome, stSeedEmpty)]
  if st ≠ stOk then fail s st
  else
    let (s1, st1) := s.engWrite g sz dst (streamBytes (sl.seed.getD []) (off * sz) (n * sz))
    (s1.countBlocks k ((n * sz + 15) / 16), st1, none)

/-- The shared checks of the sampling commands (R477, R200), then the coordinates included. -/
def sampleWith (index : Bool) (k : Nat) (g : Agent) (d : Desc) (s : State)
    (go : State → List Nat → Ran) : Ran :=
  let len := d.n 12 4
  let dst := d.n 16 8
  let base := d.n 24 8
  let own := s.slotOwned g d.slot
  let chk := s.checkRanges g (if index then [(true, dst, d.n 36 4 * 4), (true, d.n 40 8, 8)] else [(true, dst, 8)])
  let sl := s.seedSlot g.die d.slot
  let st := firstFail [
    (d.headOk && !d.skip && d.bits 9 4 4 = 0 && d.zero 10 2 && 1 ≤ len && len ≤ 2 ^ 28 && base % 4 = 0 &&
      1 ≤ d.n 32 4 && (if index then d.zero 48 16 && dst % 4 = 0 && d.n 40 8 % 8 = 0 else d.zero 36 28 && dst % 8 = 0),
      stRing),
    (own = stOk, own), (chk = stOk, chk), (sl.seed.isSome, stSeedEmpty), (!(s.conf g && sl.recon), stExportDenied)]
  if st ≠ stOk then fail s st
  else go (s.countBlocks k ((len + 3) / 4)) (included (sl.seed.getD []) (d.n 32 4) base len)

/-- SAMPLE_COUNT (R200). -/
def bodySampleCount (k : Nat) (g : Agent) (_x : EngEntry) (d : Desc) (s : State) : Ran :=
  sampleWith false k g d s (fun s cs =>
    let (s0, stw) := s.wicketAll g [(d.n 16 8, 8)]
    if stw ≠ stOk then fail s0 stw
    else
      let (s1, st) := s0.engWrite g 8 (d.n 16 8) (Crypto.leBytes 8 cs.length)
      (s1, st, none))

/-- SAMPLE_INDEX (R200). -/
def bodySampleIndex (k : Nat) (g : Agent) (_x : EngEntry) (d : Desc) (s : State) : Ran :=
  sampleWith true k g d s (fun s cs =>
    if d.n 36 4 < cs.length then fail s stSampleMismatch
    else
      let (s0, stw) := s.wicketAll g [(d.n 16 8, 4 * cs.length), (d.n 40 8, 8)]
      if stw ≠ stOk then fail s0 stw
      else
        let (s1, st) := s0.writeAll g [
          (d.n 16 8, (cs.map (fun c => Crypto.leBytes 4 (c - d.n 24 8))).flatten),
          (d.n 40 8, Crypto.leBytes 8 cs.length)]
        (s1.countBlocks k ((d.n 12 4 + 3) / 4), st, none))

/-! ### DMA helper -/

/-- The field checks of a DMA command (R210). SKIP, which R185 gives to MXE, RGE and MKX only, is refused (DESIGN CHOICE,
log 106). -/
def dmaFields (s : State) (g : Agent) (d : Desc) : Bool :=
  let len := d.n 32 8
  d.headOk && !d.skip && 1 ≤ len && len ≤ 2 ^ 32 &&
  (if d.n 0 1 = 1 then d.zero 8 8 && d.zero 48 16 && !s.overlap g.die (d.n 16 8, len) (d.n 24 8, len)
   else d.zero 16 8 && d.zero 40 24)

/-- One DMA command as the row of an opcode, where its class is admitted (R406): its fields before its PTAG (R211). -/
def dmaCmd (k op : Nat) (body : Agent → EngEntry → Desc → State → Ran) (s : State) : State :=
  if ¬ s.engReady k then s
  else match firstWaiting (s.core k).dmaQ with
    | none => s
    | some (i, x) =>
      let r := s.memRead (entryAgent k x) x.desc 64
      let d : Desc := r.2.2
      if runningMax ≤ ((s.core k).dmaQ.filter (fun y => y.status.isSome)).length ∨ ¬ s.admits x.cls then s
      else if r.2.1 ≠ stOk then r.1.finishEntry k .dma i (List.replicate 64 0) r.2.1 none
      else if heldByOrder (s.core k).dmaQ i x d then s
      else if ¬ (d.n 0 1 = 1 ∨ d.n 0 1 = 2) then r.1.finishEntry k .dma i d stDma none
      else if d.n 0 1 ≠ op then s
      else if ¬ dmaFields r.1 (cmdAgent k x d) d then r.1.finishEntry k .dma i d stDma none
      else if ¬ d.tagOk x.pid x.pgen then r.1.finishEntry k .dma i d stTag none
      else
        let o := body (cmdAgent k x d) x d r.1
        s.settle (.command x.num) (o.1.finishEntry k .dma i d o.2.1 o.2.2)

/-- The path of R177 that a copy takes, at the first destination byte that has one. -/
def State.copyPath (s : State) (g : Agent) (dst len : Nat) : Option Nat :=
  (List.range len).findSome? (fun i => s.wicketPath g (dst + i))

/-- The bytes of a copy written out; after a failing read, a prefix of unreported length (R211). -/
def State.copyOut (s : State) (g : Agent) (released : Bool) (dst : Nat) (st : Status) (out : List Byte) :
    State × Status × Nat :=
  let (s1, p) := if st = stOk then (s, out.length) else s.stopCut dst 1 out.length
  let (s2, st2) := (s1.noteOld g 1 dst (out.take p)).memWrite g released none dst (out.take p)
  (s2, if st ≠ stOk then st else st2, p)

/-- COPY (R210 to R212). A release is new work of the Wicket of the issuing die (Table 16.3) and of its partition
(Table 12.5 step 1). -/
def bodyCopy (_k : Nat) (g : Agent) (x : EngEntry) (d : Desc) (s : State) : Ran :=
  let src := d.n 16 8
  let dst := d.n 24 8
  let len := d.n 32 8
  let chk := s.checkRanges g [(false, src, len), (true, dst, len)]
  if chk ≠ stOk then fail s chk
  else match s.copyPath g dst len with
    | none =>
      let (s1, st, b) := s.memRead g src len
      let (s2, st2, _) := s1.copyOut g false dst st b
      (s2, st2, none)
    | some path =>
      let wd := dieOfCore x.core.toNat
      let (s1, why, r) := s.wicketCheck g (d.n 40 8) src len
      if ¬ s.takesWork (.die wd tyWicket 0) ∨ (s.part g.pid).st ≠ 2 then fail s stDisabled
      else if why ≠ 0 then fail (s1.wicketDeny wd g.pid path why) stReleaseDenied
      else
        let chk2 := s1.checkRange g true dst r.outLen
        if chk2 ≠ stOk then fail s1 chk2
        else
          let (s2, st, b) := (s1.acceptRelease wd g.pid r).memRead g src len
          let (s3, out) := if r.isSealed then s2.sealBytes g.pid r b else (s2, b)
          let (s4, st4, p) := s3.copyOut g true dst st (if st = stOk then out else out.take (if r.isSealed then 64 + b.length else b.length))
          ({ s4.bump64 (.die wd tyWicket 0) 0x108 p with
             run := { s4.run with sealing := if r.isSealed then some r.slot else none } }, st4, r.holds)

/-- FILL (R210). -/
def bodyFill (_k : Nat) (g : Agent) (_x : EngEntry) (d : Desc) (s : State) : Ran :=
  let dst := d.n 24 8
  let len := d.n 32 8
  let chk := s.checkRange g true dst len
  if chk ≠ stOk then fail s chk
  else
    let (s1, stw) := s.wicketAll g [(dst, len)]
    if stw ≠ stOk then fail s1 stw
    else
      let (s2, st) := s1.engWrite g 1 dst ((List.range len).map (fun i => BitVec.ofNat 8 (d.n (8 + i % 8) 1)))
      (s2, st, none)

/-! ### The rows -/

/-- SEED_LOAD (R164). -/
def execSeedLoad (core : BitVec 9) (s : State) : Out := .next (mkxCmd core.toNat 0x01 (bodySeedLoad core.toNat) s)

/-- SEED_CLEAR (R164). -/
def execSeedClear (core : BitVec 9) (s : State) : Out := .next (mkxCmd core.toNat 0x02 (bodySeedClear core.toNat) s)

/-- EXPAND (R165). -/
def execExpand (core : BitVec 9) (s : State) : Out := .next (mkxCmd core.toNat 0x10 (bodyExpand core.toNat) s)

/-- SAMPLE_COUNT (R200). -/
def execSampleCount (core : BitVec 9) (s : State) : Out :=
  .next (mkxCmd core.toNat 0x20 (bodySampleCount core.toNat) s)

/-- SAMPLE_INDEX (R200). -/
def execSampleIndex (core : BitVec 9) (s : State) : Out :=
  .next (mkxCmd core.toNat 0x21 (bodySampleIndex core.toNat) s)

/-- COPY (R210). -/
def execCopy (core : BitVec 9) (s : State) : Out := .next (dmaCmd core.toNat 0x01 (bodyCopy core.toNat) s)

/-- FILL (R210). -/
def execFill (core : BitVec 9) (s : State) : Out := .next (dmaCmd core.toNat 0x02 (bodyFill core.toNat) s)

end Sys2Proof.Machine
end

