-- ==== Sys2Proof/Machine/Nsu.lean ====
section
/-!
DEFINITION. The noise sampler of a cluster (R167 to R176): submission, ADD_NOISE with its freeze and token,
UNFREEZE, SAMPLE, completion and reseeding. What submission shares with the expert router (R169, R190).
-/

namespace Sys2Proof.Machine

/-! ### Submission (R169, R190) -/

/-- The page of a cluster's unit: 2 NSU, 3 ROUTER. -/
abbrev pgNsu : Nat := 2
abbrev pgRouter : Nat := 3

/-- The waiting requests of a unit. -/
def ClusterSt.unitQ (c : ClusterSt) (u : Nat) : List UnitReq := if u = pgNsu then c.nsuQ else c.rtrQ

/-- The waiting requests of a unit replaced. -/
def ClusterSt.setUnitQ (c : ClusterSt) (u : Nat) (l : List UnitReq) : ClusterSt :=
  if u = pgNsu then { c with nsuQ := l } else { c with rtrQ := l }

/-- A unit of a cluster as the doer of its requests. -/
def unitDoer (u c : Nat) : Doer := if u = pgNsu then .nsu (BitVec.ofNat 5 c) else .router (BitVec.ofNat 5 c)

/-- The agent of a request of a cluster's unit. -/
def unitAgent (u c : Nat) (r : UnitReq) (cls : Nat) : Agent :=
  { die := dieOfCluster c, pid := r.pid, cls := cls, sel := ((r.core.map BitVec.toNat).getD (16 * c)) * 16, port := c,
    doer := unitDoer u c }

/-- The agent that writes the status byte of a request: nothing waits for the answer. -/
def statusAgent (c : Nat) (r : UnitReq) : Agent :=
  { die := dieOfCluster c, pid := r.pid, cls := 1, sel := ((r.core.map BitVec.toNat).getD (16 * c)) * 16, port := c }

/-- The status byte of a request written in the request's class (R213), where `own` names the frozen range of the partition
that its writes pass (R174). -/
def State.unitStatus (s : State) (c : Nat) (r : UnitReq) (own : Option Nat) (st : Status) : State :=
  (s.memWrite { statusAgent c r with cls := s.clsAt (dieOfCluster c) r.addr } false (own.map (fun n => (r.pid, n)))
    (r.addr + 3) [st]).1

/-- LAST_ERR of a unit: opcode and status. -/
def State.unitErr (s : State) (c u op : Nat) (st : Status) : State :=
  s.wrN (s.clusterPage c u) 0x11C (op * 256 + st.toNat)

/-- A submission: LAST_ERR where the address is not usable (log 47), DISABLED or the busy status in the
request's status byte, or the request queued. -/
def State.unitSubmit (s : State) (c u : Nat) (r : UnitReq) : State :=
  let g := statusAgent c r
  let chk := if r.addr % 64 ≠ 0 then stUnmapped else s.ownedRange g r.addr 64
  let answer := s.unitStatus c r none
  if chk ≠ stOk then s.unitErr c u 0 chk
  else if ¬ s.takesWork (s.clusterPage c u) then answer stDisabled
  else if 16 ≤ ((s.cluster c).unitQ u).length then answer (if u = pgNsu then stNsuBusy else stRouterBusy)
  else
    let x := s.cluster c
    s.setCluster c (x.setUnitQ u (x.unitQ u ++ [r]))

/-- The end of a request: its status byte, then DONE, then LAST_ERR for a failing one, and the wait count to the
submitting core (R169, R195, R299). The writes of an ADD_NOISE pass its own frozen range, named by `own` (R174). -/
def State.unitDone (s : State) (c u : Nat) (r : UnitReq) (op : BitVec 8) (own : Option Nat) (waits : Nat)
    (st0 : Status) : State :=
  let st := withDelay (waits ≠ 0) (closed st0)
  let s1 := (s.countSegment st0).unitStatus c r own st
  let s2 := s1.bump (s1.clusterPage c u) 0x10C 1
  let s3 := if failing st then s2.unitErr c u op.toNat st else s2
  match r.core with
  | some k => s3.bump (s3.corePage k.toNat 0) 0x134 waits
  | none => s3

/-- The first part of a request's checks that all requests share: readable, in its class (R213), then PTAG. -/
def State.unitReq (s : State) (u c : Nat) (r : UnitReq) : State × Status × Desc :=
  let x := s.memRead (unitAgent u c r (s.clsAt (dieOfCluster c) r.addr)) r.addr 64
  let d : Desc := x.2.2
  (x.1, if x.2.1 ≠ stOk then x.2.1 else if ¬ d.tagOk r.pid (s.part r.pid).pgen then stTag else stOk, d)

/-- Byte 1 zero and the reserved bits of byte 2 and of PTAG clear (R170, R5). -/
def unitHeadOk (d : Desc) : Bool := d.n 1 1 = 0 && d.bits 2 2 6 = 0 && d.bits 4 5 3 = 0

/-! ### The noise sampler -/

/-- What a cluster's DRBG has taken in once a reseed has served it. -/
def State.nsuReseeded (s : State) (c : Nat) : List Byte := ((s.cluster c).nsuKey).getD [] ++ (s.drawInternal 3 48).2.2

/-- The sampler of a cluster asks Seedbed for the 48 bytes of a seeding or reseed (R168). -/
def State.nsuSeed (s : State) (c : Nat) : State × Status :=
  let (s1, st, _) := s.drawInternal 3 48
  (if st = stOk then s1.setCluster c { s1.cluster c with nsuKey := some (s.nsuReseeded c), drawn := 0 } else s1, st)

/-- The randomness of a sampler for a request of n draws: RNG_FAILED, RNG_NOT_READY or OK (R168), and the state after the
reseed that is due at 2^32 samples, or after Seedbed has answered that it is not ready. A request that passes 2^32 samples
needs its reseed on the way; where Seedbed would not serve that, the request writes nothing (log 48). -/
def State.nsuRandom (s : State) (c n : Nat) : State × Status :=
  let x := s.cluster c
  if s.seedMode = 3 then (s, stRngFailed)
  else if x.nsuKey.isNone then (s, stRngNotReady)
  else if 2 ^ 32 ≤ x.drawn then s.nsuSeed c
  else if 2 ^ 32 < x.drawn + n ∧ (s.drawInternal 3 48).2.1 ≠ stOk then ((s.drawInternal 3 48).1, (s.drawInternal 3 48).2.1)
  else (s, stOk)

/-- Draws taken by a cluster's sampler: their count since the seeding, SAMPLES, and the position of the next, with the
reseed after 2^32 samples (R168, Table 6.7). -/
def State.nsuDraw (s0 : State) (c n : Nat) : State :=
  let past := 2 ^ 32 < (s0.cluster c).drawn + n
  let s := if past then (s0.drawInternal 3 48).1 else s0
  let x := s.cluster c
  (s.setCluster c { x with
    nsuKey := if past then some (s0.nsuReseeded c) else x.nsuKey
    drawn := x.drawn + n - (if past then 2 ^ 32 else 0), drawPos := x.drawPos + n }).bump64 (s.clusterPage c pgNsu) 0x110 n

/-- What the start of a request gives: its status if it has one, the serial that an UNFREEZE waits on, the key held, and of
an ADD_NOISE its frozen entry and its token. -/
structure NsuRes where
  status : Option Status
  serial : Option Nat
  key    : Option (BitVec 8)
  own    : Option Nat
  token  : Option (Nat × List Byte)
deriving DecidableEq, Repr

/-- A request that ends with a status. -/
def NsuRes.done (st : Status) : NsuRes := { status := some st, serial := none, key := none, own := none, token := none }

/-- Noise sample i of a request from here on (R167; free, log 17): those past 2^32 follow the reseed. -/
def State.noise (s : State) (c : Nat) (d : Desc) (i : Nat) : Int :=
  let x := s.cluster c
  Config.noiseSample (if x.drawn + i < 2 ^ 32 then x.nsuKey.getD [] else s.nsuReseeded c) (d.bits 8 0 1 = 1)
    (BitVec.ofNat 32 (d.n 24 4)) (BitVec.ofNat 32 (d.n 28 4)) (x.drawPos + i)

/-- A buffer lies in Press or HBM of the partition itself (Table 6.2). -/
def State.noiseRange (s : State) (g : Agent) (a n : Nat) : Status :=
  (List.range n).foldl (fun st i => joinCheck st (match s.place g.die (a + i) with
    | .drawer _ _ => stBound
    | .host _ => stBound
    | .remote _ _ => stBound
    | _ => stOk)) (s.ownedRange g a n)

/-- A request of the sampler starts: the queue without it, and its run. -/
def State.nsuStart (s : State) (c : Nat) (run : NsuRun) : State :=
  let x := s.cluster c
  s.setCluster c { x with nsuQ := x.nsuQ.drop 1, nsuRun := some run }

/-- The front request of a sampler as the row of an opcode: fails PTAG or its opcode under any row. -/
def nsuCmd (c : Nat) (op : Nat) (body : Agent → Desc → State → State × NsuRes) (s : State) : State :=
  let x := s.cluster c
  match x.nsuRun, x.nsuQ with
  | none, r :: _ =>
    if ¬ s.engOn ∨ (s.physCluster c).isNone then s
    else
      let (s1, st, d) := s.unitReq pgNsu c r
      let o := d.n 0 1
      let start := fun (t : State) (x : NsuRes) =>
        t.nsuStart c { req := r, op := BitVec.ofNat 8 o, status := x.status, serial := x.serial, key := x.key,
                       cls := BitVec.ofNat 2 (d.bits 2 0 2), demoted := t.run.demoted, c3 := t.run.touch, own := x.own,
                       token := x.token, undo := t.run.undo }
      if s.disabling (s.clusterPage c pgNsu) ∨ ¬ s.enabled (s.clusterPage c pgNsu) then start s (NsuRes.done stDisabled)
      else if st ≠ stOk then start s1 (NsuRes.done st)
      else if ¬ (o = 1 ∨ o = 2 ∨ o = 3) then start s1 (NsuRes.done stRing)
      else if o ≠ op then s
      else
        let (s2, x) := body (unitAgent pgNsu c r (d.bits 2 0 2)) d s1
        s.settle (unitDoer pgNsu c) (start s2 x)
  | _, _ => s

/-- The live entries of the frozen-range table. -/
def State.frozenUsed (s : State) : Nat := (s.frozen.filter (fun f => f.live)).length

/-- The buffer overlaps a frozen range (R171 step 9). -/
def State.frozenOverlap (s : State) (a n : Nat) : Bool :=
  s.frozen.any (fun f => f.live && f.base < a + n && a < f.base + f.len)

/-- The reserved fields of a noise request with the header's (Table 6.2, R5). -/
def noiseReservedOk (d : Desc) : Bool := unitHeadOk d && d.bits 8 1 3 = 0 && d.zero 9 3 && d.zero 44 4

/-- ADD_NOISE's checks 2 to 6 (R171). -/
def addNoiseCheck (s : State) (g : Agent) (d : Desc) : Status :=
  let fmt := d.bits 8 4 4
  let n := d.n 12 4
  let sz := ringSize fmt
  let buf := s.noiseRange g (d.n 16 8) (n * sz)
  let tok := s.checkRange g true (d.n 48 8) 128
  firstFail [
    (fmt < 12, stFormat),
    (noiseReservedOk d && (fmt = 9 || fmt = 10) && 1 ≤ n && n ≤ 2 ^ 26 && d.n 16 8 % 64 = 0 && d.n 48 8 % 64 = 0, stRing),
    (joinCheck buf tok = stOk, joinCheck buf tok),
    (d.n 24 4 ≠ 0 && d.n 28 4 ≠ 0, stNoiseParam),
    ((s.part g.pid).policyOk (d.bits 8 0 1) (d.n 24 4) (d.n 28 4), stNoisePolicy),
    ((s.part g.pid).kmin.toNat ≤ d.n 40 4, stCohort)]

/-- The token of a noised buffer (R173). -/
def tokenBytes (key : List Byte) (serial ptag : Nat) (d : Desc) (noised : List Byte) : List Byte :=
  let body := Crypto.leBytes 8 serial ++ Crypto.leBytes 8 (d.n 32 8) ++ Crypto.leBytes 4 ptag ++ Crypto.leBytes 1 (d.n 8 1) ++
    List.replicate 3 0 ++ Crypto.leBytes 4 (d.n 24 4) ++ Crypto.leBytes 4 (d.n 28 4) ++ Crypto.leBytes 8 (d.n 16 8) ++
    Crypto.leBytes 4 (d.n 12 4) ++ Crypto.leBytes 4 (d.n 40 4) ++ Crypto.sha384 noised
  body ++ tokenMac key body

/-- A frozen entry released (R172, R175). -/
def State.thawed (s : State) (pid : BitVec 5) (serial : Nat) : State :=
  { s with frozen := s.frozen.filter (fun e => !(e.pid = pid && e.serial = serial)) }

/-- ADD_NOISE (R171 to R174): the Wicket's check of TOKEN_ADDR (R177) comes after the list of R171 and before the freeze
(DESIGN CHOICE, log 106). The buffer is noised under its freeze; the token is written when the request completes. -/
def bodyAddNoise (c : Nat) (g : Agent) (d : Desc) (s : State) : State × NsuRes :=
  let st := addNoiseCheck s g d
  let fmt := d.bits 8 4 4
  let n := d.n 12 4
  let sz := ringSize fmt
  let buf := d.n 16 8
  if st ≠ stOk then (s, NsuRes.done st)
  else match s.slotWith g.pid mbMac with
    | none => (s, NsuRes.done stKeyDenied)
    | some slot =>
      let (stk, key) := s.keyRequest g.pid slot mbMac
      let r := if stk = stOk then s.nsuRandom c n else (s, stOk)
      let st2 := firstFail [(stk = stOk, stk), (r.2 = stOk, r.2),
        (!s.frozenOverlap (localOf buf) (n * sz), stFrozenOverlap), (s.frozenUsed < 64, stFreezeFull)]
      let (s0, stw) := r.1.wicketAll g [(d.n 48 8, 128)]
      if st2 ≠ stOk then (r.1, NsuRes.done st2)
      else if stw ≠ stOk then (s0, NsuRes.done stw)
      else
        let p := s0.part g.pid
        let serial := p.serial + 1
        let f : Frozen := { pid := g.pid, pgen := p.pgen, serial := serial, base := localOf buf, len := n * sz,
                            live := true, thaw := false, rels := 0 }
        let s1 := { s0.setPart g.pid { p with serial := serial } with frozen := s0.frozen ++ [f] }
        let (s2, st3, vs) := s1.vecRead g n (fun i => [(buf + i * sz, sz)])
        let (s3, m) := if st3 = stOk then (s2, n) else s2.stopCut buf sz vs.length
        let noised := ((vs.take m).zipIdx.map (fun v =>
          Crypto.leBytes sz (ofSigned (8 * sz) (v.1.getD 0 0 + r.1.noise c d v.2)))).flatten
        let (s4, st4) := ((s3.nsuDraw c m).noteOld g sz buf noised).memWrite g false (some (g.pid, serial)) buf noised
        let st5 := if st3 ≠ stOk then st3 else st4
        if st5 ≠ stOk then (s4.thawed g.pid serial, { NsuRes.done st5 with key := some slot })
        else (s4.countKeyOp slot, { NsuRes.done stOk with
          key := some slot, own := some serial
          token := some (d.n 48 8, tokenBytes key serial (s4.ptag g.pid) d noised) })

/-- UNFREEZE (R175): from here no new release names the token. R168 has every request meet the generator's state; its place
before the serial's follows R473 (log 48). -/
def bodyUnfreeze (c : Nat) (g : Agent) (d : Desc) (s : State) : State × NsuRes :=
  let n := d.n 56 8
  let r := if noiseReservedOk d then s.nsuRandom c 0 else (s, stOk)
  let st := firstFail [(noiseReservedOk d, stRing), (r.2 = stOk, r.2),
    (s.frozen.any (fun f => f.live && f.pid = g.pid && f.serial = n), stTokenUnknown)]
  if st ≠ stOk then (r.1, NsuRes.done st)
  else
    ({ r.1 with frozen := s.frozen.map (fun f => if f.pid = g.pid ∧ f.serial = n then { f with thaw := true } else f) },
      { status := none, serial := some n, key := none, own := none, token := none })

/-- SAMPLE (R176). R176 gives its checks no order: that of R473 is taken, fields, ranges, then R167, R168 and R176 in the
order of the rules (log 48). -/
def bodySample (c : Nat) (g : Agent) (d : Desc) (s : State) : State × NsuRes :=
  let n := d.n 12 4
  let buf := d.n 16 8
  let fmt := d.bits 8 4 4
  let chk := joinCheck (s.noiseRange g buf (n * 8)) (s.checkRange g true buf (n * 8))
  let st := firstFail [
    (fmt < 12, stFormat),
    (noiseReservedOk d && (fmt = 9 || fmt = 10) && 1 ≤ n && n ≤ 2 ^ 26 && buf % 64 = 0, stRing),
    (chk = stOk, chk), (d.n 24 4 ≠ 0 && d.n 28 4 ≠ 0, stNoiseParam)]
  if st ≠ stOk then (s, NsuRes.done st)
  else
    let (s0, rnd) := s.nsuRandom c n
    if rnd ≠ stOk then (s0, NsuRes.done rnd)
    else if s.conf g then (s0, NsuRes.done stExportDenied)
    else
      let (s1, st1) := (s0.nsuDraw c n).engWrite g 8 buf
        (((List.range n).map (fun i => Crypto.leBytes 8 (ofSigned 64 (s0.noise c d i)))).flatten)
      (s1, NsuRes.done st1)

/-- ADD_NOISE (R171, R172). -/
def execAddNoise (cluster : BitVec 5) (s : State) : Out :=
  .next (nsuCmd cluster.toNat 1 (bodyAddNoise cluster.toNat) s)

/-- UNFREEZE (R175). -/
def execUnfreeze (cluster : BitVec 5) (s : State) : Out := .next (nsuCmd cluster.toNat 2 (bodyUnfreeze cluster.toNat) s)

/-- SAMPLE (R176). -/
def execSample (cluster : BitVec 5) (s : State) : Out := .next (nsuCmd cluster.toNat 3 (bodySample cluster.toNat) s)

/-- UNFREEZE_COMPLETE (R175): once no accepted release is left, the entry goes and the range is writable. -/
def execUnfreezeComplete (cluster : BitVec 5) (s : State) : Out :=
  let x := s.cluster cluster.toNat
  match x.nsuRun with
  | none => .next s
  | some run =>
    match run.serial with
    | none => .next s
    | some n =>
      let mine := fun (f : Frozen) => f.pid = run.req.pid && f.serial = n
      if run.status.isSome ∨ s.frozen.any (fun f => mine f && f.rels ≠ 0) then .next s
      else .next ({ s with frozen := s.frozen.filter (fun f => !mine f) }.setCluster cluster.toNat
        { x with nsuRun := some { run with status := some stOk } })

/-- The token of an ADD_NOISE written, which its own freeze does not stop (R172, R174); none of a request that has failed. -/
def State.writeToken (s : State) (c : Nat) (run : NsuRun) (st : Status) : State × Status :=
  match run.token, run.own with
  | some (a, b), some n =>
    if failing st then (s, st)
    else
      let (s1, st1) := s.memWrite (unitAgent pgNsu c run.req run.cls.toNat) false (some (run.req.pid, n)) a b
      (s1, if st1 ≠ stOk then st1 else st)
  | _, _ => (s, st)

/-- The running request of a sampler ends with a status: one whose token was not written releases its freeze (R172). -/
def State.endNsu (s : State) (c : Nat) (run : NsuRun) (waits : Nat) (st : Status) : State :=
  let doer := unitDoer pgNsu c
  let n := if delayable run.cls (run.demoted || s.opDemoted doer) then waits else 0
  let s1 := (s.setCluster c { s.cluster c with nsuRun := none }).dropOps doer
  let s2 := match run.own with
    | some serial => if failing st then s1.thawed run.req.pid serial else s1
    | none => s1
  s2.unitDone c pgNsu run.req run.op run.own n st

/-- NSU_COMPLETION (R169): the running request ends with its results, then its status byte, and its key is discarded
(R310); `waits` is its wait count where its class can be delayed (R299, log 21). A token in the memory of another device is
sent first, and the request ends with the answer (R38, R474). -/
def execNsuCompletion (cluster : BitVec 5) (waits : BitVec 24) (s : State) : Out :=
  let c := cluster.toNat
  let x := s.cluster c
  match x.nsuRun with
  | none => .next s
  | some run =>
    match run.status with
    | none => .next s
    | some st =>
      let doer := unitDoer pgNsu c
      if ¬ s.answered doer then .next s
      else
        let (s1, st1) := s.writeToken c run (s.withAnswers doer st)
        if s1.answered doer then .next (s1.endNsu c run waits.toNat st1)
        else .next (s1.setCluster c { s1.cluster c with nsuRun := some { run with token := none } })

/-- NSU_RESEED (R168): the sampler of a held cluster draws 48 bytes where it is unseeded or has drawn 2^32
samples. -/
def execNsuReseed (cluster : BitVec 5) (s : State) : Out :=
  let c := cluster.toNat
  let x := s.cluster c
  if (s.clusterOwner c).isSome ∧ (x.nsuKey.isNone ∨ 2 ^ 32 ≤ x.drawn) then
    .next (s.nsuSeed c).1
  else .next s

end Sys2Proof.Machine
end

