-- ==== Sys2Proof/Machine/Router.lean ====
section
/-!
DEFINITION. The expert router of a cluster (R190 to R197): GATE_LOAD, ROUTE with its selection, capacity and
records, the dispatch of items, and completion.
-/

namespace Sys2Proof.Machine

/-- The front request of a router as the row of an opcode. The body answers the state, the items still to put,
and the status so far. -/
def routerCmd (c op : Nat)
    (body : Agent → Desc → State → State × List (BitVec 2 × BitVec 12 × Word) × Status) (s : State) : State :=
  let x := s.cluster c
  match x.rtrRun, x.rtrQ with
  | none, r :: _ =>
    if ¬ s.engOn ∨ (s.physCluster c).isNone then s
    else
      let (s1, st, d) := s.unitReq pgRouter c r
      let o := d.n 0 1
      let start := fun (t : State) (items : List (BitVec 2 × BitVec 12 × Word)) (st : Status) =>
        let y := t.cluster c
        let run : RouteRun :=
          { req := r, op := BitVec.ofNat 8 o, items := items, status := st, cls := BitVec.ofNat 2 (d.bits 2 0 2),
            demoted := t.run.demoted, c3 := t.run.touch }
        t.setCluster c { y with rtrQ := y.rtrQ.drop 1, rtrRun := some run }
      if ¬ s.takesWork (s.clusterPage c pgRouter) then start s [] stDisabled
      else if st ≠ stOk then start s1 [] st
      else if ¬ (o = 1 ∨ o = 2) then start s1 [] stRoute
      else if o ≠ op then s
      else
        let (s2, items, st2) := body (unitAgent pgRouter c r (d.bits 2 0 2)) d s1
        s.settle (unitDoer pgRouter c) (start s2 items st2)
  | _, _ => s

/-- The reserved bits of a request are clear (Table 7.4). -/
def routerHeadOk (d : Desc) : Bool :=
  unitHeadOk d && d.bits 8 6 2 = 0 && d.bits 9 4 4 = 0 && d.bits 11 3 5 = 0 && d.zero 38 2 && d.zero 56 8

/-- A gate-table entry of 16 bytes. -/
def gateOf (b : Desc) : Gate :=
  { bias := BitVec.ofNat 32 (b.n 0 4), core := BitVec.ofNat 9 (b.n 4 2), queue := BitVec.ofNat 12 (b.n 6 2),
    valid := b.bits 8 0 1 = 1 }

/-- The entry passes R191. -/
def State.gateOk (s : State) (pid : BitVec 5) (b : Desc) : Bool :=
  let e := gateOf b
  let k := e.core.toNat
  let q := s.queue (dieOfCore k) e.queue
  b.n 4 2 < 512 && b.n 6 2 < 4096 && b.bits 8 1 7 = 0 && b.zero 9 7 &&
  (!e.valid ||
    ((match fp32 e.bias with
      | .fin _ _ _ => true
      | _ => false) &&
     (s.physCore k).isSome && s.coreOwner k = some pid && q.pid = some pid && q.kind = 1))

/-- GATE_LOAD (R191). The fields of Table 7.4 that it does not use are ignored (DESIGN CHOICE, log 106). -/
def bodyGateLoad (c : Nat) (g : Agent) (d : Desc) (s : State) :
    State × List (BitVec 2 × BitVec 12 × Word) × Status :=
  let a := d.n 16 8
  let chk := s.checkRange g false a 16384
  let st := firstFail [(routerHeadOk d && a % 64 = 0, stRoute), (chk = stOk, chk)]
  if st ≠ stOk then (s, [], st)
  else
    let (s1, st1, b) := s.memRead g a 16384
    let es : List Desc := (List.range 1024).map (fun i => (b.drop (16 * i)).take 16)
    if st1 ≠ stOk then (s1, [], st1)
    else if ¬ es.all (fun e => s1.gateOk g.pid e) then (s1, [], stRouteTable)
    else (s1.setCluster c { s1.cluster c with gate := some (es.map gateOf) }, [], stOk)

/-- A score and its expert, ranked: a larger biased score first, ties to the lower expert (R193). -/
def rankInsert (x : FV × Nat) : List (FV × Nat) → List (FV × Nat)
  | [] => [x]
  | y :: ys => if y.1.lt x.1 then x :: y :: ys else y :: rankInsert x ys

/-- The unbiased score in FP32. -/
def scoreFp32 (fmt v : Nat) : BitVec 32 := if fmt = 0 then BitVec.ofNat 32 v else BitVec.ofNat 32 (v * 65536)

/-- The experts selected for a row of scores, by rank (R193). -/
def selectExperts (fmt k : Nat) (gate : List Gate) (row : List Nat) : List Nat :=
  let ranked := row.zipIdx.foldl (fun (l : List (FV × Nat)) p =>
    match gate[p.2]? with
    | none => l
    | some e =>
      let v := fp32 (scoreFp32 fmt p.1)
      if ¬ e.valid ∨ v = .nan then l else rankInsert (fp32 (toFp32Ieee (v.add (fp32 e.bias))), p.2) l) []
  (ranked.take k).map Prod.snd

/-- The weights of the selected experts (R193; softmax within its bound, log 18). -/
def gateWeights (norm : Bool) (fmt : Nat) (row : List Nat) (sel : List Nat) : List (BitVec 32) :=
  let raw := sel.map (fun e => scoreFp32 fmt (row.getD e 0))
  if norm then softmaxBits raw else raw

/-- A route in progress: accepted counts per expert, drops, records, and accepted pairs (token, rank, expert). -/
structure RouteAcc where
  counts : List Nat
  drops  : Nat
  recs   : List Nat
  pairs  : List (Nat × Nat × Nat)
deriving DecidableEq, Repr

/-- One token's pairs in increasing rank (R194). -/
def RouteAcc.token (cap k : Nat) (t : Nat) (sel : List Nat) (ws : List (BitVec 32)) (a : RouteAcc) : RouteAcc :=
  (List.range k).foldl (fun (a : RouteAcc) j =>
    match sel[j]? with
    | none => { a with recs := a.recs ++ [2 ^ 14] }
    | some e =>
      let w := (ws.getD j 0).toNat
      let n := a.counts.getD e 0
      if cap = 0 ∨ n < cap then
        { a with counts := a.counts.set e (n + 1), recs := a.recs ++ [e + w * 2 ^ 32], pairs := a.pairs ++ [(t, j, e)] }
      else { a with drops := a.drops + 1, recs := a.recs ++ [e + 2 ^ 15 + w * 2 ^ 32] }) a

/-- A token item and an end item (Table 7.7). -/
def tokenItem (act j e : Nat) : Word := BitVec.ofNat 64 (j * 2 ^ 60 + e * 2 ^ 50 + act % 2 ^ 40)
def endItem (e n : Nat) : Word := BitVec.ofNat 64 (2 ^ 63 + e * 2 ^ 50 + n)

/-- ROUTE (R192 to R195): the records and count words are written, and the items wait for dispatch. A reserved format code is
FORMAT_INVALID (R40), which prevails over ROUTE_INVALID as in R476 (log 49); SCORE_ADDR must be a multiple of the element size (DESIGN CHOICE,
log 106). -/
def bodyRoute (c : Nat) (g : Agent) (d : Desc) (s : State) :
    State × List (BitVec 2 × BitVec 12 × Word) × Status :=
  let fmt := d.bits 8 0 4
  let norm := d.bits 8 4 1 = 1
  let k := d.bits 9 0 4
  let e := d.n 10 2
  let t := d.n 12 4
  let sA := d.n 16 8
  let act := d.n 24 8
  let stride := d.n 32 4
  let aA := d.n 40 8
  let cA := d.n 48 8
  let sz := if fmt = 0 then 4 else 2
  let chk := s.checkRanges g [(false, sA, t * e * sz), (true, aA, t * k * 8), (true, cA, e * 8)]
  let st := firstFail [
    (fmt < 12, stFormat),
    (routerHeadOk d && (fmt = 0 || fmt = 2) && 1 ≤ k && k ≤ 8 && 1 ≤ e && e ≤ 1024 && 1 ≤ t && t ≤ 65536 &&
      act + (t - 1) * stride < 2 ^ 40 && sA % sz = 0 && aA % 8 = 0 && cA % 8 = 0, stRoute),
    (chk = stOk, chk), ((s.cluster c).gate.isSome, stRouteTable)]
  if st ≠ stOk then (s, [], st)
  else
    let gate := ((s.cluster c).gate.getD []).take e
    let (s0, stw) := s.wicketAll g [(aA, t * k * 8), (cA, e * 8)]
    if stw ≠ stOk then (s0, [], stw)
    else
      let (s1, st1, rows) := s0.vecRead g t (fun i => (List.range e).map (fun x => (sA + (i * e + x) * sz, sz)))
      let acc := rows.zipIdx.foldl (fun (a : RouteAcc) r =>
        let sel := selectExperts fmt k gate r.1
        a.token (d.n 36 2) k r.2 sel (gateWeights norm fmt r.1 sel)) { counts := List.replicate e 0, drops := 0, recs := [], pairs := [] }
      let (s2, st2, _) := s1.vecWrite g st1 aA 8 acc.recs
      if st2 ≠ stOk then (s2, [], st2)
      else
        let (s3, st3, _) := s2.vecWrite g stOk cA 8 acc.counts
        let s4 := s3.bump (s3.clusterPage c pgRouter) 0x118 acc.drops
        let goal := fun (x : Nat) => match gate[x]? with
          | some y => (BitVec.ofNat 2 (dieOfCore y.core.toNat), y.queue)
          | none => (0, 0)
        let items := acc.pairs.map (fun p => ((goal p.2.2).1, (goal p.2.2).2, tokenItem (act + p.1 * stride) p.2.1 p.2.2)) ++
          (if d.bits 8 5 1 = 1 then
            ((List.range e).filter (fun x => (gate[x]?.map Gate.valid).getD false)).map (fun x =>
              ((goal x).1, (goal x).2, endItem x (acc.counts.getD x 0)))
           else [])
        if st3 ≠ stOk then (s4, [], st3) else (s4, items, stOk)

/-- GATE_LOAD (R191). -/
def execGateLoad (cluster : BitVec 5) (s : State) : Out :=
  .next (routerCmd cluster.toNat 1 (bodyGateLoad cluster.toNat) s)

/-- ROUTE (R192 to R195). -/
def execRoute (cluster : BitVec 5) (s : State) : Out := .next (routerCmd cluster.toNat 2 (bodyRoute cluster.toNat) s)

/-- The items of a route for a queue discarded, with the status that the route then takes (R196). -/
def RouteRun.discard (r : RouteRun) (d : Nat) (q : BitVec 12) (st : Status) : RouteRun :=
  if r.items.any (fun i => i.1.toNat = d && i.2.1 = q) then
    { r with items := r.items.filter (fun i => !(i.1.toNat = d && i.2.1 = q)), status := if r.status = stOk then st else r.status }
  else r

/-- Every router that still has items for a queue discards them (R196, R283, R284). -/
def State.routersDiscard (s : State) (d : Nat) (q : BitVec 12) (st : Status) : State :=
  { s with clusters := s.clusters.map (fun e => (e.1, { e.2 with rtrRun := e.2.rtrRun.map (fun r => r.discard d q st) })) }

/-- The status of a route whose records or counts another device refused. -/
def RouteRun.refused (r : RouteRun) (st : Status) : RouteRun :=
  { r with items := [], status := if r.status = stOk then st else r.status }

/-- ROUTER_ITEM_DISPATCH (R195, R196): once every record and count word is written, the next item is put against credit; a
queue that takes none loses its items. A route whose writes another device refused puts no item. -/
def execRouterItemDispatch (cluster : BitVec 5) (s : State) : Out :=
  let c := cluster.toNat
  let x := s.cluster c
  match x.rtrRun with
  | none => .next s
  | some run =>
    match run.items with
    | [] => .next s
    | (d, q, item) :: rest =>
      let y := s.queue d.toNat q
      let doer := unitDoer pgRouter c
      if ¬ s.answered doer then .next s
      else if s.withAnswers doer stOk ≠ stOk then
        .next (s.setCluster c { x with rtrRun := some (run.refused (s.withAnswers doer stOk)) })
      else if s.queueOff d.toNat q ∨ y.kind ≠ 1 ∨ y.pid ≠ some run.req.pid then
        .next (s.setCluster c { x with rtrRun := some (run.discard d.toNat q stDisabled) })
      else if ¬ y.hasCredit (.router cluster) then .next s
      else
        let s1 := s.setCluster c { x with rtrRun := some { run with items := rest } }
        let s2 := if item.msb then s1 else s1.bump64 (s1.clusterPage c pgRouter) 0x110 1
        .next (s2.append d.toNat q item (.router cluster))

/-- ROUTER_COMPLETION (R195): after the last item, the status byte, then DONE. The wait count of a request whose class can be
delayed is a free value (R215, R299, log 21). -/
def execRouterCompletion (cluster : BitVec 5) (s : State) : Out :=
  let c := cluster.toNat
  let x := s.cluster c
  match x.rtrRun with
  | none => .next s
  | some run =>
    let doer := unitDoer pgRouter c
    if ¬ run.items.isEmpty ∨ ¬ s.answered doer then .next s
    else
      let late := delayable run.cls (run.demoted || s.opDemoted doer)
      let s1 := { s with fresh := if late then s.fresh + 1 else s.fresh }
      .next (((s1.setCluster c { x with rtrRun := none }).dropOps doer).unitDone c pgRouter run.req run.op none
        (if late then (Config.freeWaits s.fresh).toNat else 0) (s.withAnswers doer run.status))

end Sys2Proof.Machine
end

