-- ==== Sys2Proof/Machine/Mitre.lean ====
section
/-!
DEFINITION. The parts of Mitre (chapter 09): peers, rings and bound queues; CQ records and events (R252, R273);
packets that leave (R239, R258, R264); the end of sends (R261, R270); arrivals (R246, R255 to R260, R265); grants
(R254); flush (R270, R271). The queues and rings of a partition stand on the die of its control SQ (log 51).
-/

/-- A field of a Mitre header. -/
def Sys2Proof.Frame.n (f : Sys2Proof.Frame) (off len : Nat) : Nat :=
  Sys2Proof.Machine.Crypto.leNat ((f.body.drop off).take len)

/-- DST_PEER of a packet. -/
def Sys2Proof.Frame.peer (f : Sys2Proof.Frame) : BitVec 22 := BitVec.ofNat 22 (f.n 4 4)

/-- TYPE of a packet. -/
def Sys2Proof.Frame.ty (f : Sys2Proof.Frame) : Nat := f.n 0 1 % 16

/-- The sum of big-endian words of 16 bits. -/
def Sys2Proof.Machine.words16 : List Sys2Proof.Byte → Nat
  | [] => 0
  | [x] => 256 * x.toNat
  | x :: y :: t => 256 * x.toNat + y.toNat + Sys2Proof.Machine.words16 t

/-- The sum in ones' complement that a UDP datagram in IPv6 has over its pseudo-header, header and data (RFC 768, RFC 8200;
the address registers hold the address with its first byte most significant, log 103). -/
def Sys2Proof.Machine.udpTotal (src dst : List Sys2Proof.Byte) (sport dport sum : Nat) (data : List Sys2Proof.Byte) : Nat :=
  let n := Sys2Proof.Machine.words16 (src ++ dst) + 2 * (8 + data.length) + 17 + sport + dport + sum +
    Sys2Proof.Machine.words16 data
  if n = 0 then 0 else (n - 1) % 65535 + 1

/-- The UDP checksum of a frame that arrived is right; IPv6 has none that is zero. -/
def Sys2Proof.Frame.udpOk (f : Sys2Proof.Frame) : Bool :=
  f.udpSum ≠ 0 && Sys2Proof.Machine.udpTotal (Sys2Proof.Machine.Crypto.beBytes 16 f.src.toNat)
    (Sys2Proof.Machine.Crypto.beBytes 16 f.dst.toNat) f.udpSrc.toNat f.udpPort.toNat f.udpSum.toNat f.body = 65535

namespace Sys2Proof.Machine

/-! ### Places -/

/-- The MITRE page of a die. -/
def mitrePage (d : Nat) : Page := .die d tyMitre 0

/-- The ETH_PORT page of a port: two a die. -/
def ethPage (port : Nat) : Page := .die (port / 2) tyEth (port % 2)

/-- The Mitre of a die. -/
def State.mit (s : State) (d : Nat) : MitreDie := (s.die d).mitre

/-- The Mitre of a die replaced. -/
def State.setMit (s : State) (d : Nat) (x : MitreDie) : State := s.setDie d { s.die d with mitre := x }

/-- The home die of a handle (R241). -/
def homeOf (h : BitVec 22) : Nat := h.toNat / 2 ^ 20

/-- The peer of a handle, if it is allocated. -/
def State.peer (s : State) (h : BitVec 22) : Option Peer :=
  sget (fun _ => none) (s.mit (homeOf h)).peers (h.toNat % 2 ^ 20)

/-- The peer of a handle replaced. -/
def State.setPeer (s : State) (h : BitVec 22) (p : Option Peer) : State :=
  let x := s.mit (homeOf h)
  s.setMit (homeOf h) { x with peers := sput (fun _ => none) x.peers (h.toNat % 2 ^ 20) p }

/-- A peer changed, if it is allocated. -/
def State.modPeer (s : State) (h : BitVec 22) (f : Peer → Peer) : State :=
  match s.peer h with
  | none => s
  | some p => s.setPeer h (some (f p))

/-- The handles of all allocated peers. -/
def State.handles (s : State) : List (BitVec 22) :=
  (List.range 4).flatMap (fun d => (s.mit d).peers.map (fun e => BitVec.ofNat 22 (d * 2 ^ 20 + e.1)))

/-- A completion or event ring of a die. -/
def State.ring (s : State) (d n : Nat) : Option Ring := sget (fun _ => none) (s.mit d).rings n

/-- A ring replaced. -/
def State.setRing (s : State) (d n : Nat) (r : Option Ring) : State :=
  s.setMit d { s.mit d with rings := sput (fun _ => none) (s.mit d).rings n r }

/-- A bound send or receive queue of a die. -/
def State.mq (s : State) (d : Nat) (q : BitVec 12) : Option MQueue := sget (fun _ => none) (s.mit d).queues q.toNat

/-- A bound queue replaced. -/
def State.setMq (s : State) (d : Nat) (q : BitVec 12) (m : Option MQueue) : State :=
  s.setMit d { s.mit d with queues := sput (fun _ => none) (s.mit d).queues q.toNat m }

/-- The die of a partition's Mitre queues (log 51). -/
def State.ctrlDie (s : State) (p : BitVec 5) : Nat := (s.part p).ctrlDie.toNat

/-- Mitre's agent on a die for a partition; its requester port (log 99). -/
def mitreAgent (d : Nat) (pid : BitVec 5) (cls : Nat) : Agent := { die := d, pid := pid, cls := cls, sel := 0, port := 32 + d }

/-- A queue of Mitre as the doer of its operations. -/
def mitreDoer (d : Nat) (q : BitVec 12) : Doer := .mitre (BitVec.ofNat 2 d) q

/-! ### Rings (R252) -/

/-- READ_COUNT of a ring, as its header holds it. -/
def State.ringRead (s : State) (d : Nat) (r : Ring) : Nat := (s.readNum (mitreAgent d r.pid 0) (r.hdr + 8) 8).2.2

/-- A ring has room for a record. -/
def State.ringRoom (s : State) (d : Nat) (r : Ring) : Bool :=
  (r.written + 1 + 2 ^ 64 - s.ringRead d r) % 2 ^ 64 ≤ 2 ^ r.log2n

/-- A record written to a ring, then WRITE_COUNT. -/
def State.ringPut (s : State) (d n : Nat) (r : Ring) (rec : List Byte) : State :=
  let g := mitreAgent d r.pid 0
  let s1 := (s.memWrite g false none (r.base + 32 * (r.written % 2 ^ r.log2n)) rec).1
  let w := (r.written + 1) % 2 ^ 64
  (s1.memWrite g false none r.hdr (Crypto.leBytes 8 w)).1.setRing d n (some { r with written := w })

/-- An asynchronous event for a partition (R273): posted, or counted in AEQ_LOST; the page's event source. -/
def State.mEvent (s : State) (d : Nat) (pid : BitVec 5) (code port peer detail : Nat) : State :=
  let c := s.ctrlDie pid
  let rec' := Crypto.leBytes 1 code ++ Crypto.leBytes 3 port ++ Crypto.leBytes 4 peer ++ Crypto.leBytes 8 s.time.toNat ++
    Crypto.leBytes 8 detail ++ List.replicate 8 0
  let s1 := s.raise (mitrePage d) 0
  match (s.mit c).rings.find? (fun e => match e.2 with
      | some r => r.isAeq && r.pid = pid
      | none => false) with
  | some (n, some r) => if s.ringRoom c r then s1.ringPut c n r rec' else s1.bump (mitrePage d) 0x148 1
  | _ => s1.bump (mitrePage d) 0x148 1

/-- A CQ record (Table 9.4): a wait count sets bit 7 of a normal status (R7, R299). -/
def cqRecord (st : Status) (kind : Nat) (q : BitVec 12) (peer msn bytes user desc waits : Nat) : List Byte :=
  [withDelay (waits ≠ 0) st] ++ Crypto.leBytes 1 kind ++ Crypto.leBytes 2 q.toNat ++ Crypto.leBytes 4 (peer % 2 ^ 22) ++
    Crypto.leBytes 4 msn ++ Crypto.leBytes 4 bytes ++ Crypto.leBytes 8 user ++ Crypto.leBytes 5 desc ++ Crypto.leBytes 3 waits

/-- The count of records of a queue rises (R251). -/
def State.countRecord (s : State) (d : Nat) (q : BitVec 12) : State :=
  match s.mq d q with
  | some m => s.setMq d q (some { m with records := m.records + 1 })
  | none => s

/-- A CQ record of a queue: written, or waiting behind a full ring with one CQ_FULL event an episode (R252). -/
def State.complete (s : State) (d : Nat) (q : BitVec 12) (rec : List Byte) : State :=
  match s.mq d q with
  | none => s
  | some m =>
    match s.ring d m.cq.toNat with
    | none => s
    | some r =>
      if r.waiting.isEmpty ∧ s.ringRoom d r then (s.ringPut d m.cq.toNat r rec).countRecord d q
      else
        let s1 := s.setRing d m.cq.toNat (some { r with waiting := r.waiting ++ [rec] })
        if r.waiting.isEmpty then s1.mEvent d m.pid 6 0 0 m.cq.toNat else s1

/-- An operation of a queue completes: its record. With `late` its class can be delayed, and its wait count is a free value
(R215, R263, R299; log 21). -/
def State.finishOp (s0 : State) (d : Nat) (q : BitVec 12) (late : Bool) (st0 : Status) (kind peer msn bytes user desc : Nat) :
    State :=
  let s := s0.countSegment st0
  let st := closed st0
  if late then
    { s with fresh := s.fresh + 1 }.complete d q
      (cqRecord st kind q peer msn bytes user desc (Config.freeWaits s.fresh).toNat)
  else s.complete d q (cqRecord st kind q peer msn bytes user desc 0)

/-- A queue waits behind its CQ, or has none (R252). -/
def State.cqBlocked (s : State) (d : Nat) (q : BitVec 12) : Bool :=
  match s.mq d q with
  | none => true
  | some m => match s.ring d m.cq.toNat with
    | none => true
    | some r => !r.waiting.isEmpty

/-- Waiting records of a ring written while it has room. -/
def State.ringResume (d n : Nat) : Nat → State → State
  | 0, s => s
  | f + 1, s =>
    match s.ring d n with
    | none => s
    | some r =>
      match r.waiting with
      | [] => s
      | rec :: rest =>
        if s.ringRoom d r then
          let q : BitVec 12 := BitVec.ofNat 12 (Crypto.leNat ((rec.drop 2).take 2))
          State.ringResume d n f ((s.ringPut d n { r with waiting := rest } rec).countRecord d q)
        else s

/-! ### The end of sends and receives -/

/-- A send ends: its record, and the release it held (R175). -/
def State.endSend (s : State) (h : BitVec 22) (pid : BitVec 5) (o : SendOp) (st : Status) : State :=
  (s.finishOp (s.ctrlDie pid) o.q (delayable o.cls o.demoted) st 0 h.toNat ((o.msn.map BitVec.toNat).getD 0) o.acked
    o.user.toNat o.desc).releaseDone pid o.rel

/-- A send has nothing more to wait for: every packet it has numbered is acknowledged, and it has sent its last
byte or is stopped. -/
def Peer.sendOver (p : Peer) (o : SendOp) : Bool :=
  (o.stop.isSome || o.off = o.len) &&
  !p.unacked.any (fun k => (k.ty = 1 || k.ty = 2) && some k.msn = o.msn)

/-- Every send of a peer that is over completes, in order (R261, R270). -/
def State.sweepSends (s : State) (h : BitVec 22) : State :=
  match s.peer h with
  | none => s
  | some p =>
    let s1 := s.setPeer h (some { p with sends := p.sends.filter (fun o => !p.sendOver o) })
    (p.sends.filter (fun o => p.sendOver o)).foldl (fun (t : State) o => t.endSend h p.pid o (o.stop.getD stOk)) s1

/-- Sends of a peer stopped with a status (R270): no new packet number is given to them. -/
def State.stopSends (s : State) (h : BitVec 22) (st : Status) (which : SendOp → Bool) : State :=
  (s.modPeer h (fun p => { p with sends := p.sends.map (fun o =>
    if which o ∧ o.stop.isNone then { o with stop := some st } else o) })).sweepSends h

/-- C3 packet credits that a list of packets holds. -/
def c3Held (ks : List TxPkt) : Nat := (ks.filter (fun k => k.cls = 3 && (k.ty = 1 || k.ty = 2))).length

/-- C3 packet credits returned to a die (R263). -/
def State.c3Return (s : State) (d n : Nat) : State := s.setMit d { s.mit d with c3 := min 256 ((s.mit d).c3 + n) }

/-- Every outstanding send of a peer completes at once with a status, and its packets are forgotten. -/
def State.dropSends (s : State) (h : BitVec 22) (st : SendOp → Status) : State :=
  match s.peer h with
  | none => s
  | some p =>
    let s1 := (s.setPeer h (some { p with sends := [], unacked := [] })).c3Return (homeOf h) (c3Held p.unacked)
    p.sends.foldl (fun (t : State) o => t.endSend h p.pid o (st o)) s1

/-- The class of a receive queue. -/
def State.rqClass (s : State) (d : Nat) (q : BitVec 12) : BitVec 2 := ((s.mq d q).map MQueue.cls).getD 1

/-- The record of a receive buffer; `demoted` says of its message that a C0 placement was served as C1. -/
def State.endRecv (s : State) (pid : BitVec 5) (q : BitVec 12) (b : PostBuf) (demoted : Bool) (st : Status) (h : BitVec 22)
    (msn bytes : Nat) : State :=
  s.finishOp (s.ctrlDie pid) q (delayable (s.rqClass (s.ctrlDie pid) q) demoted) st 1 h.toNat msn bytes b.user.toNat b.desc

/-- Every open slot of a peer with a buffer completes with a status and its placed count; a message that is not whole has no zero
map written (R203 does not say; DESIGN CHOICE, log 106). -/
def State.dropSlots (s : State) (h : BitVec 22) (st : Status) : State :=
  match s.peer h with
  | none => s
  | some p =>
    p.slots.foldl (fun (t : State) m => match m.buf with
      | some b => t.endRecv p.pid p.rq b m.demoted st h m.msn.toNat m.placed
      | none => t) (s.setPeer h (some { p with slots := [] }))

/-- The operations that a peer has outstanding: sends and open slots. -/
def Peer.ops (p : Peer) : Nat := p.sends.length + (p.slots.filter (fun m => m.buf.isSome)).length

/-- A WAIT_COUNT that holds a SQ completes with a status (R251). -/
def State.endHold (s : State) (d : Nat) (q : BitVec 12) (st : Status) : State :=
  match s.mq d q with
  | none => s
  | some m => match m.hold with
    | none => s
    | some (_, _, desc, cls) =>
      (s.setMq d q (some { m with hold := none })).finishOp d q (delayable cls false) st 3 0 0 0 0 desc

/-- Every WAIT_COUNT of a die that waits on a queue that a test names completes with a status. -/
def State.endHoldsOn (s : State) (d : Nat) (st : Status) (which : BitVec 12 → BitVec 12 → Bool) : State :=
  (s.mit d).queues.foldl (fun (t : State) e => match e.2 with
    | some m => match m.hold with
      | some (w, _, _, _) => if which (BitVec.ofNat 12 e.1) w then t.endHold d (BitVec.ofNat 12 e.1) st else t
      | none => t
    | none => t) s

/-- A peer whose TX slot has turned stale stops: its sends complete KEY_STALE, and KEY_STALE is posted (R268). -/
def State.peerStale (s : State) (h : BitVec 22) : State :=
  match s.peer h with
  | none => s
  | some p =>
    if p.st = .active ∨ p.st = .keyExhausted then
      let s1 := s.setPeer h (some { p with st := .keyStale, sends := [] })
      (p.sends.foldl (fun (t : State) o => t.endSend h p.pid o stKeyStale) s1).mEvent (homeOf h) p.pid 5 0 h.toNat p.txSlot.toNat
    else s

/-! ### Packets that leave (R239, R240, R258, R264) -/

/-- UDP_PORT.VALID of a die (R238). -/
def State.mitreValid (s : State) (d : Nat) : Bool := (s.rd (mitrePage d) 0x100).getLsbD 16

/-- DATA payload size of a die (Table 9.8). -/
def State.payload (s : State) (d : Nat) : Nat := 1024 * 2 ^ s.fld (mitrePage d) 0x104 28 2

/-- A value at a page's words as a wide field. -/
def State.rdWide (s : State) (p : Page) (off words : Nat) : Nat :=
  (List.range words).foldl (fun (a : Nat) i => a + s.rdN p (off + 4 * i) * 2 ^ (32 * i)) 0

/-- The port of a path: PORTLIST entry p modulo the number of VALID entries (R258). -/
def Peer.portOf (p : Peer) (path : Nat) : BitVec 3 :=
  let ok := p.ports.filter (fun b => b.getLsbD 7)
  (ok.getD (path % ok.length) 0).truncate 3

/-- The headers below the Mitre header, on a port, for a datagram's bytes (R237, R239). -/
def State.frameHdr (s : State) (h : BitVec 22) (p : Peer) (path cls : Nat) (bytes : List Byte) : FrameHdr :=
  let port := (p.portOf path).toNat
  let pg := ethPage port
  let src := s.rdWide pg (0x120 + 16 * p.srcAddr.toNat) 4
  let sport := p.sport + BitVec.ofNat 16 path
  let rest := 65535 - udpTotal (Crypto.beBytes 16 src) p.addr sport.toNat p.peerPort.toNat 0 bytes
  { dstMac := BitVec.ofNat 48 (s.rdWide pg 0x110 2), srcMac := BitVec.ofNat 48 (s.rdWide pg 0x108 2)
    src := BitVec.ofNat 128 src, dst := p.addr, next := 17
    hop := BitVec.ofNat 8 (s.rdN (mitrePage (homeOf h)) 0x108)
    dscp := BitVec.ofNat 6 (s.fld (mitrePage (homeOf h)) 0x10C (8 * cls) 6)
    ecn := 0, sport := sport, dport := p.peerPort, sum := BitVec.ofNat 16 (if rest = 0 then 65535 else rest) }

/-- The first 20 bytes of the Mitre header (Table 9.1). -/
def mitreHead (ty : BitVec 4) (retx : Bool) (cls path : Nat) (dst : BitVec 22) (epoch : BitVec 32) (ctr : Nat) : List Byte :=
  Crypto.leBytes 1 (16 + ty.toNat) ++ Crypto.leBytes 1 ((if retx then 128 else 0) + cls) ++ Crypto.leBytes 1 path ++
    Crypto.leBytes 1 0 ++ Crypto.leBytes 4 dst.toNat ++ Crypto.leBytes 4 epoch.toNat ++ Crypto.leBytes 8 ctr

/-- The nonce of a packet (R264). -/
def mitreNonce (epoch : BitVec 32) (ctr : Nat) : List Byte := Crypto.beBytes 4 epoch.toNat ++ Crypto.beBytes 8 ctr

/-- A peer may send packets: ACTIVE, its counter not exhausted, Mitre in service (R262, R267). -/
def State.mayTransmit (s : State) (p : Peer) : Bool := s.engOn && p.st = .active && p.pktCtr < 2 ^ 40

/-- The bytes that a datagram occupies on the wire with all that R240 counts. -/
def wireBytes (bytes : List Byte) : Nat := bytes.length + 86

/-- A C0 packet on a path of a peer would find its bucket at the port empty (R297). -/
def State.portFull (s : State) (h : BitVec 22) (p : Peer) (path cls : Nat) : Bool :=
  cls = 0 && s.bucket (.ether (p.portOf path).toNat) (32 + homeOf h) = 0

/-- A packet sealed under the TX key and sent on a path (R264); a stale key stops the peer (R268). `tail` holds
bytes 20 to 63 of the header. The ports of a die whose UDP_PORT.VALID is clear send none (R238). A C0 packet is metered at
its port (R297). Answers whether it was sent. -/
def State.sendRaw (s : State) (h : BitVec 22) (ty : BitVec 4) (retx : Bool) (cls path : Nat) (tail body : List Byte) :
    State × Bool :=
  match s.peer h with
  | none => (s, false)
  | some p =>
    let port := p.portOf (if ty = 3 then 0 else path)
    if ¬ s.mayTransmit p ∨ ¬ s.mitreValid (port.toNat / 2) then (s, false)
    else
      let (st, key) := s.keyRequest p.pid p.txSlot mbMitreTx
      if st ≠ stOk then (s.peerStale h, false)
      else
        let hd := mitreHead ty retx cls (if ty = 3 then 0 else path) p.remote p.epoch p.pktCtr ++ tail
        let (ct, tag) := Crypto.gcmSeal key (mitreNonce p.epoch p.pktCtr) hd body
        let bytes := hd ++ ct ++ tag
        let s1 := (s.countKeyOp p.txSlot).setPeer h (some { p with pktCtr := p.pktCtr + 1 })
        let s2 := if cls = 0 then s1.meter (.ether port.toNat) (32 + homeOf h) (wireBytes bytes) else s1
        ((s2.bump64 (mitrePage (homeOf h)) 0x150 1).emit (.frame port (s.frameHdr h p path cls bytes) bytes), true)

/-- Bytes 20 to 63 of the header of a numbered packet (Table 9.1). -/
def TxPkt.tail (k : TxPkt) : List Byte :=
  Crypto.leBytes 4 k.psn.toNat ++ Crypto.leBytes 4 k.msn.toNat ++
  (if k.ty = 4 then List.replicate 36 0
   else Crypto.leBytes 4 k.off ++ Crypto.leBytes 4 k.total ++ Crypto.leBytes 2 (if k.ty = 1 then k.plen else 0) ++
     List.replicate 2 0 ++ Crypto.leBytes 8 (if k.ty = 2 then k.map.toNat else 0) ++ List.replicate 16 0)

/-- A numbered packet sent or sent again. -/
def State.sendPkt (s : State) (h : BitVec 22) (k : TxPkt) (retx : Bool) : State × Bool :=
  s.sendRaw h k.ty retx k.cls.toNat k.path k.tail k.body

/-- The send that a packet belongs to notes that a port served the packet as C1 (R10): the send of its message or, for a
CREDIT_REQ, the one that waits for that message. -/
def noteDemoted (k : TxPkt) : List SendOp → List SendOp
  | [] => []
  | o :: os =>
    if o.msn = some k.msn ∨ (k.ty = 4 ∧ o.msn = none) then { o with demoted := true } :: os else o :: noteDemoted k os

/-- A packet sent again on the path after the one last used, and counted (R258, R261). -/
def State.resend (s : State) (h : BitVec 22) (k : TxPkt) (fast : Bool) : State :=
  let k' := { k with path := (k.path + 1) % k.paths, fast := k.fast || fast }
  let full := (s.peer h).any (fun p => s.portFull h p k'.path k'.cls.toNat)
  let (s1, ok) := s.sendPkt h k' true
  if ok then
    (s1.modPeer h (fun p => { p with
      retrans := p.retrans + 1
      sends := if full then noteDemoted k' p.sends else p.sends
      unacked := p.unacked.map (fun x => if x.psn = k.psn then k' else x) })).bump (mitrePage (homeOf h)) 0x134 1
  else s1

/-- The SACK bits of a peer: bit i for PSN CUM + 1 + i (R260). -/
def Peer.sack (p : Peer) : Nat :=
  (List.range 255).foldl (fun (a : Nat) i => if p.seen.contains (p.cum + 1 + BitVec.ofNat 32 i) then a + 2 ^ i else a) 0

/-- An ACK (R260, Table 9.1). -/
def State.sendAck (s : State) (h : BitVec 22) : State :=
  match s.peer h with
  | none => s
  | some p =>
    let (s1, ok) := s.sendRaw h 3 false 0 0 (Crypto.leBytes 4 p.cum.toNat ++ Crypto.leBytes 4 p.granted.toNat ++
      Crypto.leBytes 4 0 ++ Crypto.leBytes 32 p.sack) []
    if ok then s1.modPeer h (fun p => { p with ackDue := 0, due := false }) else s1

/-- The next piece of a send from an offset: a data piece or not, and its end (R240; marker pieces, log 52). -/
def nextPiece (payload off len zmap : Nat) : Bool × Nat :=
  let isData := fun (c : Nat) => zmap / 2 ^ c % 2 = 1
  let data := isData (off / 4096)
  let step := if data then payload else max payload 4096
  let stop := min len ((off / step + 1) * step)
  let cut := ((List.range (step / 4096 + 1)).map (fun i => (off / 4096 + 1 + i))).find? (fun c => isData c ≠ data)
  (data, match cut with
    | some c => min stop (c * 4096)
    | none => stop)

/-! ### The cache of contexts (R242 to R245) -/

/-- The address of a peer's context in its partition's backing area (R242). -/
def State.backAddr (s : State) (h : BitVec 22) (p : Peer) : Nat :=
  let rs := ((s.part p.pid).backing.filter (fun e => e.1 = homeOf h)).map (fun e => e.2)
  rs.getD (p.back * 256 / 0x200000) 0 * 0x200000 + p.back * 256 % 0x200000

/-- A context is pinned (R243): an unacknowledged packet (and with it the retransmission timer), a send, a pending ACK, the
ABANDON timer of an open slot (R257), or the 10 ms of an old RX key (R266). -/
def Peer.pinned (p : Peer) : Bool :=
  !p.unacked.isEmpty || !p.sends.isEmpty || p.due || p.ackDue ≠ 0 || !p.slots.isEmpty || (p.oldRx.isSome && !p.rxNew)

/-- A context is cached. -/
def State.cached (s : State) (h : BitVec 22) : Bool := (s.mit (homeOf h)).cache.contains h

/-- A context is used: it is the most recently used of its die. -/
def State.touch (s : State) (h : BitVec 22) : State :=
  let x := s.mit (homeOf h)
  if x.cache.contains h then s.setMit (homeOf h) { x with cache := x.cache.filter (fun y => y ≠ h) ++ [h] } else s

/-- A context written back to its backing area, in a layout that is not given. -/
def State.writeBack (s : State) (h : BitVec 22) : State :=
  match s.peer h with
  | none => s
  | some p =>
    let s1 := { s with fresh := s.fresh + 1 }
    (s1.blockWrite (s.backAddr h p) ((List.range 256).map (fun i => Config.contextByte s.fresh i))).1

/-- A context enters the cache: the least recently used unpinned one leaves where the cache is full; none where all
are pinned (R243). -/
def State.cacheIn (s : State) (h : BitVec 22) : Option State :=
  let d := homeOf h
  let x := s.mit d
  if x.cache.contains h then some s
  else if x.cache.length < 65536 then some (s.setMit d { x with cache := x.cache ++ [h] })
  else match x.cache.find? (fun y => !((s.peer y).map Peer.pinned).getD false) with
    | none => none
    | some v =>
      let s1 := s.writeBack v
      some (s1.setMit d { s1.mit d with cache := (s1.mit d).cache.filter (fun y => y ≠ v) ++ [h] })

/-- A fetch of a context starts, once, and is counted (R244, Table 9.8). -/
def State.startFetch (s : State) (h : BitVec 22) : State :=
  let d := homeOf h
  if (s.mit d).waiting.contains h then s
  else (s.setMit d { s.mit d with waiting := (s.mit d).waiting ++ [h] }).bump (mitrePage d) 0x118 1

/-! ### Grants (R254) -/

/-- A listed peer takes a grant now: its open grants have not reached GRANT_MAX. -/
def State.takesGrant (s : State) (m : MQueue) (h : BitVec 22) : Bool :=
  match s.peer h with
  | none => true
  | some p => p.unclaimed.length < m.grantMax

/-- Grants to the first listed peers that take one while buffers are available. A listed peer at GRANT_MAX keeps its place
until a claim of its grants makes room (log 55). -/
def State.grantLoop (d : Nat) (q : BitVec 12) : Nat → State → State
  | 0, s => s
  | f + 1, s =>
    match s.mq d q with
    | none => s
    | some m =>
      match m.list.find? (s.takesGrant m) with
      | none => s
      | some h =>
        let rest := m.list.filter (fun y => y ≠ h)
        if m.bufs.length ≤ m.grants then s
        else match s.peer h with
          | none => State.grantLoop d q f (s.setMq d q (some { m with list := rest }))
          | some p =>
            let p' := { p with granted := p.granted + 1, unclaimed := p.unclaimed ++ [p.granted], due := true }
            let m' := { m with grants := m.grants + 1
                               list := if m.grantMax ≤ p'.unclaimed.length then rest else m.list }
            State.grantLoop d q f ((s.setPeer h (some p')).setMq d q (some m'))

/-- Every grant that a queue can now give. -/
def State.giveGrants (s : State) (d : Nat) (q : BitVec 12) : State :=
  match s.mq d q with
  | none => s
  | some m => State.grantLoop d q (m.bufs.length + m.list.length + 1) s

/-! ### Arrivals -/

/-- A packet is counted as a protocol error of its peer; the first since its last QUERY posts the event (R255,
Table 9.7). -/
def State.protoError (s : State) (h : BitVec 22) (msn : Nat) : State :=
  match s.peer h with
  | none => s
  | some p =>
    let s1 := (s.setPeer h (some { p with protoErrs := p.protoErrs + 1, protoEvt := true })).bump (mitrePage (homeOf h)) 0x128 1
    if p.protoEvt then s1 else s1.mEvent (homeOf h) p.pid 9 0 h.toNat msn

/-- Authentication of a packet (R264 to R266): the plaintext, and whether it came under the old epoch. -/
def State.authenticate (s : State) (p : Peer) (f : Frame) : Option (List Byte × Bool) :=
  let e : BitVec 32 := BitVec.ofNat 32 (f.n 8 4)
  let ctr := f.n 12 8
  let n := f.body.length
  let try' := fun (slot : BitVec 8) (high : Nat) =>
    let (st, key) := s.keyRequest p.pid slot mbMitreRx
    if n < 80 ∨ st ≠ stOk ∨ ctr + 2 ^ 20 ≤ high then none
    else Crypto.gcmOpen key (mitreNonce e ctr) (f.body.take 64) ((f.body.drop 64).take (n - 80)) (f.body.drop (n - 16))
  if e = p.epoch then (try' p.rxSlot p.high).map (fun b => (b, false))
  else if e + 1 = p.epoch then
    match p.oldRx with
    | some (slot, _) => (try' slot p.oldHigh).map (fun b => (b, true))
    | none => none
  else none

/-- What an authenticated packet changes in the keys of its peer: the highest counter, and the life of the old
RX key (R265, R266). -/
def Peer.authed (p : Peer) (ctr : Nat) (old : Bool) : Peer :=
  let p1 := if old then { p with oldHigh := max p.oldHigh ctr } else { p with high := max p.high ctr, rxNew := false }
  if p1.rxNew ∨ (p.rxNew ∧ ¬ old) then p1
  else { p1 with oldRx := match p1.oldRx with
    | some (slot, n) => if n ≤ 1 then none else some (slot, n - 1)
    | none => none }

/-- CUM moves over the packets already accepted. -/
def advanceCum : Nat → BitVec 32 → List (BitVec 32) → BitVec 32 × List (BitVec 32)
  | 0, c, l => (c, l)
  | f + 1, c, l => if l.contains c then advanceCum f (c + 1) (l.filter (fun x => x ≠ c)) else (c, l)

/-- A new packet is accepted: its PSN is marked, and an ACK goes out after 16 (R259, R260). -/
def State.acceptPsn (s : State) (h : BitVec 22) (psn : BitVec 32) : State :=
  match s.peer h with
  | none => s
  | some p =>
    let (c, l) := advanceCum 257 p.cum (p.seen ++ [psn])
    let s1 := s.setPeer h (some { p with cum := c, seen := l, ackDue := p.ackDue + 1, due := true })
    if 16 ≤ p.ackDue + 1 then s1.sendAck h else s1

/-- The chunks that a range of a message touches. -/
def chunksOf (off len : Nat) : List Nat :=
  (List.range ((off + len - 1) / 4096 + 1 - off / 4096)).map (fun i => off / 4096 + i)

/-- The chunks that a map marks from an offset. -/
def mapChunks (off map : Nat) : List Nat :=
  ((List.range 64).filter (fun i => map / 2 ^ i % 2 = 1)).map (fun i => off / 4096 + i)

/-- The length of a chunk of a message (R202). -/
def msgChunk (total c : Nat) : Nat := min 4096 (total - 4096 * c)

/-- The faults of a DATA or ZERO packet that R255 and R204 name, given the slot it falls in, if one is open. -/
def Peer.packetBad (p : Peer) (f : Frame) (zero : Bool) (body : List Byte) : Bool :=
  let msn : BitVec 32 := BitVec.ofNat 32 (f.n 24 4)
  let off := f.n 28 4
  let total := f.n 32 4
  let plen := f.n 36 2
  let slot := p.slots.find? (fun m => m.msn = msn)
  let shape := if zero then
      off % 4096 ≠ 0 || (mapChunks off (f.n 40 8)).any (fun c => (total + 4095) / 4096 ≤ c)
    else plen = 0 || 8192 < plen || body.length ≠ plen || total < off + plen
  match slot with
  | none => shape || !p.unclaimed.contains msn || 4 ≤ p.slots.length
  | some m => shape || m.mapping || m.total ≠ total ||
    (if zero then (mapChunks off (f.n 40 8)).any (fun c => m.data.contains c)
     else (chunksOf off plen).any (fun c => m.zero.contains c))

/-- The slot of a message, opened if it has none: the oldest unclaimed buffer of the RQ is claimed (R255). -/
def State.openSlot (s : State) (h : BitVec 22) (p : Peer) (msn : BitVec 32) (total : Nat) : State × MsgSlot :=
  match p.slots.find? (fun m => m.msn = msn) with
  | some m => (s, m)
  | none =>
    let d := s.ctrlDie p.pid
    let fresh : MsgSlot := { mapping := false, msn := msn, total := total, placed := 0, buf := none, tooLong := false, data := [], zero := []
                             demoted := false }
    let p' := { p with unclaimed := p.unclaimed.filter (fun x => x ≠ msn) }
    match s.mq d p.rq with
    | none => (s.setPeer h (some { p' with slots := p'.slots ++ [fresh] }), fresh)
    | some q =>
      match q.bufs with
      | [] =>
        ((s.setMq d p.rq (some { q with grants := q.grants - 1 })).setPeer h (some { p' with slots := p'.slots ++ [fresh] }), fresh)
      | b :: rest =>
        let s1 := s.setMq d p.rq (some { q with grants := q.grants - 1, bufs := rest })
        if b.len < total then
          let m := { fresh with tooLong := true }
          ((s1.setPeer h (some { p' with slots := p'.slots ++ [m] })).endRecv p.pid p.rq b false stTooLong h msn.toNat 0, m)
        else
          let m := { fresh with buf := some b }
          (s1.setPeer h (some { p' with slots := p'.slots ++ [m] }), m)

/-- A write of Mitre for a receive queue, in its class (R213, R256), for a doer that awaits the answers of other devices. -/
def State.mitreWrite (s : State) (d : Nat) (pid : BitVec 5) (q : BitVec 12) (doer : Doer) (a : Nat) (bs : List Byte) :
    State × Status :=
  s.memWrite { mitreAgent d pid (s.rqClass (s.ctrlDie pid) q).toNat with doer := doer } false none a bs

/-- A slot of a peer replaced. -/
def Peer.putSlot (p : Peer) (m : MsgSlot) : Peer := { p with slots := p.slots.map (fun x => if x.msn = m.msn then m else x) }

/-- A slot of a peer freed. -/
def Peer.freeSlot (p : Peer) (msn : BitVec 32) : Peer := { p with slots := p.slots.filter (fun x => x.msn ≠ msn) }

/-- A slot replaced, or freed once it is full: the zero map, then the record (R203, R256), with the status of a map that
memory refused (R474). A map in the memory of another device keeps the slot until that has answered (R38). -/
def State.endSlot (s : State) (h : BitVec 22) (m : MsgSlot) : State :=
  match s.peer h with
  | none => s
  | some p =>
    if m.placed ≠ m.total then s.setPeer h (some (p.putSlot m))
    else
      match m.buf with
      | none => s.setPeer h (some (p.freeSlot m.msn))
      | some b =>
        let words := ((m.total + 4095) / 4096 + 63) / 64
        let map := m.data.foldl (fun (a : Nat) c => a ||| 2 ^ c) 0
        let doer := Doer.zmap h m.msn
        let (s2, st) := if b.zmap = 0 then (s, stOk)
          else s.mitreWrite (s.ctrlDie p.pid) p.pid p.rq doer b.zmap (Crypto.leBytes (8 * words) map)
        let late := m.demoted || s2.run.demoted
        let s3 := { s2 with run := RunSt.reset }
        if st = stOk ∧ ¬ s3.answered doer then
          s3.setPeer h (some (p.putSlot { m with mapping := true, demoted := late }))
        else
          ((s3.dropOps doer).setPeer h (some (p.freeSlot m.msn))).endRecv p.pid p.rq b late st h m.msn.toNat m.placed

/-- A placement that memory refused with a status ends the receive (R474), and the rest of the message is discarded. -/
def State.refuseSlot (s : State) (h : BitVec 22) (p : Peer) (m : MsgSlot) (b : PostBuf) (n : Nat) (st : Status) : State :=
  (s.endRecv p.pid p.rq b m.demoted st h m.msn.toNat m.placed).endSlot h { m with placed := m.placed + n, buf := none }

/-- A DATA or ZERO packet that passed the window: placement (R256), marking (R202), or discard. A placement that memory
refuses ends the receive with that status (R474), and the rest of the message is acknowledged and discarded (log 54). Bytes
in the memory of another device count as placed once it has accepted them (R260). A claim makes room for a grant (R254). -/
def State.place' (s : State) (h : BitVec 22) (f : Frame) (zero : Bool) (body : List Byte) : State :=
  match s.peer h with
  | none => s
  | some p =>
    let msn : BitVec 32 := BitVec.ofNat 32 (f.n 24 4)
    let off := f.n 28 4
    let total := f.n 32 4
    if p.packetBad f zero body then s.protoError h msn.toNat
    else
      let (s0, m) := s.openSlot h p msn total
      let s1 := s0.giveGrants (s.ctrlDie p.pid) p.rq
      let cs := if zero then mapChunks off (f.n 40 8) else chunksOf off body.length
      let n := if zero then (cs.map (msgChunk total)).sum else body.length
      let mark := fun (m : MsgSlot) => { m with
        data := if zero then m.data else m.data ++ cs.filter (fun c => !m.data.contains c)
        zero := if zero then m.zero ++ cs.filter (fun c => !m.zero.contains c) else m.zero }
      let fill := fun (m : MsgSlot) => { mark m with placed := m.placed + n }
      match m.buf with
      | none => (if m.tooLong then s1 else s1.bump (mitrePage (homeOf h)) 0x138 1).endSlot h (fill m)
      | some b =>
        if zero then s1.endSlot h (fill m)
        else
          let psn : BitVec 32 := BitVec.ofNat 32 (f.n 20 4)
          let doer := Doer.place h psn
          let (s2, st) := s1.mitreWrite (homeOf h) p.pid p.rq doer (b.base + off) body
          let m' := { m with demoted := m.demoted || s2.run.demoted }
          let s3 := { s2 with run := RunSt.reset }
          if st ≠ stOk then (s3.dropOps doer).refuseSlot h p (mark m') b n st
          else if s3.answered doer then s3.endSlot h (fill m')
          else s3.modPeer h (fun x => { x.putSlot (mark m') with
            placing := x.placing ++ [{ psn := psn, msn := msn, n := n }] })

/-- A packet of a peer whose bytes another device has not yet accepted. -/
def Peer.isPlacing (p : Peer) (psn : BitVec 32) : Bool := p.placing.any (fun x => x.psn = psn)

/-- A new DATA or ZERO packet: handled, and accepted once its bytes are (R260). -/
def State.takeData (s : State) (h : BitVec 22) (f : Frame) (zero : Bool) (body : List Byte) (psn : BitVec 32) : State :=
  let t := s.place' h f zero body
  if (t.peer h).any (fun p => p.isPlacing psn) then t else t.acceptPsn h psn

/-- Another device has answered every write of a packet's bytes: they count as placed, or the receive ends with the status
of the refusal, and the packet is accepted (R256, R260, R474). -/
def State.placeDone (s : State) (h : BitVec 22) (psn : BitVec 32) : State :=
  let doer := Doer.place h psn
  let st := s.withAnswers doer stOk
  let late := s.opDemoted doer
  let s0 := s.dropOps doer
  match s0.peer h with
  | none => s0
  | some p => match p.placing.find? (fun x => x.psn = psn) with
    | none => s0
    | some x =>
      let p1 := { p with placing := p.placing.filter (fun y => y.psn ≠ psn) }
      let s1 := s0.setPeer h (some p1)
      let s2 := match p1.slots.find? (fun m => m.msn = x.msn) with
        | none => s1
        | some m =>
          let m' := { m with demoted := m.demoted || late }
          match m.buf with
          | some b => if st ≠ stOk then s1.refuseSlot h p1 m' b x.n st else s1.endSlot h { m' with placed := m.placed + x.n }
          | none => s1.endSlot h { m' with placed := m.placed + x.n }
      s2.acceptPsn h psn

/-- Another device has answered the writes of a message's zero map: its record is written (R203). -/
def State.mapDone (s : State) (h : BitVec 22) (msn : BitVec 32) : State :=
  let doer := Doer.zmap h msn
  let st := s.withAnswers doer stOk
  let late := s.opDemoted doer
  let s0 := s.dropOps doer
  match s0.peer h with
  | none => s0
  | some p => match p.slots.find? (fun m => m.msn = msn && m.mapping) with
    | none => s0
    | some m => match m.buf with
      | none => s0.setPeer h (some (p.freeSlot msn))
      | some b => (s0.setPeer h (some (p.freeSlot msn))).endRecv p.pid p.rq b (m.demoted || late) st h msn.toNat m.placed

/-- Receives go on whose last write to another device has been answered. -/
def State.placedOn (s : State) : State :=
  ((s.remote.map (fun o => o.doer)).dedup).foldl (fun (t : State) x => match x with
    | .place h psn => if t.answered x then t.placeDone h psn else t
    | .zmap h msn => if t.answered x then t.mapDone h msn else t
    | _ => t) s

/-- Nothing of a peer awaits the acceptance of another device any more. -/
def State.dropPlacing (s : State) (h : BitVec 22) : State :=
  { s with remote := s.remote.filter (fun o => match o.doer with
    | .place h' _ => h' ≠ h
    | .zmap h' _ => h' ≠ h
    | _ => true) }.modPeer h (fun p => { p with placing := [] })

/-- A CREDIT_REQ puts its peer at the tail of its RQ's grant list (R254). -/
def State.creditAsk (s : State) (h : BitVec 22) : State :=
  match s.peer h with
  | none => s
  | some p =>
    let d := s.ctrlDie p.pid
    match s.mq d p.rq with
    | none => s
    | some m =>
      let m' := if m.list.contains h then m else { m with list := m.list ++ [h] }
      (s.setMq d p.rq (some m')).giveGrants d p.rq

/-- An ACK (R261): the packets it names are acknowledged, credits return, MSG_LIMIT rises, a gap below three
acknowledged packets is sent again once, and finished sends complete. -/
def State.ackArrival (s : State) (h : BitVec 22) (f : Frame) : State :=
  match s.peer h with
  | none => s
  | some p =>
    let cum : BitVec 32 := BitVec.ofNat 32 (f.n 20 4)
    let limit : BitVec 32 := BitVec.ofNat 32 (f.n 24 4)
    let sack := f.n 32 32
    let bit := fun (psn : BitVec 32) => (psn - cum).toNat
    let acked := fun (k : TxPkt) => (k.psn - cum).msb || (1 ≤ bit k.psn && bit k.psn ≤ 256 && sack / 2 ^ (bit k.psn - 1) % 2 = 1)
    let above := fun (k : TxPkt) => ((List.range 256).filter (fun i => bit k.psn ≤ i && sack / 2 ^ i % 2 = 1)).length
    let gone := p.unacked.filter acked
    let bytes := fun (o : SendOp) =>
      ((gone.filter (fun k => (k.ty = 1 || k.ty = 2) && some k.msn = o.msn)).map TxPkt.plen).sum
    let moved := cum ≠ p.txCum && !(cum - p.txCum).msb
    let p1 := { p with
      unacked := p.unacked.filter (fun k => !acked k)
      sends := p.sends.map (fun o => { o with acked := o.acked + bytes o })
      msgLimit := if (limit - p.msgLimit).msb then p.msgLimit else limit
      txCum := if moved then cum else p.txCum
      retry := if moved then 0 else p.retry
      timeout := if moved then 8 else p.timeout }
    let s1 := (s.setPeer h (some p1)).c3Return (homeOf h) (c3Held gone)
    let s2 := (p1.unacked.filter (fun k => !k.fast && 3 ≤ above k)).foldl (fun (t : State) k => t.resend h k true) s1
    s2.sweepSends h

/-- A packet of a peer (R246, R259, R260): authenticated, then handled; FAULTED and UNREACHABLE peers take none (log 53). -/
def State.packet (s : State) (h : BitVec 22) (f : Frame) : State :=
  match s.peer h with
  | none => s
  | some p =>
    let d := homeOf h
    match s.authenticate p f with
      | none => (s.setPeer h (some { p with authFails := p.authFails + 1 })).bump (mitrePage d) 0x120 1
      | some (body, old) =>
        let slot := if old then ((p.oldRx.map (fun x => x.1)).getD 0) else p.rxSlot
        let s1 := ((s.countKeyOp slot).setPeer h (some (p.authed (f.n 12 8) old))).bump64 (mitrePage d) 0x158 1
        let ty := f.ty
        if p.st = .faulted ∨ p.st = .unreachable then s1
        else if ty = 3 then s1.ackArrival h f
        else
          let psn : BitVec 32 := BitVec.ofNat 32 (f.n 20 4)
          let dist := (psn - p.cum).toNat
          if p.isPlacing psn then s1
          else if dist < 256 ∧ ¬ p.seen.contains psn then
            if ty = 4 then (s1.creditAsk h).acceptPsn h psn
            else s1.takeData h f (ty = 2) body psn
          else if dist < 256 ∨ 2 ^ 31 ≤ dist then (s1.bump (mitrePage d) 0x12C 1).sendAck h
          else s1.bump (mitrePage d) 0x130 1

/-- A die takes a frame on a port for a Mitre packet (R238). -/
def State.recognises (s : State) (f : Frame) : Bool :=
  let d := f.port.toNat / 2
  s.mitreValid d && f.udpPort.toNat = s.fld (mitrePage d) 0x100 0 16

/-- The port discards a frame and counts it in BAD_FRAMES (R239). -/
def State.badFrame (s : State) (f : Frame) : Bool :=
  !f.udpOk || f.extHdr || f.n 0 1 / 16 ≠ 1 || f.ty = 0 || 4 < f.ty ||
  !(List.range 4).any (fun i =>
    let a := s.rdWide (ethPage f.port.toNat) (0x120 + 16 * i) 4
    a ≠ 0 && a = f.dst.toNat)

/-- A frame goes to its port's management ring (R237). -/
def State.toMgmt (s : State) (f : Frame) : State :=
  { s with mgmt := sput (fun _ => []) s.mgmt f.port.toNat (sget (fun _ => []) s.mgmt f.port.toNat ++ [f]) }

/-- The miss buffer takes a packet, or drops it (R244). -/
def State.toMiss (s : State) (h : BitVec 22) (f : Frame) : State :=
  let d := homeOf h
  if (s.mit d).miss.length < 256 then
    s.setMit d { s.mit d with miss := (s.mit d).miss ++ [f] }
  else s.bump (mitrePage d) 0x11C 1

/-- The fetch that a buffered packet of a sleeping die will need is noted without being counted (log 57). -/
def State.noteFetch (s : State) (h : BitVec 22) : State :=
  let d := homeOf h
  if (s.mit d).waiting.contains h then s else s.setMit d { s.mit d with waiting := (s.mit d).waiting ++ [h] }

/-- Packets of a partition's peers are taken: it is ACTIVE, or in step 2 of its teardown, when its queues flush and the peers'
answers end its sends (R246, R270, R272, R346; log 105). -/
def State.takesPackets (s : State) (pid : BitVec 5) : Bool :=
  (s.part pid).st = 2 || ((s.part pid).st = 3 && s.rtp.teardown.any (fun v => v.pid = pid && v.step ≤ 2))

/-- An arrival of a type on a port (R238, R239, R241, R244, R246, R396). -/
def State.arrive (s : State) (ty : Nat) (f : Frame) : State :=
  if ¬ s.pins.por ∨ s.mode ≠ 1 ∨ s.power = 2 then s
  else if ¬ s.recognises f then s.toMgmt f
  else if s.badFrame f then s.bump (mitrePage (f.port.toNat / 2)) 0x13C 1
  else if f.ty ≠ ty then s
  else
    let h := f.peer
    let known : Bool := match s.peer h with
      | none => false
      | some p => (s.part p.pid).ports.getLsbD f.port.toNat && s.takesPackets p.pid
    let masked := s.power = 1 ∧ ¬ (s.rd (.dieE tyClocks) 0x120).getLsbD 0
    let s1 := if masked then s else s.wakeDoze 2
    if ¬ known then s1.bump (mitrePage (homeOf h)) 0x124 1
    else if masked then (s1.toMiss h f).noteFetch h
    else if s1.cached h ∨ (s1.peer h).map Peer.st = some .faulted then (s1.touch h).packet h f
    else (s1.toMiss h f).startFetch h

/-! ### Flush and teardown (R270 to R272) -/

/-- The records of the entries that a flush discards from a SQ or RQ (R270, R271, log 56); a descriptor that the partition
may not read is not read (R20). -/
def State.discardRecords (s : State) (d : Nat) (q : BitVec 12) (st : Status) : State :=
  match s.mq d q with
  | none => s
  | some m =>
    (s.queue d q).entries.foldl (fun (t : State) e =>
      let a := e.1.toNat % 2 ^ 40
      let g := mitreAgent d m.pid (if m.isRq then m.cls.toNat else t.clsAt d a)
      let x := if 2 ^ 40 ≤ e.1.toNat ∨ a % 64 ≠ 0 ∨ t.checkRange g false a 64 ≠ stOk then (t, stOk, [])
        else t.memRead g a 64
      let b : Desc := x.2.2
      let op := b.n 0 1
      let rec' := if m.isRq then cqRecord st 1 q 0 0 0 (b.n 40 8) a 0
        else if op = 1 then cqRecord st 0 q (b.n 8 4) 0 0 (b.n 48 8) a 0
        else cqRecord st (if op = 2 then 3 else 2) q (if op = 0x12 then b.n 8 4 else 0) 0 0 0 a 0
      x.1.complete d q rec') s

/-- A bound queue is flushed or disabled (R270, R271): a SQ's sends stop, a RQ's buffers complete, the WAIT_COUNT of
either queue completes (R251). -/
def State.mitreFlush (s : State) (d : Nat) (q : BitVec 12) (st : Status) : State :=
  match s.mq d q with
  | none => s
  | some m =>
    let s0 := (s.discardRecords d q st).endHoldsOn d st (fun sq w => sq = q || w = q)
    let mine := s0.handles.filter (fun h => (s0.peer h).map Peer.pid = some m.pid)
    if m.isRq then
      let bufs := ((s0.mq d q).map MQueue.bufs).getD []
      let s1 := match s0.mq d q with
        | some m1 => s0.setMq d q (some { m1 with bufs := [] })
        | none => s0
      let s2 := bufs.foldl (fun (t : State) b => t.endRecv m.pid q b false st 0 0 0) s1
      mine.foldl (fun (t : State) h => match t.peer h with
        | none => t
        | some p =>
          if p.rq ≠ q then t
          else
            let t1 := t.setPeer h (some { p with slots := p.slots.map (fun x => { x with buf := none }) })
            p.slots.foldl (fun (u : State) x => match x.buf with
              | some b => u.endRecv m.pid q b x.demoted st h x.msn.toNat x.placed
              | none => u) t1) s2
    else mine.foldl (fun (t : State) h => t.stopSends h st (fun o => o.q = q)) (s0.dropOps (mitreDoer d q))

/-- A queue emptied by a flush or disable, with what its consumers do (R283, R284, R196, R270, R271). -/
def State.flushQueue (s : State) (d : Nat) (q : BitVec 12) (st : Status) : State :=
  ((s.mitreFlush d q st).emptyQueue d q st).routersDiscard d q st

/-- The queues that a partition has bound on its control die. -/
def State.boundQueues (s : State) (pid : BitVec 5) : List (BitVec 12) :=
  (s.mit (s.ctrlDie pid)).queues.filterMap (fun e => match e.2 with
    | some m => if m.pid = pid then some (BitVec.ofNat 12 e.1) else none
    | none => none)

/-- The peers of a partition. -/
def State.peersOf (s : State) (pid : BitVec 5) : List (BitVec 22) :=
  s.handles.filter (fun h => (s.peer h).map Peer.pid = some pid)

/-- A peer's handle freed: its context, its place in the cache, its fetch, its buffered packets, its place in grant
lists, and its unclaimed grants (R269). -/
def State.freePeer (s : State) (h : BitVec 22) : State :=
  match s.peer h with
  | none => s
  | some p =>
    let d := homeOf h
    let c := s.ctrlDie p.pid
    let s0 := s.dropPlacing h
    let s1 := s0.setMit d { s0.mit d with
      cache := (s.mit d).cache.filter (fun y => y ≠ h)
      waiting := (s.mit d).waiting.filter (fun y => y ≠ h)
      miss := (s.mit d).miss.filter (fun f => f.peer ≠ h) }
    let s2 := match s1.mq c p.rq with
      | some m => s1.setMq c p.rq (some { m with grants := m.grants - p.unclaimed.length, list := m.list.filter (fun y => y ≠ h) })
      | none => s1
    s2.setPeer h none

end Sys2Proof.Machine
end

