-- ==== Sys2Proof/Machine/MitreRows.lean ====
section
/-!
DEFINITION. The commands of Mitre (chapter 09): descriptors of send and receive queues (R247 to R251, R266, R269),
packets that leave (R253, R258, R261), arrivals (R238 to R246), timers and ports (R257, R260 to R262, R266, R267,
R273).
-/

namespace Sys2Proof.Machine

/-! ### Taking a descriptor (R247 to R249) -/

/-- What a descriptor of a send queue comes to: its item stays, it completes (status, peer, user), or it goes on. -/
inductive SqOut where
  | stay
  | done (st : Status) (peer user : Nat)
  | going
deriving DecidableEq, Repr

/-- The row of a send-queue descriptor: 1 SEND, 2 WAIT_COUNT, 3 QUEUE_SETUP, 4 PEER_SETUP, 5 to 8 PEER_CMD by CMD;
0 for none. -/
def sqRow (d : Desc) : Nat :=
  match d.n 0 1 with
  | 0x01 => 1
  | 0x02 => 2
  | 0x10 => 3
  | 0x11 => 4
  | 0x12 => if 1 ≤ d.bits 12 0 3 ∧ d.bits 12 0 3 ≤ 4 then 4 + d.bits 12 0 3 else 0
  | _ => 0

/-- KIND of a record by the row (Table 9.4). -/
def sqKind (row : Nat) : Nat := if row = 1 then 0 else if row = 2 then 3 else 2

/-- Byte 1, byte 3 and the reserved bits of byte 2 and of PTAG are zero (R248, R5). -/
def mitreHeadOk (d : Desc) : Bool := d.n 1 1 = 0 && d.bits 2 2 6 = 0 && d.n 3 1 = 0 && d.bits 4 5 3 = 0

/-- The front descriptor of a send queue as one of its rows. A queue held by WAIT_COUNT, or behind a full CQ, takes
none (R251, R252). The work of a partition in teardown completes DISABLED (Table 12.5). A record that fails before its body
still has PEER and USER of its descriptor (Table 9.4). -/
def sqCmd (d : Nat) (q : BitVec 12) (row : Nat) (body : Agent → Desc → Nat → State → State × SqOut) (s : State) : State :=
  match s.mq d q with
  | none => s
  | some m =>
    if ¬ s.engOn ∨ m.isRq ∨ m.hold.isSome ∨ s.cqBlocked d q then s
    else match (s.queue d q).entries with
      | [] => s
      | (item, _) :: rest =>
        let a := item.toNat % 2 ^ 40
        let finish := fun (t : State) (st : Status) (kind peer user cls : Nat) =>
          (t.setQueue d q { t.queue d q with entries := rest }).finishOp d q (delayable (BitVec.ofNat 2 cls) t.run.demoted) st
            kind peer 0 0 user a
        let g := mitreAgent d m.pid (s.clsAt d a)
        let doer := mitreDoer d q
        let chk := s.checkRange g false a 64
        if 2 ^ 40 ≤ item.toNat ∨ a % 64 ≠ 0 then finish s stMitre 0 0 0 0
        else if ¬ s.takesWork (mitrePage d) ∨ (s.part m.pid).st = 3 then finish s stDisabled 0 0 0 0
        else if chk ≠ stOk then finish s chk 0 0 0 0
        else
          let (s1, st, b) := s.memRead g a 64
          let e : Desc := b
          let r := sqRow e
          let peer := if e.n 0 1 = 0x01 ∨ e.n 0 1 = 0x12 then e.n 8 4 else 0
          let user := if r = 1 then e.n 48 8 else 0
          if st ≠ stOk then finish s1 st 0 0 0 0
          else if ¬ e.tagOk m.pid (s.part m.pid).pgen then finish s1 stTag (sqKind r) peer user (e.bits 2 0 2)
          else if r = 0 ∨ ¬ mitreHeadOk e ∨
              (3 ≤ r ∧ ¬ (q = (s.part m.pid).ctrlSq ∧ d = s.ctrlDie m.pid)) then
            finish s1 stMitre (sqKind r) peer user (e.bits 2 0 2)
          else if r ≠ row then s
          else
            let (s2, o) := body { mitreAgent d m.pid (e.bits 2 0 2) with doer := doer } e a s1
            s.settle doer (match o with
            | .stay => s2
            | .done st peer user => finish s2 st (sqKind r) peer user (e.bits 2 0 2)
            | .going => s2.setQueue d q { s2.queue d q with entries := rest })

/-- The peer that a descriptor names, if the partition has it. -/
def State.peerOf (s : State) (pid : BitVec 5) (h : BitVec 22) : Option Peer :=
  match s.peer h with
  | some p => if p.pid = pid then some p else none
  | none => none

/-! ### SEND (R249, R250, R263) -/

/-- SEND's own fields (Table 9.2). -/
def sendFields (d : Desc) : Bool :=
  d.n 8 4 < 2 ^ 22 && 1 ≤ d.n 12 1 && d.n 12 1 ≤ 8 && d.zero 13 3 && 1 ≤ d.n 24 4 && d.zero 28 4 && d.n 32 8 % 8 = 0 &&
  d.zero 56 8

/-- The bytes of a zero map for a message of a length (R203). -/
def zmapBytes (len : Nat) : Nat := ((len + 4095) / 4096 + 63) / 64 * 8

/-- The status of a peer that takes no SEND (R249). -/
def State.sendState (s : State) (p : Peer) : Status :=
  match p.st with
  | .unreachable => stUnreachable
  | .faulted => stIntegrity
  | .keyStale => stKeyStale
  | _ => if (s.keyRequest p.pid p.txSlot mbMitreTx).1 = stKeyStale then stKeyStale else stOk

/-- A send of a given message joins its peer's sends. -/
def State.addSend (s : State) (h : BitVec 22) (o : SendOp) : State :=
  s.modPeer h (fun p => { p with sends := p.sends ++ [o] })

/-- A SEND after its release, if it needs one: C3 credit, the zero map, and the sealed form, to which no zero map applies:
every chunk of it is data (R263, R202, R180). -/
def State.acceptSend (s : State) (g : Agent) (q : BitVec 12) (h : BitVec 22) (d : Desc) (a : Nat) (r : Option Release) :
    State × SqOut :=
  let user := d.n 48 8
  let src := d.n 16 8
  let len := d.n 24 4
  let chunks := (len + 4095) / 4096
  let hd := homeOf h
  if g.cls = 3 ∧ (s.mit hd).c3 = 0 then (s.bump (mitrePage hd) 0x140 1, .done stNoCredit h.toNat user)
  else
    let (s1, st1, zb) := if d.n 32 8 = 0 ∨ r.any Release.isSealed then (s, stOk, []) else s.memRead g (d.n 32 8) (zmapBytes len)
    let plain := d.n 32 8 = 0 || r.any Release.isSealed
    let zmap := if plain then 2 ^ (chunks + 2) - 1 else Crypto.leNat zb % 2 ^ chunks + 3 * 2 ^ chunks
    let s2 := match r with
      | some r => s1.acceptRelease g.die g.pid r
      | none => s1
    let (s3, st3, sealOut) := match r with
      | some r =>
        if r.isSealed ∧ st1 = stOk then
          let (t, st, b) := s2.memRead g src len
          if st ≠ stOk then (t, st, none)
          else
            let (t2, out) := t.sealBytes g.pid r b
            (t2, stOk, some out)
        else (s2, st1, none)
      | none => (s2, st1, none)
    let hold := r.bind Release.holds
    if st3 ≠ stOk then (s3.releaseDone g.pid hold, .done st3 h.toNat user)
    else
      let o : SendOp := { q := q, desc := a, msn := none, cls := BitVec.ofNat 2 g.cls, paths := d.n 12 1, src := src
                          len := (r.map Release.outLen).getD len, zmap := zmap, user := BitVec.ofNat 64 user, off := 0
                          pkts := 0, acked := 0, rel := hold, released := r.isSome
                          sealSlot := r.bind (fun r => if r.isSealed then some r.slot else none)
                          sealOut := sealOut, stop := none, demoted := s3.run.demoted }
      (s3.addSend h o, .going)

/-- SEND. -/
def bodySend (q : BitVec 12) (g : Agent) (d : Desc) (a : Nat) (s : State) : State × SqOut :=
  let user := d.n 48 8
  let h : BitVec 22 := BitVec.ofNat 22 (d.n 8 4)
  let hn := d.n 8 4
  let src := d.n 16 8
  let len := d.n 24 4
  if ¬ sendFields d then (s, .done stMitre hn user)
  else match s.peerOf g.pid h with
    | none => (s, .done stPeerInvalid hn user)
    | some p =>
      let zn := if d.n 32 8 = 0 then 0 else zmapBytes len
      let chk := s.checkRanges g [(false, src, len), (false, d.n 32 8, zn)]
      let st := s.sendState p
      if p.st ≠ .faulted ∧ ¬ s.cached h then (s.startFetch h, .stay)
      else if chk ≠ stOk then (s, .done chk hn user)
      else if st ≠ stOk then (s.touch h, .done st hn user)
      else if s.conf g ∧ ¬ p.member then
        if ¬ s.takesWork (.die g.die tyWicket 0) then (s, .done stDisabled hn user)
        else
          let (s1, why, r) := s.wicketCheck g (d.n 40 8) src len
          if why ≠ 0 then (s1.wicketDeny g.die g.pid 1 why, .done stReleaseDenied hn user)
          else if r.isSealed ∧ 2 ^ 32 - 81 < len then (s1, .done stMitre hn user)
          else (s1.touch h).acceptSend g q h d a (some r)
      else (s.touch h).acceptSend g q h d a none

/-- SEND (R249, R250). -/
def execSend (die : BitVec 2) (q : BitVec 12) (s : State) : Out := .next (sqCmd die.toNat q 1 (bodySend q) s)

/-! ### WAIT_COUNT (R251) -/

/-- The count of a queue meets a target, under the test of R93. -/
def State.countMet (s : State) (d : Nat) (q : BitVec 12) (target : BitVec 32) : Bool :=
  match s.mq d q with
  | some m => !(m.records - target).msb
  | none => false

/-- WAIT_COUNT: it completes at once, or holds its queue. -/
def bodyWaitCount (d : Nat) (q : BitVec 12) (g : Agent) (e : Desc) (a : Nat) (s : State) : State × SqOut :=
  let w : BitVec 12 := BitVec.ofNat 12 (e.n 10 2)
  let target : BitVec 32 := BitVec.ofNat 32 (e.n 12 4)
  if ¬ (e.bits 8 1 7 = 0 && e.n 9 1 = 0 && e.n 10 2 < 4096 && e.zero 16 48) then (s, .done stMitre 0 0)
  else match s.mq d w with
    | none => (s, .done stBound 0 0)
    | some x =>
      if x.pid ≠ g.pid ∨ x.isRq ≠ (e.bits 8 0 1 = 1) then (s, .done stBound 0 0)
      else if s.countMet d w target then (s, .done stOk 0 0)
      else match s.mq d q with
        | none => (s, .stay)
        | some m => (s.setMq d q (some { m with hold := some (w, target, a, BitVec.ofNat 2 (e.bits 2 0 2)) }), .going)

/-- WAIT_COUNT (R251): a queue that one holds is freed once the target is met; else the next descriptor is taken. -/
def execWaitCount (die : BitVec 2) (q : BitVec 12) (s : State) : Out :=
  match s.mq die.toNat q with
  | none => .next s
  | some m => match m.hold with
    | some (w, target, _, _) => if s.countMet die.toNat w target then .next (s.endHold die.toNat q stOk) else .next s
    | none => .next (sqCmd die.toNat q 2 (bodyWaitCount die.toNat q) s)

/-! ### QUEUE_SETUP (R248, R276, R278) -/

/-- QUEUE_SETUP's fields (Table 9.2). -/
def queueFields (d : Desc) : Bool :=
  let kind := d.bits 8 0 2
  let isQ := kind < 2
  d.bits 8 2 5 = 0 &&
  (if kind = 1 then d.bits 9 2 2 = 0 && d.bits 9 6 2 = 0 else d.n 9 1 = 0) &&
  (if isQ then d.n 10 2 < 4096 && d.n 12 2 < 1024 && d.n 14 2 = 0 && d.zero 16 16
   else d.n 10 2 < 1024 && d.n 12 2 = 0 && d.bits 14 5 3 = 0 && d.n 15 1 = 0 &&
    (d.bits 8 7 1 = 1 || (4 ≤ d.n 14 1 && d.n 14 1 ≤ 16 && d.n 16 8 % 64 = 0 && d.n 24 8 % 16 = 0))) &&
  d.zero 32 32

/-- A queue feeds a ring. -/
def State.feeds (s : State) (d n : Nat) : Bool :=
  (s.mit d).queues.any (fun e => (e.2.map (fun m => m.cq.toNat)) = some n)

/-- A ring bound or removed. -/
def State.setupRing (s : State) (g : Agent) (d : Desc) : State × Status :=
  let n := d.n 10 2
  match s.ring g.die n with
  | some r =>
    if r.pid ≠ g.pid then (s, stBound)
    else if d.bits 8 7 1 = 0 ∨ (r.isAeq ≠ (d.bits 8 0 2 = 3)) ∨ s.feeds g.die n then (s, stMitre)
    else (s.setRing g.die n none, stOk)
  | none =>
    if d.bits 8 7 1 = 1 then (s, stBound)
    else
      let log := d.n 14 1
      let chk := joinCheck (s.ownedRange g (d.n 16 8) (32 * 2 ^ log)) (s.ownedRange g (d.n 24 8) 16)
      if chk ≠ stOk then (s, chk)
      else
        let r : Ring := { pid := g.pid, isAeq := d.bits 8 0 2 = 3, base := d.n 16 8, log2n := log, hdr := d.n 24 8,
                          written := 0, waiting := [] }
        (s.setRing g.die n (some r), stOk)

/-- A queue's cells given back, and its Dresser queue unconfigured. -/
def State.unbindQueue (s : State) (d : Nat) (q : BitVec 12) : State :=
  let free := s.rdN (dresserPage d) 0x100 + s.queueCells d q
  (((s.setMq d q none).setQueue d q { s.queue d q with kind := 0 }).wrN (dresserPage d) 0x100 free)

/-- A send or receive queue bound or removed. -/
def State.setupQueue (s : State) (g : Agent) (d : Desc) : State × Status :=
  let q : BitVec 12 := BitVec.ofNat 12 (d.n 10 2)
  let isRq : Bool := d.bits 8 0 2 = 1
  let kind : BitVec 3 := if isRq then 3 else 2
  let x := s.queue g.die q
  if x.pid ≠ some g.pid then (s, stBound)
  else match s.mq g.die q with
    | some m =>
      if d.bits 8 7 1 = 0 ∨ m.isRq ≠ isRq ∨ q = (s.part g.pid).ctrlSq then (s, stMitre)
      else ((s.flushQueue g.die q stFlushed).unbindQueue g.die q, stOk)
    | none =>
      if d.bits 8 7 1 = 1 then (s, stBound)
      else match s.ring g.die (d.n 12 2) with
        | none => (s, stBound)
        | some r =>
          if r.pid ≠ g.pid then (s, stBound)
          else if r.isAeq ∨ ¬ (x.kind = 0 ∨ x.kind = kind) then (s, stMitre)
          else
            let have' := s.queueCells g.die q
            let need := s.cellsOf g.pid g.die kind x.hostPost x.grant
            let free := s.rdN (dresserPage g.die) 0x100 + have'
            if free < need then (s, stPool)
            else
              let m : MQueue := { pid := g.pid, isRq := isRq, cq := BitVec.ofNat 10 (d.n 12 2)
                                  cls := BitVec.ofNat 2 (d.bits 9 0 2), grantMax := d.bits 9 4 2 + 1, records := 0
                                  bufs := [], grants := 0, list := [], hold := none }
              (((s.setQueue g.die q { x with kind := kind }).wrN (dresserPage g.die) 0x100 (free - need)).setMq g.die q (some m), stOk)

/-- QUEUE_SETUP. -/
def bodyQueueSetup (g : Agent) (d : Desc) (_a : Nat) (s : State) : State × SqOut :=
  if ¬ queueFields d then (s, .done stMitre 0 0)
  else
    let (s1, st) := if d.bits 8 0 2 < 2 then s.setupQueue g d else s.setupRing g d
    (s1, .done st 0 0)

/-- QUEUE_SETUP (R248). -/
def execQueueSetup (die : BitVec 2) (q : BitVec 12) (s : State) : Out := .next (sqCmd die.toNat q 3 bodyQueueSetup s)

/-! ### PEER_SETUP (R249) -/

/-- Both slots may serve a peer: their attributes, and for a member the Mitre branch (R249, Table 11.6). -/
def State.peerSlotsOk (s : State) (pid : BitVec 5) (member : Bool) (tx rx : BitVec 8) : Bool :=
  (s.keyRequest pid tx mbMitreTx).1 = stOk && (s.keyRequest pid rx mbMitreRx).1 = stOk &&
  (!member || ((s.key tx).branch = 5 && (s.key rx).branch = 5))

/-- PEER_SETUP's fields (Table 9.2). -/
def peerFields (d : Desc) : Bool :=
  d.bits 8 2 5 = 0 && d.n 9 1 = 0 && d.n 10 2 < 4096 && d.n 32 4 < 2 ^ 22 && d.bits 42 2 6 = 0 && d.zero 43 5 && d.zero 56 8 &&
  (List.range 8).all (fun i => d.bits (48 + i) 3 4 = 0) && (List.range 8).any (fun i => d.bits (48 + i) 7 1 = 1)

/-- The least number that a list lacks. -/
def leastFree (l : List Nat) : Nat := ((List.range (l.length + 1)).find? (fun i => !l.contains i)).getD 0

/-- A peer as PEER_SETUP leaves it. -/
def newPeer (pid : BitVec 5) (back : Nat) (d : Desc) : Peer :=
  { pid := pid, back := back, st := .active, member := d.bits 8 7 1 = 1, rq := BitVec.ofNat 12 (d.n 10 2)
    remote := BitVec.ofNat 22 (d.n 32 4), addr := (d.drop 16).take 16, peerPort := BitVec.ofNat 16 (d.n 12 2)
    sport := BitVec.ofNat 16 (d.n 14 2), srcAddr := BitVec.ofNat 2 (d.n 42 1), ports := (d.drop 48).take 8
    epoch := BitVec.ofNat 32 (d.n 36 4), txSlot := BitVec.ofNat 8 (d.n 40 1), rxSlot := BitVec.ofNat 8 (d.n 41 1)
    oldRx := none, rxNew := false, pktCtr := 0, dueEvt := false, high := 0, oldHigh := 0, psn := 0, txCum := 0, unacked := []
    retry := 0, timeout := 8, msnNext := 0, msgLimit := 0, credReq := false, sends := [], cum := 0, seen := []
    granted := 0, unclaimed := [], slots := [], placing := [], ackDue := 0, due := false, authFails := 0, protoErrs := 0, retrans := 0
    protoEvt := false }

/-- PEER_SETUP. -/
def bodyPeerSetup (g : Agent) (d : Desc) (_a : Nat) (s : State) : State × SqOut :=
  let die := d.bits 8 0 2
  let rq := s.mq g.die (BitVec.ofNat 12 (d.n 10 2))
  let rqOk : Bool := match rq with
    | some m => m.isRq && m.pid = g.pid
    | none => false
  let portsOk := (List.range 8).all (fun i =>
    d.bits (48 + i) 7 1 = 0 || (s.part g.pid).ports.getLsbD (d.bits (48 + i) 0 3))
  let mine := (s.peersOf g.pid).filter (fun h => homeOf h = die)
  if ¬ peerFields d then (s, .done stMitre 0 0)
  else if ¬ rqOk ∨ ¬ portsOk then (s, .done stBound 0 0)
  else if ¬ s.peerSlotsOk g.pid (d.bits 8 7 1 = 1) (BitVec.ofNat 8 (d.n 40 1)) (BitVec.ofNat 8 (d.n 41 1)) then
    (s, .done stKeyDenied 0 0)
  else if (s.part g.pid).peers.getD die 0 ≤ mine.length then (s, .done stPeerFull 0 0)
  else
    let idx := leastFree ((s.mit die).peers.map (fun e => e.1))
    let back := leastFree (mine.map (fun h => ((s.peer h).map Peer.back).getD 0))
    let h : BitVec 22 := BitVec.ofNat 22 (die * 2 ^ 20 + idx)
    let s1 := s.setPeer h (some (newPeer g.pid back d))
    ((s1.cacheIn h).getD (s1.writeBack h), .done stOk h.toNat 0)

/-- PEER_SETUP (R249). -/
def execPeerSetup (die : BitVec 2) (q : BitVec 12) (s : State) : Out := .next (sqCmd die.toNat q 4 bodyPeerSetup s)

/-! ### PEER_CMD (R266, R269) -/

/-- PEER_CMD's fields: the slots for REKEY and RESET, OUT_ADDR for QUERY (Table 9.2). -/
def peerCmdFields (d : Desc) : Bool :=
  let c := d.bits 12 0 3
  d.n 8 4 < 2 ^ 22 && d.bits 12 3 5 = 0 && (c ≤ 2 || d.zero 13 2) && d.n 15 1 = 0 &&
  (if c = 4 then d.n 16 8 % 64 = 0 else d.zero 16 8) && d.zero 24 40

/-- A PEER_CMD after its fields and its peer: a FAULTED peer takes only REMOVE (R245). It stays where what it writes awaits the
answer of another device. -/
def peerCmd (go : Agent → Desc → BitVec 22 → Peer → State → State × Option Status) (g : Agent) (d : Desc) (_a : Nat) (s : State) :
    State × SqOut :=
  let h : BitVec 22 := BitVec.ofNat 22 (d.n 8 4)
  if ¬ peerCmdFields d then (s, .done stMitre (d.n 8 4) 0)
  else match s.peerOf g.pid h with
    | none => (s, .done stPeerInvalid (d.n 8 4) 0)
    | some p =>
      if p.st = .faulted ∧ d.bits 12 0 3 ≠ 3 then (s, .done stIntegrity h.toNat 0)
      else
        match go g d h p s with
        | (s1, some st) => (s1, .done st h.toNat 0)
        | (s1, none) => (s1, .stay)

/-- The keys of a peer replaced under the next epoch (R266). -/
def Peer.rekeyed (p : Peer) (tx rx : BitVec 8) : Peer :=
  { p with epoch := p.epoch + 1, txSlot := tx, rxSlot := rx, oldRx := some (p.rxSlot, 2 ^ 20), rxNew := true, pktCtr := 0
           dueEvt := false, oldHigh := p.high, high := 0
           st := if p.st = .keyStale ∨ p.st = .keyExhausted then .active else p.st }

/-- REKEY. -/
def goRekey (g : Agent) (d : Desc) (h : BitVec 22) (p : Peer) (s : State) : State × Option Status :=
  let tx : BitVec 8 := BitVec.ofNat 8 (d.n 13 1)
  let rx : BitVec 8 := BitVec.ofNat 8 (d.n 14 1)
  if ¬ s.peerSlotsOk g.pid p.member tx rx then (s, some stKeyDenied)
  else (s.setPeer h (some (p.rekeyed tx rx)), some stOk)

/-- A peer's outstanding work ends FLUSHED and its unclaimed grants go back (R269); a send that has stopped already keeps the
status of its stop (R181, R270). -/
def State.abandonPeer (s : State) (h : BitVec 22) (p : Peer) : State :=
  let c := s.ctrlDie p.pid
  let s1 := ((s.dropPlacing h).dropSends h (fun o => o.stop.getD stFlushed)).dropSlots h stFlushed
  match s1.mq c p.rq with
  | some m =>
    (s1.setMq c p.rq (some { m with grants := m.grants - p.unclaimed.length, list := m.list.filter (fun y => y ≠ h) })).modPeer h
      (fun x => { x with unclaimed := [] })
  | none => s1

/-- RESET, with slots other than the two that it replaces. -/
def goReset (g : Agent) (d : Desc) (h : BitVec 22) (p : Peer) (s : State) : State × Option Status :=
  let tx : BitVec 8 := BitVec.ofNat 8 (d.n 13 1)
  let rx : BitVec 8 := BitVec.ofNat 8 (d.n 14 1)
  if ¬ s.peerSlotsOk g.pid p.member tx rx ∨ tx = p.txSlot ∨ tx = p.rxSlot ∨ rx = p.txSlot ∨ rx = p.rxSlot then
    (s, some stKeyDenied)
  else
    let p' := { p with st := .active, txSlot := tx, rxSlot := rx, oldRx := none, rxNew := false, pktCtr := 0, dueEvt := false
                       high := 0, oldHigh := 0, psn := 0, txCum := 0, unacked := [], retry := 0, timeout := 8, msnNext := 0
                       msgLimit := 0, credReq := false, sends := [], cum := 0, seen := [], granted := 0, unclaimed := []
                       slots := [], placing := [], ackDue := 0, due := false, authFails := 0, protoErrs := 0, retrans := 0, protoEvt := false }
    (((s.abandonPeer h p).setPeer h (some p')).giveGrants (s.ctrlDie p.pid) p.rq, some stOk)

/-- REMOVE. -/
def goRemove (_g : Agent) (_d : Desc) (h : BitVec 22) (p : Peer) (s : State) : State × Option Status :=
  (((s.abandonPeer h p).freePeer h).giveGrants (s.ctrlDie p.pid) p.rq, some stOk)

/-- The peer status record (Table 9.6). -/
def Peer.record (p : Peer) : List Byte :=
  let code := match p.st with
    | .active => 0
    | .unreachable => 1
    | .faulted => 2
    | .keyStale => 3
    | .keyExhausted => 4
  Crypto.leBytes 1 code ++ Crypto.leBytes 1 p.retry ++ List.replicate 2 0 ++ Crypto.leBytes 4 p.psn.toNat ++
    Crypto.leBytes 4 p.cum.toNat ++ Crypto.leBytes 4 p.msnNext.toNat ++ Crypto.leBytes 4 p.granted.toNat ++
    Crypto.leBytes 4 p.epoch.toNat ++ Crypto.leBytes 8 p.pktCtr ++ Crypto.leBytes 4 p.authFails.toNat ++
    Crypto.leBytes 4 p.protoErrs.toNat ++ Crypto.leBytes 4 p.retrans.toNat ++ List.replicate 20 0

/-- The part of the Wicket in what Mitre writes for a CONFIDENTIAL partition outside its trust (R21, R295). -/
def State.mitreWicket (s : State) (g : Agent) (a n : Nat) : State × Status :=
  match (List.range n).findSome? (fun i => s.wicketPath g (a + i)) with
  | some path => (s.wicketDeny g.die g.pid path 1, stReleaseDenied)
  | none => (s, stOk)

/-- The writes that a queue's command has sent to other devices. -/
def State.sentWrites (s : State) (doer : Doer) : List RemOp := s.remote.filter (fun o => o.doer = doer && !o.read)

/-- QUERY ends: the record is written, or another device has refused it. -/
def State.endQuery (s : State) (doer : Doer) (h : BitVec 22) (st : Status) : State × Option Status :=
  let s1 := { s with remote := s.remote.filter (fun o => !(o.doer = doer && !o.read)) }
  (if st = stOk then s1.modPeer h (fun x => { x with protoEvt := false }) else s1, some st)

/-- QUERY; a record in the memory of another device is sent, and the command ends with the answer (R38, R474). -/
def goQuery (g : Agent) (d : Desc) (h : BitVec 22) (p : Peer) (s : State) : State × Option Status :=
  let chk := s.checkRange g true (d.n 16 8) 64
  let sent := s.sentWrites g.doer
  if ¬ sent.isEmpty then
    if sent.any (fun o => o.done.isNone) then (s, none) else s.endQuery g.doer h (s.withAnswers g.doer stOk)
  else if chk ≠ stOk then (s, some chk)
  else
    let (s1, st) := s.mitreWicket g (d.n 16 8) 64
    if st ≠ stOk then (s1, some st)
    else
      let (s2, st2) := s1.memWrite g false none (d.n 16 8) p.record
      if st2 = stOk ∧ ¬ (s2.sentWrites g.doer).isEmpty then (s2, none) else s2.endQuery g.doer h st2

/-- PEER_CMD REKEY (R266). -/
def execPeerCmdRekey (die : BitVec 2) (q : BitVec 12) (s : State) : Out := .next (sqCmd die.toNat q 5 (peerCmd goRekey) s)

/-- PEER_CMD RESET (R269). -/
def execPeerCmdReset (die : BitVec 2) (q : BitVec 12) (s : State) : Out := .next (sqCmd die.toNat q 6 (peerCmd goReset) s)

/-- PEER_CMD REMOVE (R269). -/
def execPeerCmdRemove (die : BitVec 2) (q : BitVec 12) (s : State) : Out := .next (sqCmd die.toNat q 7 (peerCmd goRemove) s)

/-- PEER_CMD QUERY (R269). -/
def execPeerCmdQuery (die : BitVec 2) (q : BitVec 12) (s : State) : Out := .next (sqCmd die.toNat q 8 (peerCmd goQuery) s)

/-! ### RECV (R254) -/

/-- RECV's fields (Table 9.3). -/
def recvFields (d : Desc) : Bool :=
  d.n 0 1 = 1 && mitreHeadOk d && d.zero 8 8 && 1 ≤ d.n 24 8 && d.n 24 8 < 2 ^ 32 && d.n 32 8 % 8 = 0 && d.zero 48 16

/-- The checked buffers that a die holds. -/
def State.heldBufs (s : State) (d : Nat) : Nat :=
  ((s.mit d).queues.map (fun e => ((e.2.map (fun m => m.bufs.length)).getD 0))).sum

/-- RECV (R254): the front item of a receive queue becomes a posted buffer, which adds to AVAIL. -/
def execRecv (die : BitVec 2) (q : BitVec 12) (s : State) : Out :=
  let d := die.toNat
  match s.mq d q with
  | none => .next s
  | some m =>
    if ¬ s.engOn ∨ ¬ m.isRq ∨ s.cqBlocked d q ∨ 16384 ≤ s.heldBufs d then .next s
    else match (s.queue d q).entries with
      | [] => .next s
      | (item, _) :: rest =>
        let a := item.toNat % 2 ^ 40
        let g := mitreAgent d m.pid m.cls.toNat
        let take := fun (t : State) => t.setQueue d q { t.queue d q with entries := rest }
        let finish := fun (t : State) (st : Status) (user : Nat) => (take t).finishOp d q (delayable m.cls false) st 1 0 0 0 user a
        let chk := s.checkRange g false a 64
        if 2 ^ 40 ≤ item.toNat ∨ a % 64 ≠ 0 then .next (finish s stMitre 0)
        else if ¬ s.takesWork (mitrePage d) ∨ (s.part m.pid).st = 3 then .next (finish s stDisabled 0)
        else if chk ≠ stOk then .next (finish s chk 0)
        else
          let (s1, st, b) := s.memRead g a 64
          let e : Desc := b
          let user := e.n 40 8
          let len := e.n 24 8
          let zn := if e.n 32 8 = 0 then 0 else zmapBytes len
          if st ≠ stOk then .next (finish s1 st 0)
          else if ¬ e.tagOk m.pid (s.part m.pid).pgen then .next (finish s1 stTag user)
          else if ¬ recvFields e then .next (finish s1 stMitre user)
          else
            let chk2 := s1.checkRanges g [(true, e.n 16 8, len), (true, e.n 32 8, zn)]
            if chk2 ≠ stOk then .next (finish s1 chk2 user)
            else
              let (s2, st2) := s1.mitreWicket g (e.n 16 8) len
              let (s3, st3) := if st2 = stOk then s2.mitreWicket g (e.n 32 8) zn else (s2, st2)
              if st3 ≠ stOk then .next (finish s3 st3 user)
              else
                let p : PostBuf := { desc := a, base := e.n 16 8, len := len, zmap := e.n 32 8, user := BitVec.ofNat 64 user }
                match (take s3).mq d q with
                | none => .next s
                | some m' => .next (((take s3).setMq d q (some { m' with bufs := m'.bufs ++ [p] })).giveGrants d q)

/-! ### SEND_PACKET_TRANSMIT (R253, R258, R259, R263) -/

/-- The message that a peer sends from next. -/
def Peer.nextSend (p : Peer) : Option SendOp := p.sends.find? (fun o => o.stop.isNone && o.off < o.len)

/-- MSG_LIMIT allows a message to begin (R253). -/
def Peer.allows (p : Peer) (msn : BitVec 32) : Bool :=
  let n := (p.msgLimit - msn).toNat
  1 ≤ n && n ≤ 2 ^ 31

/-- One CREDIT_REQ for the first message that waits (R253). -/
def State.askCredit (s : State) (h : BitVec 22) (p : Peer) (o : SendOp) : State :=
  if p.credReq ∨ 256 ≤ p.unacked.length then s
  else
    let k : TxPkt := { psn := p.psn, ty := 4, msn := p.msnNext, cls := o.cls, off := 0, plen := 0, map := 0, total := 0
                       path := p.msnNext.toNat % o.paths, paths := o.paths, body := [], fast := false }
    let full := s.portFull h p k.path k.cls.toNat
    let (s1, ok) := s.sendPkt h k false
    if ok then s1.modPeer h (fun x => { x with
      psn := x.psn + 1, unacked := x.unacked ++ [k], credReq := true
      sends := if full then noteDemoted k x.sends else x.sends }) else s1

/-- The source bytes of a packet, where its partition still owns them (R20). -/
def State.readSend (s : State) (g : Agent) (a n : Nat) : MemResult :=
  let st := (List.range n).foldl (fun st i => joinCheck st (s.checkPlace g.pid false none (s.placeOf g (a + i)))) stOk
  if st ≠ stOk then (s, st, []) else s.memRead g a n

/-- The next packet of a message (R240, R258). -/
def State.sendNext (s : State) (h : BitVec 22) (p : Peer) (o : SendOp) : State :=
  let msn := o.msn.getD p.msnNext
  let hd := homeOf h
  let (data, stop) := nextPiece (s.payload hd) o.off o.len o.zmap
  let n := stop - o.off
  let doer := mitreDoer (s.ctrlDie p.pid) o.q
  let g := { mitreAgent (s.ctrlDie p.pid) p.pid o.cls.toNat with doer := doer }
  if 256 ≤ p.unacked.length ∨ (o.cls = 3 ∧ (s.mit hd).c3 = 0) then s
  else
    let (s1, st, body) := if ¬ data then (s, stOk, []) else match o.sealOut with
      | some out => (s, stOk, (out.drop o.off).take n)
      | none => s.readSend g (o.src + o.off) n
    let same := fun (x : SendOp) => x.desc = o.desc && x.q = o.q && x.off = o.off && x.msn = o.msn
    if st ≠ stOk then s.settle doer (s1.stopSends h st same)
    else
      let marks := (n + 4095) / 4096
      let path := (msn.toNat + o.pkts) % o.paths
      let k : TxPkt := { psn := p.psn, ty := if data then 1 else 2, msn := msn, cls := o.cls, off := o.off, plen := n
                         map := BitVec.ofNat 64 (2 ^ marks - 1), total := o.len, path := path, paths := o.paths
                         body := body, fast := false }
      let demoted := o.demoted || s1.run.demoted || s1.portFull h p path o.cls.toNat
      let (s2, ok) := (s.settle doer s1).sendPkt h k false
      if ¬ ok then s2
      else
        let upd := fun (x : SendOp) =>
          if same x then { x with msn := some msn, off := stop, pkts := o.pkts + 1, demoted := demoted } else x
        let s3 := s2.modPeer h (fun x => { x with
          psn := x.psn + 1, unacked := x.unacked ++ [k], sends := x.sends.map upd
          msnNext := if o.msn.isNone then x.msnNext + 1 else x.msnNext
          credReq := if o.msn.isNone then false else x.credReq })
        let s4 := if o.cls = 3 then s3.setMit hd { s3.mit hd with c3 := (s3.mit hd).c3 - 1 } else s3
        if o.released then s4.bump64 (.die g.die tyWicket 0) 0x108 body.length else s4

/-- SEND_PACKET_TRANSMIT (R253, R258). -/
def execSendPacketTransmit (peer : BitVec 22) (s : State) : Out :=
  match s.peer peer with
  | none => .next s
  | some p =>
    match p.nextSend with
    | none => .next s
    | some o =>
      if ¬ s.mayTransmit p ∨ ¬ s.cached peer then .next s
      else if o.msn.isNone ∧ ¬ p.allows p.msnNext then .next ((s.touch peer).askCredit peer p o)
      else .next ((s.touch peer).sendNext peer p o)

/-! ### Arrivals -/

/-- MITRE_DATA (R255, R256). -/
def execMitreData (f : Frame) (s : State) : Out := .next (s.arrive 1 f)

/-- MITRE_ZERO (R202, R255). -/
def execMitreZero (f : Frame) (s : State) : Out := .next (s.arrive 2 f)

/-- MITRE_ACK (R261). -/
def execMitreAck (f : Frame) (s : State) : Out := .next (s.arrive 3 f)

/-- CREDIT_REQ (R254). -/
def execCreditReq (f : Frame) (s : State) : Out := .next (s.arrive 4 f)

/-- NON_MITRE_FRAME (R237, R238). -/
def execNonMitreFrame (f : Frame) (s : State) : Out :=
  if ¬ s.pins.por ∨ s.mode ≠ 1 ∨ s.power = 2 ∨ s.recognises f then .next s else .next (s.toMgmt f)

/-- PCT_FETCH_COMPLETE (R243 to R245): a C0 read of HBM, metered at its controller (R297). The context is cached and the packets that waited for it are handled in order;
a context that fails its integrity check loses its peer. -/
def execPctFetchComplete (peer : BitVec 22) (s : State) : Out :=
  let d := homeOf peer
  if ¬ s.engOn ∨ ¬ (s.mit d).waiting.contains peer then .next s
  else
    let off := fun (t : State) => t.setMit d { t.mit d with
      waiting := (t.mit d).waiting.filter (fun y => y ≠ peer), miss := (t.mit d).miss.filter (fun f => f.peer ≠ peer) }
    match s.peer peer, s.cacheIn peer with
    | none, _ => .next (off s)
    | some _, none => .next s
    | some p, some s1 =>
      let a := s.backAddr peer p
      let s0 := if s.cached peer then s1 else (s1.hbmRequest { mitreAgent d p.pid 0 with doer := .none } a 256).1
      let (s2, st) := if s.cached peer then (s1, stOk) else match s0.blockKey a with
        | some key => if s0.ver0 key = 0 then (s0, stOk) else s0.blockCheck a key
        | none => (s0, stOk)
      if st ≠ stOk then
        let s3 := ((off s2).dropSends peer (fun _ => stIntegrity)).dropSlots peer stIntegrity
        .next ((s3.modPeer peer (fun x => { x with st := .faulted })).mEvent d p.pid 2 0 peer.toNat a)
      else
        let frames := (s2.mit d).miss.filter (fun f => f.peer = peer)
        .next (frames.foldl (fun (t : State) f => t.packet peer f) (off s2))

/-! ### Timers and keys -/

/-- ACK_DELAY_EXPIRY (R260). -/
def execAckDelayExpiry (peer : BitVec 22) (s : State) : Out :=
  match s.peer peer with
  | none => .next s
  | some p => if p.due then .next (s.sendAck peer) else .next s

/-- A peer becomes UNREACHABLE: its sends, the WAIT_COUNTs held on its queues, and its open slots complete (R262); a send that
a flush, a disable or a failing source has stopped keeps the status of its stop (R270, R272). -/
def State.peerLost (s : State) (h : BitVec 22) (p : Peer) : State :=
  let c := s.ctrlDie p.pid
  let qs := p.sends.map (fun o => o.q)
  let holds := (s.mit c).queues.filter (fun e => match e.2 with
    | some m => (match m.hold with
      | some (w, _, _, _) => w = p.rq || qs.contains w
      | none => false)
    | none => false)
  let s1 := ((s.modPeer h (fun x => { x with st := .unreachable })).dropSends h (fun o => o.stop.getD stUnreachable)).dropSlots h stUnreachable
  let s2 := s1.endHoldsOn c stUnreachable (fun _ w => w = p.rq || qs.contains w)
  s2.mEvent (homeOf h) p.pid 1 0 h.toNat (p.ops + holds.length)

/-- RETRANSMIT_TIMEOUT (R261, R262): every expiry counts, also while the port that a packet would take sends none (R238). -/
def execRetransmitTimeout (peer : BitVec 22) (s : State) : Out :=
  match s.peer peer with
  | none => .next s
  | some p =>
    if p.unacked.isEmpty ∨ ¬ s.mayTransmit p then .next s
    else if p.retry = s.fld (mitrePage (homeOf peer)) 0x104 24 4 then .next (s.peerLost peer p)
    else
      let s1 := p.unacked.foldl (fun (t : State) k => t.resend peer k false) s
      .next (s1.modPeer peer (fun x => { x with retry := p.retry + 1, timeout := min 8000 (2 * p.timeout) }))

/-- MESSAGE_ABANDON (R257). -/
def execMessageAbandon (peer : BitVec 22) (msn : BitVec 32) (s : State) : Out :=
  match s.peer peer with
  | none => .next s
  | some p => match p.slots.find? (fun m => m.msn = msn && !m.mapping) with
    | none => .next s
    | some m =>
      let s1 := s.setPeer peer (some { p with slots := p.slots.filter (fun x => x.msn ≠ msn) })
      match m.buf with
      | none => .next s1
      | some b => .next (s1.endRecv p.pid p.rq b m.demoted stAbandoned peer msn.toNat m.placed)

/-- RX_KEY_RELEASE (R266): the old RX key's overlap ends. -/
def execRxKeyRelease (peer : BitVec 22) (s : State) : Out :=
  match s.peer peer with
  | none => .next s
  | some p => if p.rxNew then .next s else .next (s.setPeer peer (some { p with oldRx := none }))

/-- KEY_EXHAUSTED (R267). -/
def execKeyExhausted (peer : BitVec 22) (s : State) : Out :=
  match s.peer peer with
  | none => .next s
  | some p =>
    if p.st = .active ∧ 2 ^ 40 ≤ p.pktCtr then
      .next ((s.setPeer peer (some { p with st := .keyExhausted })).mEvent (homeOf peer) p.pid 4 0 peer.toNat p.epoch.toNat)
    else .next s

/-- CQ_SPACE_RESUME (R252): records that wait are written while READ_COUNT leaves room. -/
def execCqSpaceResume (die : BitVec 2) (cq : BitVec 10) (s : State) : Out :=
  match s.ring die.toNat cq.toNat with
  | none => .next s
  | some r => .next (State.ringResume die.toNat cq.toNat r.waiting.length s)

/-! ### Ports (R273) -/

/-- A port's link changes, and the event goes to every partition that holds the port. -/
def State.portEvent (s : State) (port : BitVec 3) (up : Bool) (status : Word) : State :=
  let d := port.toNat / 2
  let s1 := s.setFld (ethPage port.toNat) 0x100 0 1 (if up then 1 else 0)
  s1.parts.foldl (fun (t : State) e =>
    if e.2.ports.getLsbD port.toNat ∧ e.2.st ≠ 0 then
      t.mEvent d (BitVec.ofNat 5 e.1) (if up then 8 else 7) port.toNat 0 status.toNat
    else t) (s1.raise (mitrePage d) 0)

/-- PORT_UP (R273). -/
def execPortUp (port : BitVec 3) (status : Word) (s : State) : Out :=
  if ¬ s.diesUp ∨ s.fld (ethPage port.toNat) 0x100 0 1 = 1 then .next s else .next (s.portEvent port true status)

/-- PORT_DOWN (R273). -/
def execPortDown (port : BitVec 3) (status : Word) (s : State) : Out :=
  if ¬ s.diesUp ∨ s.fld (ethPage port.toNat) 0x100 0 1 = 0 then .next s else .next (s.portEvent port false status)

end Sys2Proof.Machine
end

