-- ==== Sys2Proof/Machine/Joist.lean ====
section
/-!
DEFINITION. Joist (R285 to R296): packets that arrive, at their destination or to be forwarded; responses to a
thread's remote accesses (R292, R293); links that replay, go down, come up and get credit back. Atomics at the memory
that holds the address (R32, R80, R81).
-/

namespace Sys2Proof.Machine

/-- The JOIST page of a die. -/
def joistPage (d : Nat) : Page := .die d tyJoist 0

/-! ### Atomics at the memory (R80, R81) -/

/-- The value that an atomic stores, from the old value, the operand and CAS's comparand; none where CAS differs. -/
def atomNew (op n old data cmp : Nat) : Option Nat :=
  let m := 2 ^ (8 * n)
  match op with
  | 0 => some ((old + data) % m)
  | 1 => some (data % m)
  | 2 => if old = cmp % m then some (data % m) else none
  | _ => some (if toSigned (8 * n) old < toSigned (8 * n) (data % m) then data % m else old)

/-- An atomic of n bytes: the state, the status, and the old value. -/
def State.atomicAt (s : State) (g : Agent) (op a n data cmp : Nat) : State × Status × Nat :=
  let chk := (List.range n).foldl (fun st i =>
    joinCheck st (s.checkPlace g.pid true none (s.place g.die (a + i)))) stOk
  if chk ≠ stOk then (s, chk, 0)
  else
    let (s1, st, old) := s.readNum g a n
    if st ≠ stOk then (s1, st, 0)
    else match atomNew op n old data cmp with
      | none => (s1, stOk, old)
      | some v =>
        let (s2, st2) := s1.memWrite g false none a (Crypto.leBytes n v)
        (s2, st2, old)

/-- A long-form add at its destination (R81): the state, the status of the access, and what rd receives: the status
byte and the resulting flag byte. -/
def State.lfaddAt (s : State) (g : Agent) (dst src : Nat) (sb : List Byte) : State × Status × Nat :=
  let chk := (List.range 20).foldl (fun st i =>
    joinCheck st (s.checkPlace g.pid true none (s.place g.die (dst + i)))) stOk
  if chk ≠ stOk then (s, chk, 0)
  else
    let (s1, st, db) := s.memRead g dst 20
    if st ≠ stOk then (s1, st, 0)
    else
      let (r, x) := lfAdd dst (lfOfBytes db) src (lfOfBytes sb)
      if r ≠ stOk then (s1, stOk, r.toNat + 256 * (lfOfBytes db).elem.flags.toNat)
      else
        let (s2, st2) := s1.memWrite g false none dst x.toBytes
        (s2, st2, 256 * x.elem.flags.toNat)

/-! ### Answers to a thread's remote accesses (R292, R293) -/

/-- A thread that a fault of an outstanding load can stop. -/
def Thread.running (t : Thread) : Bool := !(t.st = .idle || t.st = .faulted || t.st = .draining)

/-- An access whose failure faults its thread at once: a load (R79), or one that a reset of the other end has abandoned
(R390, R393). -/
def Access.faultsNow (x : Access) (st : Status) : Bool := !x.stores || st = stPeerReset

/-- An outstanding access ends with a failing status: a load, or an access abandoned by a reset, faults its thread at once; a
store or atomic is held until the next release fence or HALT (R79, R292, R390, R474), or discarded in the fail-safe state
(R293). -/
def State.failAccess (s0 : State) (w : Who) (idx : Nat) (st0 : Status) : State :=
  let s := s0.countSegment st0
  let st := closed st0
  let t := s.thread w
  match t.accs[idx]? with
  | none => s
  | some x =>
    let t1 := { t with accs := t.accs.eraseIdx idx }
    if x.faultsNow st then
      let s1 := s.setThread w t1
      if t.running then s1.threadFault w (causeOf st) x.pc (BitVec.ofNat 64 x.addr) else s1
    else
      let fs : Bool := s.failsafe
      s.setThread w { t1 with held := if fs then none else if t.held.isSome then t.held else some (st, x.addr) }

/-- The outstanding accesses of every thread that have not been accepted, at the places that a test names, are abandoned by a
reset there (R389, R390). -/
def State.abandonAt (s : State) (at' : Space → Bool) : State :=
  s.threads.foldl (fun (t : State) e =>
    let w := whoOf e.1
    let lost := fun (x : Access) => x.stage = .issued && at' (t.place (dieOfCore w.core.toNat) x.addr)
    (List.range e.2.accs.length).foldl (fun (u : State) _ =>
      match (u.thread w).accs.findIdx? lost with
      | some i => u.failAccess w i stPeerReset
      | none => u) t) s

/-- The register value of n loaded bytes. -/
def extendTo (n v : Nat) (sext : Bool) : Word :=
  if sext then BitVec.ofInt 64 (toSigned (8 * n) v) else BitVec.ofNat 64 v

/-- An access of a thread answered with data. -/
def State.gotAccess (s : State) (w : Who) (idx v : Nat) : State :=
  let t := s.thread w
  match t.accs[idx]? with
  | none => s
  | some x =>
    match x.kind with
    | .store => s.setThread w { t with accs := t.accs.eraseIdx idx }
    | .load sext => s.setThread w { t with accs := t.accs.set idx { x with stage := .got (extendTo x.size v sext) } }
    | .atom _ => s.setThread w { t with accs := t.accs.set idx { x with stage := .got (BitVec.ofNat 64 v) } }

/-- The answer to a remote operation of a command: its STATUS and data (R291, R292); of a long-form add that was accepted
the status that it ended with (log 60). -/
def State.answerOp (s : State) (o : RemOp) (st : Status) (bs : List Byte) : State :=
  { s with remote := s.remote.map (fun x => if x = o then
    { x with done := some (if o.lf ∧ st = stOk then bs.getD 0 stOk else st, bs) } else x) }

/-- A response to an access of a thread or to an operation of a command (R291 to R293). -/
def State.response (s : State) (p : JPkt) : State :=
  let s0 := if p.cls = 3 then s.joistCredit (p.tag.toNat / 2 ^ 14) p.src.toNat else s
  match s0.findPend p.src p.tag with
  | some (d, j) =>
    let s1 := s0.setDie d { s0.die d with pend := (s0.die d).pend.filter (fun x => x ≠ j) }
    (match (s1.thread j.who).accs.findIdx? (fun x => x.stage = .sent p.tag) with
    | none => s1
    | some i => if p.status ≠ stOk then s1.failAccess j.who i p.status else s1.gotAccess j.who i (Crypto.leNat p.payload))
  | none =>
    match s0.findOp p.src p.tag with
    | some o => (s0.answerOp o p.status p.payload).placedOn
    | none => s0

/-! ### Arrivals at their destination (R287, R291, R294, R296) -/

/-- The partition that an RPID names (R294). -/
def State.rpidPart (s : State) (rpid : BitVec 16) : Option (BitVec 5) :=
  (s.parts.find? (fun e => e.2.st ≠ 0 && e.2.rpid = rpid && rpid ≠ 0)).map (fun e => BitVec.ofNat 5 e.1)

/-- The owner of a local byte, if a partition owns it. -/
def State.byteOwner (s : State) (a : Nat) : Option (BitVec 5) :=
  match s.placeLocal a with
  | .hbm l => (s.region (l / 0x200000)).bind Region.owner
  | .press c _ => s.clusterOwner c
  | .drawer k _ => s.coreOwner k
  | _ => none

/-- The check of an arriving request over n bytes (R24, R294, R296). -/
def State.arrivalCheck (s : State) (p : JPkt) (pid : BitVec 5) (write released : Bool) (n : Nat) : Status :=
  let x := s.part pid
  if x.keyGone then (if write then stOrphan else stBound)
  else (List.range n).foldl (fun st i =>
    let a := p.addr.toNat + i
    joinCheck st (
      if ¬ remoteOk a then stUnmapped
      else if ¬ released ∧ ((s.byteOwner a).map (fun o => (s.part o).conf)).getD false ∧
          ¬ (x.rackTrust ∧ x.trust.getLsbD p.src.toNat) then stBound
      else s.checkPlace pid write none (s.placeLocal a))) stOk

/-- An answer to a packet, on the lane it came by (log 59). -/
def State.answer (s : State) (d lane : Nat) (p : JPkt) (ty : BitVec 4) (st : Status) (bs : List Byte) : State :=
  s.joistSend d lane ty { p with src := p.dst, dst := p.src, status := st, op := 0, released := false, payload := bs }

/-- A request served: RD_REQ, WR or ATOM of the partition that its RPID names. -/
def State.serve (s : State) (d lane ty : Nat) (p : JPkt) : State :=
  let n := if ty = 1 then p.size.toNat + 1 else if ty = 3 then p.payload.length
    else if p.op.toNat % 16 = 4 then 20 else if p.op.getLsbD 4 then 8 else 4
  let a := p.addr.toNat
  let refuse := fun (st : Status) => (s.bump (joistPage d) 0x128 1).answer d lane p (if ty = 1 then 2 else 5) st []
  match s.rpidPart p.rpid with
  | none => refuse stBound
  | some pid =>
    let g : Agent := { die := d, pid := pid, cls := p.cls.toNat, sel := 0, port := 36 + d }
    let chk := s.arrivalCheck p pid (ty ≠ 1) (ty = 3 && p.released) n
    if chk ≠ stOk then refuse chk
    else if ty = 1 then
      let (s1, st, b) := s.memRead g a n
      s1.answer d lane p 2 st (if st = stOk then b else [])
    else if ty = 3 then
      let inLines : Bool := match s.placeLocal a with
        | .press _ l => s.partBad l n
        | .drawer _ l => s.partBad l n
        | _ => false
      let (s1, st) := if inLines then (s, stIntegrity) else s.memWrite g false none a p.payload
      s1.answer d lane p 5 st []
    else if p.op.toNat % 16 = 4 then
      let (s1, st, v) := s.lfaddAt g a 0 p.payload
      s1.answer d lane p 5 st (if st = stOk then Crypto.leBytes 8 v else [])
    else
      let (s1, st, old) := s.atomicAt g (p.op.toNat % 16) a n (Crypto.leNat (p.payload.take n)) (Crypto.leNat ((p.payload.drop n).take n))
      s1.answer d lane p 5 st (if st = stOk then Crypto.leBytes 8 old else [])

/-- A packet for another device is forwarded by this device's route table (R287); without a route it is dropped. It
stands in the receive buffer of its lane until it leaves (R289). -/
def State.forward (s : State) (d lane ty : Nat) (p : JPkt) : State :=
  match s.routeDie d p.dst.toNat with
  | none => s.freeCells d lane p
  | some e => s.joistSend e (laneOf (s.routeMask e p.dst.toNat) 0) (BitVec.ofNat 4 ty) p
      (some (BitVec.ofNat 2 d, BitVec.ofNat 6 lane))

/-- A packet in a lane's receive buffer is delivered, which frees its cells, or forwarded (R287, R289). -/
def State.deliver (s : State) (d lane ty : Nat) (p : JPkt) : State :=
  if s.devNum d ≠ some p.dst.toNat then s.forward d lane ty p
  else
    let s1 := s.freeCells d lane p
    if ty = 2 ∨ ty = 5 then s1.response p else s1.serve d lane ty p

/-- The arrivals of a die that waited for the end of DOZE (R396). -/
def State.drainHeld (s : State) (d : Nat) : State :=
  (s.die d).vcHeld.foldl (fun (t : State) x => t.deliver d x.1.toNat x.2.1.toNat x.2.2)
    (s.setDie d { s.die d with vcHeld := [] })

/-- A packet enters the receive buffer of its lane (R289). -/
def State.takeCells (s : State) (d lane : Nat) (p : JPkt) : State :=
  let l := s.link d lane
  s.setLink d lane { l with rx := sput (fun _ => (0 : Nat)) l.rx p.cls.toNat (l.held p.cls.toNat + pktCells p) }

/-- A packet of a type arrives on a lane: it ends DOZE, or waits in its buffer where that is masked (R396). One that the
32 cells of its class have no room for cannot arrive, since its sender holds no credit for it (R289). -/
def State.joistIn (s : State) (d lane ty : Nat) (p : JPkt) : State :=
  let l := s.link d lane
  if ¬ s.pins.por ∨ s.mode ≠ 1 ∨ s.power = 2 ∨ ¬ l.up ∨ 32 < l.held p.cls.toNat + pktCells p then s
  else if s.power = 1 ∧ ¬ (s.rd (.dieE tyClocks) 0x120).getLsbD 1 then
    let s1 := s.takeCells d lane p
    s1.setDie d { s1.die d with vcHeld := (s1.die d).vcHeld ++ [(BitVec.ofNat 6 lane, BitVec.ofNat 4 ty, p)] }
  else (((s.wakeDoze 3).drainHeld d).takeCells d lane p).deliver d lane ty p

/-- RD_REQ (R291, R294). -/
def execRdReq (die : BitVec 2) (lane : BitVec 6) (p : JPkt) (s : State) : Out := .next (s.joistIn die.toNat lane.toNat 1 p)

/-- RD_RESP (R291, R292). -/
def execRdResp (die : BitVec 2) (lane : BitVec 6) (p : JPkt) (s : State) : Out := .next (s.joistIn die.toNat lane.toNat 2 p)

/-- WR (R291, R294). -/
def execWr (die : BitVec 2) (lane : BitVec 6) (p : JPkt) (s : State) : Out := .next (s.joistIn die.toNat lane.toNat 3 p)

/-- JOIST_ATOM (R291, R32). -/
def execJoistAtom (die : BitVec 2) (lane : BitVec 6) (p : JPkt) (s : State) : Out := .next (s.joistIn die.toNat lane.toNat 4 p)

/-- WR_ACK (R291, R292). -/
def execWrAck (die : BitVec 2) (lane : BitVec 6) (p : JPkt) (s : State) : Out := .next (s.joistIn die.toNat lane.toNat 5 p)

/-! ### Links (R285, R288, R289, R301) -/

/-- The selector of a packet in a buffer: that of the thread whose access it is, or that issued the command it serves
(R286); else 0 (log 59). -/
def State.pktSel (s : State) (p : JPkt) : Nat :=
  match s.findPend p.dst p.tag, s.findOp p.dst p.tag with
  | some (_, j), _ => whoKey j.who
  | none, some o => o.sel
  | none, none => 0

/-- A lane leaves every route mask of its die (R288). -/
def State.dropLane (s : State) (d lane : Nat) : State :=
  let x := s.die d
  s.setDie d { x with routes := (x.routes.map (fun e => (e.1, e.2 &&& ~~~((1 : BitVec 34) <<< lane)))).filter (fun e => e.2 ≠ 0) }

/-- Another device has no route left from any die (R25, R288). -/
def State.noRoute (s : State) (dev : Nat) : Bool := (List.range 4).all (fun d => s.routeMask d dev = 0)

/-- Every operation that awaits a response of a device without a route completes JOIST_LINK_LOST: accesses of threads and
operations of commands, sent or still waiting for a C3 credit (R288, R293). -/
def State.loseRoutes (s : State) : State :=
  let s1 := (List.range 4).foldl (fun (t : State) d =>
    (t.die d).pend.foldl (fun (u : State) j =>
      if (u.routeDie d j.dst.toNat).isSome then u
      else
        let u1 := u.setDie d { u.die d with pend := (u.die d).pend.filter (fun x => x ≠ j) }
        match (u1.thread j.who).accs.findIdx? (fun x => x.stage = .sent j.tag) with
        | none => u1
        | some i => u1.failAccess j.who i stLinkLost) t) s
  let s2 := { s1 with remote := s1.remote.map (fun o =>
    if o.done.isNone ∧ s1.noRoute o.dev.toNat then { o with done := some (stLinkLost, []) } else o) }
  ((List.range 4).foldl (fun (t : State) d =>
    let x := t.die d
    t.setDie d { x with c3Wait := x.c3Wait.filter (fun w => !t.noRoute w.2.2.dst.toNat)
                        c3 := x.c3.filter (fun e => !t.noRoute e.1) }) s2).placedOn

/-- A link goes down (R288): LINK_DOWN, out of the masks, its packets sent again where R286 now leads. -/
def State.takeDown (s : State) (d lane : Nat) : State :=
  let l := s.link d lane
  let ps : List (BitVec 4 × JPkt × Option (BitVec 2 × BitVec 6)) := l.replay.map (fun x => (x.1, x.2, none)) ++ l.queued
  let s1 := ((s.setLink d lane { l with up := false, replay := [], queued := [], replays := 0, credits := [], rx := [] }).raise
    (joistPage d) 0).dropLane d lane
  let s2 := ps.foldl (fun (t : State) x => match t.routeDie d x.2.1.dst.toNat with
    | some e => t.joistResend e (laneOf (t.routeMask e x.2.1.dst.toNat) (t.pktSel x.2.1)) x.1 x.2.1 x.2.2
    | none => (match x.2.2 with
      | some (d', n') => t.freeCells d'.toNat n'.toNat x.2.1
      | none => t)) s1
  s2.loseRoutes

/-- Packets that wait on a lane are sent against the credit there now is. -/
def State.flushLink (s : State) (d lane : Nat) : State :=
  let l := s.link d lane
  l.queued.foldl (fun (t : State) x => t.joistResend d lane x.1 x.2.1 x.2.2) (s.setLink d lane { l with queued := [] })

/-- LINK_REPLAY (R285): the replay buffer is sent again; the eighth consecutive replay takes the link down. -/
def execLinkReplay (die : BitVec 2) (lane : BitVec 6) (s : State) : Out :=
  let d := die.toNat
  let n := lane.toNat
  let l := s.link d n
  if ¬ l.up ∨ l.replay.isEmpty then .next s
  else
    let s1 := ((s.bump (joistPage d) 0x120 1).countRetry 2 (34 * d + n)).setLink d n { l with replays := l.replays + 1 }
    if 8 ≤ l.replays + 1 then .next ((s1.raise (joistPage d) 2).takeDown d n)
    else .next (l.replay.foldl (fun (t : State) x => t.emit (.joist die n x.1 x.2)) s1)

/-- LINK_DOWN (R288). -/
def execLinkDown (die : BitVec 2) (lane : BitVec 6) (s : State) : Out :=
  if (s.link die.toNat lane.toNat).up then .next (s.takeDown die.toNat lane.toNat) else .next s

/-- A lane of Joist: 34 a die. -/
def laneCount : Nat := 34

/-- A lane may carry a link: one of the 32 that no spare has replaced, or a spare in service (R436). `lanes` holds lane
n as n + 1 under 34 × die + spare. -/
def State.laneInService (s : State) (d lane : Nat) : Bool :=
  if lane < 32 then !s.spares.lanes.any (fun e => e.1 / 34 = d && e.2 = lane + 1)
  else decide (lane < laneCount) && (s.link d lane).spare

/-- LINK_UP (R301). -/
def execLinkUp (die : BitVec 2) (lane : BitVec 6) (dev : BitVec 6) (partnerLane : BitVec 6) (s : State) : Out :=
  let d := die.toNat
  let n := lane.toNat
  let l := s.link d n
  if l.up ∨ ¬ s.laneInService d n ∨ ¬ s.diesUp ∨ s.mode ≠ 1 then .next s
  else .next (((s.setLink d n { l with up := true, dev := dev, lane := partnerLane, credits := [], replays := 0, rx := [] }).raise
    (joistPage d) 1).flushLink d n)

/-- Packets of a class that returned cells cover leave the replay buffer, oldest first (log 61). -/
def ackReplay (cls : BitVec 2) : Nat → List (BitVec 4 × JPkt) → List (BitVec 4 × JPkt)
  | _, [] => []
  | n, x :: xs =>
    if x.2.cls = cls ∧ pktCells x.2 ≤ n then ackReplay cls (n - pktCells x.2) xs else x :: ackReplay cls n xs

/-- VC_CREDIT_GRANT (R289): credits of a class return, and packets that wait for them leave. -/
def execVcCreditGrant (die : BitVec 2) (lane : BitVec 6) (cls : BitVec 2) (cells : BitVec 6) (s : State) : Out :=
  let d := die.toNat
  let n := lane.toNat
  let l := s.link d n
  if ¬ l.up then .next s
  else
    let free := min 32 (l.free cls.toNat + cells.toNat)
    .next ((s.setLink d n { l with credits := sput (fun _ => (32 : Nat)) l.credits cls.toNat free
                                   replay := ackReplay cls cells.toNat l.replay, replays := 0 }).flushLink d n)

end Sys2Proof.Machine
end

