-- ==== Sys2Proof/Machine/Seedbed.lean ====
section
/-!
DEFINITION. Seedbed (chapter 13): sources with their samples, health tests and blocks, conditioning and the seed buffer, the
DRBG with its hold, reseed and stretch, the output queue, raw-sample mode, and the reads of RAND and RAW. The samples are
operands of the commands; how long a step takes is not modelled.
-/

namespace Sys2Proof.Machine

/-- STATE.IN_SERVICE (Table 13.3). -/
def State.sourcesOn (s : State) : BitVec 10 := BitVec.ofNat 10 (s.fld seedPage 0x100 16 10)

/-- STATE.RAW. -/
def State.rawOn (s : State) : Bool := (s.rd seedPage 0x100).getLsbD 9

/-- STATE.HOLD. -/
def State.seedHold (s : State) : Bool := (s.rd seedPage 0x100).getLsbD 4

/-- TEST.SRC, the source of raw-sample mode. -/
def State.rawSrc (s : State) : Nat := s.fld seedPage 0x140 8 4

/-- The sources that feed conditioning: in service, but for the one in raw mode (R362). -/
def State.feeding (s : State) : BitVec 10 :=
  if s.rawOn then s.sourcesOn &&& ~~~((1 : BitVec 10) <<< s.rawSrc) else s.sourcesOn

/-- Seedbed's clock runs: die E is powered and not in retention (Table 15.1, R401). -/
def State.escOn (s : State) : Bool :=
  s.pins.por && (s.power ≠ 2 || (s.rd (.dieE tyClocks) 0x11C).getLsbD 5)

/-- Seedbed starts from STARTUP: at power-on reset and at every wake from SLEEP (R361, R402). -/
def State.seedRestart (s : State) : State :=
  let s1 := (s.wrN seedPage 0x100 (s.spares.sources.toNat * 65536 + (if s.rawOn then 512 else 0))).wrN seedPage 0x108 20
  { s1 with seed := { s1.seed with inst := false, key := [], v := 0, since := 0, queue := [], seeds := [], forming := []
                                   sources := [], fresh := s.spares.sources, passed := 0, rawBuf := [], sweep := none
                                   wait := none } }

/-! ### The DRBG (R355, R356, R359) -/

/-- The DRBG takes a conditioned seed: instantiation or reseed. READY is raised when MODE first becomes HEALTHY (R364). -/
def State.reseed (s : State) (seed : List Byte) : State :=
  let x := s.seed
  let (k, v) := if x.inst then drbgUpdate x.key x.v seed else drbgUpdate (List.replicate 32 0) 0 seed
  let s1 := ((s.setFld seedPage 0x100 0 9 1).wrN seedPage 0x108 20).bump seedPage 0x10C 1
  let s2 := { s1 with seed := { s1.seed with inst := true, key := k, v := v, since := 0, ready := true } }
  if x.ready then s2 else s2.raise seedPage 3

/-- L of R356, in bytes. -/
def State.seedLimit (s : State) : Nat := 2 ^ s.fld seedPage 0x108 0 6

/-- The DRBG generates: it is instantiated and not in HOLD, its output has not reached L, and the queue has room. -/
def State.mayGenerate (s : State) : Bool :=
  s.escOn && s.seed.inst && !s.seedHold && s.seed.since < s.seedLimit && s.seedLevel + chunkLen ≤ 65536

/-! ### Sources (R351 to R353) -/

/-- A source that has delivered no sample since it started. -/
def SeedSource.reset : SeedSource := { block := [], first := 0, same := 0, last := 0, run := 0, final := [], start := 0 }

/-- A source. -/
def State.source (s : State) (src : Nat) : SeedSource := sget (fun _ => SeedSource.reset) s.seed.sources src

/-- A source replaced. -/
def State.setSource (s : State) (src : Nat) (x : SeedSource) : State :=
  { s with seed := { s.seed with sources := sput (fun _ => SeedSource.reset) s.seed.sources src x } }

/-- The samples of a block. -/
def blockLen : Nat := 512

/-- The samples of start-up. -/
def startLen : Nat := 4096

/-- One sample enters a source's block and its tests. -/
def SeedSource.take (x : SeedSource) (b : Byte) : SeedSource :=
  { x with
    block := b :: x.block
    first := if x.block.isEmpty then b else x.first
    same := if x.block.isEmpty then 1 else if b = x.first then x.same + 1 else x.same
    last := b
    run := if x.run ≠ 0 ∧ b = x.last then x.run + 1 else 1
    start := min startLen (x.start + 1) }

/-- The health test that a source's samples fail (R352): the repetition-count test (false) at 21 equal samples in a row, the
adaptive-proportion test (true) where the first sample value of the block has occurred 311 times within it. -/
def SeedSource.failed (x : SeedSource) : Option Bool :=
  if 21 ≤ x.run then some false else if 311 ≤ x.same then some true else none

/-- A source leaves its block with it as its last whole one. -/
def SeedSource.ended (x : SeedSource) : SeedSource := { x with block := [], same := 0, final := x.block.reverse }

/-- The counts of a test failure (R353, R434, Table 13.3). -/
def State.countFailure (s : State) (src : Nat) (apt : Bool) : State :=
  (((s.bump seedPage (if apt then 0x114 else 0x110) 1).raise seedPage 0).countRetry 3 src).setFld seedPage 0x118 8 4 src

/-- A source restarts, its block discarded: it must pass 4,096 start-up samples (R353). -/
def State.restartSource (s : State) (src : Nat) : State :=
  let s1 := s.setSource src SeedSource.reset
  { s1 with seed := { s1.seed with fresh := s1.seed.fresh ||| ((1 : BitVec 10) <<< src)
                                   passed := s1.seed.passed &&& ~~~((1 : BitVec 10) <<< src) } }

/-- Steps 1, 2 and 4 of R353: block and waiting seeds discarded, the source restarted. Seeds in conditioning, whose blocks
ended before, no longer end HOLD (R359). -/
def State.failSource (s : State) (src : Nat) : State :=
  ({ s with seed := { s.seed with seeds := [], forming := s.seed.forming.map (fun (f : List Byte × Bool) => (f.1, false)) } }).restartSource src

/-- A fatal failure's own effects on Seedbed (R360): the DRBG, the buffer and the queue are zeroised and emptied, MODE is
FAILED and FATAL is raised; a waiting re-mask sweep ends. -/
def State.seedFatal (s : State) : State :=
  ({ s with seed := { s.seed with inst := false, key := [], v := 0, since := 0, queue := [], seeds := [], forming := []
                                  sweep := none } }.setFld seedPage 0x100 0 2 3).raise seedPage 1

/-- A test failure of a source (R353, R360, R362): the state, and whether it is the fourth within the window. That of the
source in raw-sample mode is counted and restarts it, without HOLD and outside the window. -/
def State.healthFail (s : State) (src : Nat) (apt : Bool) : State × Bool :=
  let s1 := (s.countFailure src apt).failSource src
  if s.rawOn ∧ s.rawSrc = src then (s1, false)
  else
    let n := s.fld seedPage 0x118 0 3 + 1
    let s2 := (s1.setFld seedPage 0x118 0 3 n).setFld seedPage 0x100 4 1 1
    if 4 ≤ n then (s2.seedFatal, true) else (s2, false)

/-- A sample of the source in raw-sample mode enters the raw buffer, before any test (R362). -/
def State.rawTake (s : State) (src : Nat) (b : Byte) : State :=
  if ¬ (s.rawOn ∧ s.rawSrc = src) then s
  else if s.seed.rawBuf.length < 4096 then { s with seed := { s.seed with rawBuf := s.seed.rawBuf ++ [b] } }
  else s.bump seedPage 0x150 1

/-- One sample of a source arrives (R351, R352): the state, and whether it brings a fatal failure. A source whose block is
whole delivers none until the block ends. -/
def State.takeSample (s : State) (src : Nat) (b : Byte) : State × Bool :=
  let x := s.source src
  if ¬ s.sourcesOn.getLsbD src ∨ s.seedMode = 3 ∨ blockLen ≤ x.block.length then (s, false)
  else
    let y := x.take b
    let s1 := (s.rawTake src b).setSource src y
    match y.failed with
    | some apt => s1.healthFail src apt
    | none => (s1, false)

/-- Samples of a source arrive in order, up to a fatal failure. -/
def State.samples (s : State) (src : Nat) (bs : List Byte) : State × Bool :=
  bs.foldl (fun r b => if r.2 then r else r.1.takeSample src b) (s, false)

/-- Every source in service has passed its start-up samples (R361). -/
def State.startupPassed (s : State) : Bool := s.sourcesOn &&& ~~~s.seed.passed = 0

/-- The number of set bits. -/
def ones10 (b : BitVec 10) : Nat := ((List.range 10).filter (fun i => b.getLsbD i)).length

/-! ### Conditioning (R354) -/

/-- The seed of two blocks, that of the lower-numbered source first. -/
def condition (a b : List Byte) : List Byte := Crypto.sha384 (a ++ b)

/-- Blocks in pairs, in order; one without a partner is discarded (log 64). -/
def pairUp : List (List Byte) → List (List Byte)
  | a :: b :: rest => condition a b :: pairUp rest
  | _ => []

/-- A block boundary (R352, R354): the whole blocks of feeding sources that are not in start-up pair up; pairs beyond the
seed buffer's room are discarded. With `late` a source failed at this boundary, so the blocks have not ended after the latest
failure (R359). -/
def State.blockEnd (s : State) (late : Bool) : State :=
  let done := (List.range 10).filter (fun i => (s.source i).block.length = blockLen)
  let s1 := done.foldl (fun (t : State) i => t.setSource i (s.source i).ended) s
  let good := done.filter (fun i => s.feeding.getLsbD i && !s.seed.fresh.getLsbD i)
  let room := 4 - (s.seed.seeds.length + s.seed.forming.length)
  if s.seed.inst ∨ s.startupPassed then
    { s1 with seed := { s1.seed with
        forming := s1.seed.forming ++ ((pairUp (good.map (fun i => (s1.source i).final))).take room).map (fun x => (x, !late)) } }
  else s1

/-- SOURCE_STARTUP_PASS (R353, R361): a source that has passed 4,096 start-up samples rejoins; the last one to pass before
instantiation brings the first seed, from the final start-up blocks of the two lowest-numbered sources. -/
def execSourceStartupPass (src : BitVec 4) (s : State) : Host.Outcome State Fault Refusal :=
  let b : BitVec 10 := 1 <<< src.toNat
  if ¬ s.escOn ∨ s.seedMode = 3 ∨ s.seed.fresh &&& b = 0 ∨ (s.source src.toNat).start < startLen then .next s
  else
    let s1 := { s with seed := { s.seed with fresh := s.seed.fresh &&& ~~~b, passed := s.seed.passed ||| b } }
    if ¬ s1.seed.inst ∧ s1.startupPassed ∧ ¬ s.startupPassed then
      let fs := (((List.range 10).filter (fun i => s1.feeding.getLsbD i)).take 2).map (fun i => (s1.source i).final)
      .next { s1 with seed := { s1.seed with forming := s1.seed.forming ++ (pairUp fs).map (fun x => (x, true)) } }
    else .next s1

/-- The oldest seed in conditioning reaches the buffer; it instantiates the DRBG or ends HOLD where both its blocks ended
after the latest failure (R354, R359, R361). -/
def State.seedConditioned (s : State) : State :=
  if ¬ s.escOn ∨ s.seedMode = 3 then s
  else match s.seed.forming with
    | [] => s
    | (x, b) :: rest =>
      let s1 := { s with seed := { s.seed with forming := rest } }
      if b ∧ (¬ s.seed.inst ∨ s.seedHold) then s1.reseed x
      else { s1 with seed := { s1.seed with seeds := s1.seed.seeds ++ [x] } }

/-- DRBG_RESEED (R356): output has reached L; the oldest seed reseeds, or L doubles where the queue runs low. -/
def execDrbgReseed (s : State) : Host.Outcome State Fault Refusal :=
  if ¬ s.escOn ∨ ¬ s.seed.inst ∨ s.seedHold ∨ s.seed.since < s.seedLimit then .next s
  else match s.seed.seeds with
    | x :: rest => .next ({ s with seed := { s.seed with seeds := rest } }.reseed x)
    | [] =>
      let l := s.fld seedPage 0x108 0 6
      if 16384 ≤ s.seedLevel ∨ 32 ≤ l then .next s
      else
        let s1 := (s.wrN seedPage 0x108 (l + 1)).setFld seedPage 0x100 8 1 1
        .next (if s.fld seedPage 0x100 8 1 = 0 then s1.raise seedPage 2 else s1)

/-- DRBG_GENERATE (R355 to R357, R359): a request of 4 KiB enters a queue that has room for it. -/
def execDrbgGenerate (s : State) : Host.Outcome State Fault Refusal :=
  if s.mayGenerate then .next s.generate else .next s

/-- FAILURE_LEAVES_WINDOW (R360): WINDOW.COUNT falls by one. -/
def execFailureLeavesWindow (s : State) : Host.Outcome State Fault Refusal :=
  let n := s.fld seedPage 0x118 0 3
  if n = 0 then .next s else .next (s.setFld seedPage 0x118 0 3 (n - 1))

/-- What a read of RAND gives (R358): the status and 56 random bits, from bytes above the 4 KiB reserve, behind every waiting
request of an earlier consumer (Table 13.1). -/
def State.readRand (s : State) : State × Nat :=
  if s.seedMode = 3 then (s, stRngFailed.toNat * 2 ^ 56)
  else if ¬ s.canServe 5 (4096 + 8) ∨ s.rawOn then
    (s.bump seedPage 0x11C 1, stRngNotReady.toNat * 2 ^ 56)
  else
    let (s1, b) := s.takeSeed 8
    (s1.bump64 seedPage 0x120 8, Crypto.leNat (b.take 7))

/-- What a read of RAW gives (R363). -/
def State.readRaw (s : State) : State × Nat :=
  if ¬ s.rawOn ∨ s.seed.rawBuf.length < 7 then (s, stRngNotReady.toNat * 2 ^ 56)
  else ({ s with seed := { s.seed with rawBuf := s.seed.rawBuf.drop 7 } }, Crypto.leNat (s.seed.rawBuf.take 7))

/-- A CONFIDENTIAL partition exists (R345). -/
def State.confExists (s : State) : Bool := s.parts.any (fun e => e.2.st ≠ 0 && e.2.conf)

/-- A host write of TEST (R362): the request is refused with DEBUG_ACTIVE, or the source leaves conditioning; a
cleared RAW_REQ restarts it. A request for a source not in service, or for another source while one is sampled,
changes nothing (log 65). -/
def State.writeTest (s : State) (v : Nat) : State :=
  let src := field v 8 4
  if field v 0 1 = 1 then
    if s.confExists then s.setFld seedPage 0x140 16 8 stDebug.toNat
    else if s.rawOn ∨ ¬ s.sourcesOn.getLsbD src then s
    else
      let s1 := (s.wrN seedPage 0x140 (src * 256 + 1)).setFld seedPage 0x100 9 1 1
      { s1 with seed := { s1.seed with rawBuf := [] } }
  else
    let s1 := if s.rawOn then
        { s.restartSource s.rawSrc with seed := { (s.restartSource s.rawSrc).seed with rawBuf := [] } }.setFld seedPage 0x100 9 1 0
      else s
    s1.wrN seedPage 0x140 (s.fld seedPage 0x140 16 8 * 65536 + src * 256)

/-- The SEEDBED_HEALTH byte (R365). -/
def State.seedHealth (s : State) : Nat :=
  let m := if s.seedMode = 3 then 3 else if s.seedMode = 0 then 0 else if s.fld seedPage 0x118 0 3 ≠ 0 then 2 else 1
  m + 4 * s.fld seedPage 0x100 8 1 + 16 * ones10 s.sourcesOn

end Sys2Proof.Machine
end

