-- ==== Sys2Proof/Machine/Gauge.lean ====
section
/-!
DEFINITION. Gauge (R420 to R423): a trigger stamps the next snapshot with its instant. What a page latches is in
Machine/Pages.lean.
-/

namespace Sys2Proof.Machine

/-- The GAUGE page. -/
abbrev gaugePage : Page := .dieE tyGauge

/-- A snapshot is not yet DONE. -/
def State.gaugeBusy (s : State) : Bool := (s.rd gaugePage 0x118).getLsbD 0

/-- A trigger of a cause at a time (R420): T, SEQ and the cause, or DROPPED. The T before it is kept for the pulse of
`GAUGE_OUT` that it began (R423). -/
def State.gaugeTrigger (s : State) (cause at' : Nat) : State :=
  if ¬ s.pins.por then s
  else if ¬ (s.mode = 1 ∨ s.mode = 3) ∨ s.gaugeBusy then s.bump gaugePage 0x11C 1
  else
    let prev := if s.rdN gaugePage 0x10C = 0 then none else some (BitVec.ofNat 64 (s.rd64 gaugePage 0x110))
    (({ s with pins := { s.pins with gaugePrev := prev } }.bump gaugePage 0x10C 1).wr64 gaugePage 0x110
      (at' + s.fld gaugePage 0x104 0 8)).wrN gaugePage 0x118 (cause * 16 + 1)

/-- GAUGE_IN_EDGE (R420): timed at the first of the two high samples, one cycle ago (log 66). -/
def execGaugeInEdge (s : State) : Host.Outcome State Fault Refusal :=
  if (s.rd gaugePage 0x104).getLsbD 16 then .next (s.gaugeTrigger 2 (s.time.toNat - 1)) else .next s

/-- GAUGE_DONE (R421): one AON cycle after T the snapshot is DONE. -/
def execGaugeDone (s : State) : Host.Outcome State Fault Refusal :=
  if s.gaugeBusy ∧ s.rd64 gaugePage 0x110 + 1 ≤ s.time.toNat then
    .next ((s.setFld gaugePage 0x118 0 1 0).raise gaugePage 0)
  else .next s

end Sys2Proof.Machine
end

