-- ==== Sys2Proof/Machine/Evc.lean ====
section
/-!
DEFINITION. The Event Controller (chapter 14): sensing, routing, staging, release, moderation, host sleep,
withdrawal, the two masking modes and the fail-safe records. The writes of its registers are these operations,
reached through Machine/Pages.lean.
-/

namespace Sys2Proof.Machine

/-- The EVC page. -/
abbrev evcPage : Page := .dieE tyEvc

/-- A source. -/
def State.src (s : State) (n : Nat) : EvSrc := sget (fun _ => EvSrc.reset) s.evc.srcs n

/-- A source replaced. -/
def State.setSrc (s : State) (n : Nat) (e : EvSrc) : State :=
  { s with evc := { s.evc with srcs := sput (fun _ => EvSrc.reset) s.evc.srcs n e } }

/-- A host target. -/
def State.tgt (s : State) (t : Nat) : Tgt := sget (fun _ => Tgt.reset) s.evc.tgts t

/-- A host target replaced. -/
def State.setTgt (s : State) (t : Nat) (x : Tgt) : State :=
  { s with evc := { s.evc with tgts := sput (fun _ => Tgt.reset) s.evc.tgts t x } }

/-- The mask of a group: host targets in bits 0 to 63, the RTP in bit 64. That of group 15 is what the RTP has written there
(R373): zero until start-up ends, then free (log 63). -/
def State.group (s : State) (g : Nat) : BitVec 65 :=
  if g = 15 ∧ s.mode ≠ 0 then Config.rtpGroup s.fresh else sget (fun _ => (0 : BitVec 65)) s.evc.groups g

/-- The mask of a group replaced. -/
def State.setGroup (s : State) (g : Nat) (m : BitVec 65) : State :=
  { s with evc := { s.evc with groups := sput (fun _ => (0 : BitVec 65)) s.evc.groups g m } }

/-- CFG.ENABLE. -/
def State.evcOn (s : State) : Bool := (s.rd evcPage 0x100).getLsbD 0 && s.enabled evcPage

/-- GATE mode (R381). -/
def State.gateMode (s : State) : Bool := (s.rd evcPage 0x100).getLsbD 1

/-- Routing and release are held (R381). -/
def State.evcHeld (s : State) : Bool := s.gateMode && (s.rd evcPage 0x104).getLsbD 0

/-- The EVC may write to host memory: D0, bus mastering enabled, no PCIe reset (R379, R393). -/
def State.hostWritable (s : State) : Bool := s.host.bme && !s.host.d3hot && !s.host.inReset

/-! ### Sleep and wake (R379, R399, R401) -/

/-- The link is up (Table 18.5). -/
def State.pcieUp (s : State) : Bool := (s.rd (.dieE tyPcie) 0x100).getLsbD 16

/-- PME_Status is set; PM_PME is sent, or WAKE_N asserted where the link is down (R379). -/
def State.signalPme (s : State) : State :=
  let s1 := { s with host := { s.host with pme := true } }
  if ¬ s.host.pmeEn then s1
  else if s.pcieUp then s1.emit .pme
  else { s1 with pins := { s1.pins with wakeN := false } }

/-! ### Records (R374 to R379) -/

/-- Unread records of a target. -/
def Tgt.unread (t : Tgt) : Nat := (t.wr - t.rd).toNat

/-- Unread and staged records together. -/
def Tgt.load (t : Tgt) : Nat := t.unread + t.staged.length

/-- The ring size of a target. -/
def Tgt.size (t : Tgt) : Nat := 2 ^ t.log2n.toNat

/-- The 16 bytes of a record (Table 14.2). -/
def recordBytes (log2n : Nat) (r : EvRec) (failsafe : Bool) (n : BitVec 32) : List Byte :=
  let phase := 1 - n.toNat / 2 ^ log2n % 2
  Crypto.leBytes 2 (phase * 2 ^ 15 + (if failsafe then 2 ^ 14 else 0) + r.src.toNat) ++
  [BitVec.ofNat 8 (r.cls.toNat * 16 + r.prio.toNat),
   BitVec.ofNat 8 ((if r.flushed then 2 else 0) + (if r.merged then 1 else 0))] ++
  Crypto.leBytes 4 n.toNat ++ Crypto.leBytes 8 r.time.toNat

/-- The source of a record that has been written: ACTIVE, or free for routing again after a withdrawn record. -/
def State.recWritten (s : State) (r : EvRec) : State :=
  let e := s.src r.owner.toNat
  if r.src = 0xFFF then s.setSrc r.owner.toNat { e with withdrawn := false }
  else s.setSrc r.owner.toNat { e with st := .active }

/-- The staged records of a target written in order while its ring has room; `flush` marks them FLUSHED. -/
def State.writeRecs (t : Nat) (flush : Bool) : List EvRec → State → State
  | [], s => s
  | r :: rest, s =>
    let x := s.tgt t
    if x.size ≤ x.unread then s
    else
      let a := x.ring.toNat + x.wr.toNat % x.size * 16
      let s1 := s.putHost a (recordBytes x.log2n.toNat { r with flushed := flush } false x.wr)
      State.writeRecs t flush rest ((s1.setTgt t { x with wr := x.wr + 1, staged := rest }).recWritten r)

/-- The vector of a target sent. -/
def State.sendVector (s : State) (t : Nat) : State := s.emit (.msix (BitVec.ofNat 6 t))

/-- The vector of a target is sent where it is owed, or where the target is armed and its release has written records; the
target is then disarmed (R375, R378). `before'` is the target before its records were written. -/
def State.vectorAfter (s : State) (t : Nat) (before' : Tgt) : State :=
  let x := s.tgt t
  let y := { x with due := !x.staged.isEmpty, owed := false }
  if before'.owed ∨ (x.armed ∧ x.wr ≠ before'.wr) then (s.setTgt t { y with armed := false }).sendVector t else s.setTgt t y

/-- A release (R376): the staged records, then the vector. -/
def State.release (s : State) (t : Nat) : State :=
  (State.writeRecs t false (s.tgt t).staged s).vectorAfter t (s.tgt t)

/-- The targets whose release condition has passed, or that owe a vector, are served once the EVC may write (R379, R383). -/
def State.serveDue (s : State) : State :=
  if s.mode = 1 ∧ s.evcOn ∧ ¬ s.evcHeld ∧ s.hostWritable then
    s.evc.tgts.foldl (fun (t : State) e => if (t.tgt e.1).due ∨ (t.tgt e.1).owed then t.release e.1 else t) s
  else s

/-- The first re-mask sweep after a wake is due once Seedbed has started up (R402). -/
def State.firstSweep (s : State) : State := { s with seed := { s.seed with sweep := some 0 } }

/-- Die E wakes from retention (R399, R401): DIE_E_AWAKE, LAST_WAKE, the WAKE event; Seedbed starts anew (R402), and the EVC
writes the records whose release was met while it could not (R383). -/
def State.wakeDieE (s : State) (cause : Nat) : State :=
  if s.power = 2 ∧ ¬ (s.rd (.dieE tyClocks) 0x11C).getLsbD 5 then
    ((((s.setFld (.dieE tyClocks) 0x11C 5 1 1).setFld (.dieE tyClocks) 0x11C 8 4 cause)).raise (.dieE tyClocks)
      2).seedRestart.firstSweep.serveDue
  else s

/-- A target whose release condition is met: released now, held (R381), or signalled (R379, R383). After fail-safe entry
nothing is written to host memory (R384). -/
def State.tryRelease (s : State) (t : Nat) : State :=
  let s0 := s.setTgt t { s.tgt t with due := true }
  if s.evcHeld ∨ ¬ s.evcOn ∨ s.mode = 3 then s0
  else
    let s1 := s0.wakeDieE 6
    if s1.hostWritable then s1.release t else s1.signalPme

/-- Every target that waits for a release gets it, in target order. -/
def State.releaseDue (s : State) : State :=
  s.evc.tgts.foldl (fun (t : State) e => if (t.tgt e.1).due then t.tryRelease e.1 else t) s

/-! ### Sensing (R368, R369, R380) -/

/-- The line of a source now (R366, R367); that of a reserved number, or of a unit held in reset, is low (R15). The lines of
the compute dies are not sensed while those are unpowered or in reset (R383). -/
def State.srcLine (s : State) (n : Nat) : Option Bool :=
  if 0x100 ≤ n ∧ ¬ s.diesUp then none
  else some ((sourcePages n).any (fun p => s.pageLive p && s.line p))

/-- A source is level sensed. -/
def EvSrc.level (e : EvSrc) : Bool := e.sense = 1 || e.sense = 2

/-- A source is edge sensed. -/
def EvSrc.edge (e : EvSrc) : Bool := e.sense = 3 || e.sense = 4 || e.sense = 5

/-- The line is at the sensed level of a level source. -/
def EvSrc.atLevel (e : EvSrc) (v : Bool) : Bool := (e.sense = 1 && v) || (e.sense = 2 && !v)

/-- A source becomes PENDING, with its time stamp; Gauge's event trigger (R369, R420). Number 0xFFF stands in withdrawn
records only (R367). -/
def State.pend (s : State) (n : Nat) : State :=
  if n = 0xFFF then s else
  let s1 := s.setSrc n { s.src n with st := .pending, time := s.time, merged := false }
  if (s.rd gaugePage 0x104).getLsbD 17 ∧ s.fld gaugePage 0x108 0 12 = n then s1.gaugeTrigger 3 s.time.toNat else s1

/-- Staged records of a source marked in every target. -/
def State.mapStaged (s : State) (f : EvRec → EvRec) : State :=
  { s with evc := { s.evc with
      tgts := s.evc.tgts.map (fun e => (e.1, { e.2 with staged := e.2.staged.map f }))
      rtp := s.evc.rtp.map f } }

/-- Withdrawal of a source (R380). A record of the RTP's is not written to host memory and holds its source back no more (log
67). -/
def State.withdraw (s : State) (n : Nat) : State :=
  let e := s.src n
  match e.st with
  | .pending => s.setSrc n { e with st := .idle, merged := false }
  | .held =>
    let s1 := s.mapStaged (fun r => if r.owner.toNat = n ∧ r.src ≠ 0xFFF then { r with src := 0xFFF } else r)
    (s1.setSrc n { e with st := .idle, withdrawn := e.target ≠ 64 }).bump evcPage 0x150 1
  | _ => s

/-- An edge merges into the request already recorded (R369). -/
def State.merge (s : State) (n : Nat) : State :=
  let e := s.src n
  let s1 := match e.st with
    | .held => s.mapStaged (fun r => if r.owner.toNat = n ∧ r.src ≠ 0xFFF then { r with merged := true } else r)
    | _ => s.setSrc n { e with merged := true }
  s1.bump evcPage 0x154 1

/-- The EVC samples a source's line (R368, R369). -/
def State.sample (s : State) (n : Nat) : State :=
  match s.srcLine n with
  | none => s
  | some v =>
    let e := s.src n
    let s1 := s.setSrc n { e with line := v }
    if ¬ e.en ∨ e.sense = 0 then s1
    else if e.level then
      if e.atLevel v then (if e.st = .idle then s1.pend n else s1) else s1.withdraw n
    else if (e.sense = 3 ∧ ¬ e.line ∧ v) ∨ (e.sense = 4 ∧ e.line ∧ ¬ v) ∨ (e.sense = 5 ∧ e.line ≠ v) then
      match e.st with
      | .idle => s1.pend n
      | .active => s1.setSrc n { s1.src n with st := .activePending }
      | _ => s1.merge n
    else s1

/-- EVENT_LINE_SAMPLE (R366 to R369, R380). -/
def execEventLineSample (src : BitVec 12) (s : State) : Host.Outcome State Fault Refusal :=
  if s.escOn then .next (s.sample src.toNat) else .next s

/-! ### Routing (R371, R372) -/

/-- A host target may take a request of a priority, its group's mask aside. -/
def Tgt.takes (t : Tgt) (prio : Nat) : Bool := t.enable && t.load < t.size && t.prio.toNat < prio

/-- The eligible targets of a request: (declared priority, load, number, ring less than half full). What the RTP
declares, and whether it has room, is its own (log 63). -/
def State.eligible (s : State) (e : EvSrc) : List (Nat × Nat × Nat × Bool) :=
  let m := s.group e.group.toNat
  ((List.range 64).filter (fun t => m.getLsbD t && (s.tgt t).takes e.prio.toNat)).map (fun t =>
    ((s.tgt t).prio.toNat, (s.tgt t).load, t, decide ((s.tgt t).load < (s.tgt t).size / 2))) ++
  (if m.getLsbD 64 ∧ (Config.rtpPriority s.fresh).toNat < e.prio.toNat ∧ Config.rtpRoom s.fresh then
    [((Config.rtpPriority s.fresh).toNat, s.evc.rtp.length, 64, Config.rtpHalf s.fresh)] else [])

/-- The better of two targets: lower declared priority, then fewer records, then the lower number. -/
def betterTgt (a b : Nat × Nat × Nat × Bool) : Nat × Nat × Nat × Bool :=
  if b.1 < a.1 ∨ (b.1 = a.1 ∧ (b.2.1 < a.2.1 ∨ (b.2.1 = a.2.1 ∧ b.2.2.1 < a.2.2.1))) then b else a

/-- The chosen target of a list. -/
def bestTgt : List (Nat × Nat × Nat × Bool) → Option Nat
  | [] => none
  | x :: xs => some ((xs.foldl betterTgt x).2.2.1)

/-- A request staged for a target (R371, R376). -/
def State.stage (s : State) (n t : Nat) : State :=
  let e := s.src n
  let r : EvRec := { src := BitVec.ofNat 12 n, owner := BitVec.ofNat 12 n, cls := e.cls, prio := e.prio, merged := e.merged,
                     flushed := false, time := e.time }
  let s1 := s.setSrc n { e with st := .held, target := BitVec.ofNat 7 t, merged := false }
  if t = 64 then { s1 with evc := { s1.evc with rtp := s1.evc.rtp ++ [r] } }
  else
    let x := s1.tgt t
    let s2 := s1.setTgt t { x with staged := x.staged ++ [r] }
    if x.modCount.toNat ≤ x.staged.length + 1 ∨ x.bypass ≤ e.prio ∨ x.due then s2.tryRelease t else s2

/-- Class C0 first, unless it is now served as C1, then higher PRIO, then the lower number: source a stands before b. -/
def before (full : Bool) (a b : Nat × EvSrc) : Bool :=
  if ¬ full ∧ (a.2.cls = 0) ≠ (b.2.cls = 0) then a.2.cls = 0
  else if a.2.prio ≠ b.2.prio then b.2.prio < a.2.prio else a.1 < b.1

/-- A source put in its place in the order of routing. -/
def orderIns (full : Bool) (a : Nat × EvSrc) : List (Nat × EvSrc) → List (Nat × EvSrc)
  | [] => [a]
  | b :: bs => if before full a b then a :: b :: bs else b :: orderIns full a bs

/-- The EVC's requester port at its own routing (R297, log 99). -/
def evcPort : Nat := 40

/-- The requests that may be routed, in order (R371); C0 that finds its bucket empty goes as C1 (R372). -/
def State.requests (s : State) : List (Nat × EvSrc) :=
  (s.evc.srcs.filter (fun e => e.2.st = .pending && e.2.en && !e.2.withdrawn)).foldr
    (orderIns (s.bucket .events evcPort = 0)) []

/-- The first request with a target is staged; a C3 request whose eligible targets are all half full is counted and
passed by; a C0 request is metered (R371, R372). -/
def State.routeFirst : List (Nat × EvSrc) → State → State
  | [], s => s
  | (n, e) :: rest, s =>
    let el := s.eligible e
    let ok := if e.cls = 3 then el.filter (fun x => x.2.2.2) else el
    match bestTgt ok with
    | some t => (if e.cls = 0 then s.meter .events evcPort 1 else s).stage n t
    | none => State.routeFirst rest (if e.cls = 3 ∧ ¬ el.isEmpty then s.bump evcPage 0x158 1 else s)

/-- EVENT_ROUTE (R371, R372). -/
def execEventRoute (s : State) : Host.Outcome State Fault Refusal :=
  if s.escOn ∧ s.evcOn ∧ ¬ s.evcHeld then
    .next (State.routeFirst s.requests { s with fresh := s.fresh + 1 })
  else .next s

/-- MODERATION_TIMEOUT (R376, R383): an episode of a target ends by its timer. -/
def execModerationTimeout (t : BitVec 6) (s : State) : Host.Outcome State Fault Refusal :=
  let x := s.tgt t.toNat
  if s.pins.por ∧ s.mode = 1 ∧ (¬ x.staged.isEmpty ∨ x.owed) then .next (s.tryRelease t.toNat) else .next s

/-! ### What the driver writes (R370, R375, R381, R382) -/

/-- COMPLETE (R370). -/
def State.evcComplete (s : State) (n : Nat) : State :=
  let e := s.src n
  if n = 0xFFF then s
  else match e.st with
    | .active =>
      let v := (s.srcLine n).getD e.line
      let s1 := s.setSrc n { e with st := .idle, line := if e.level then v else e.line }
      if e.en ∧ e.level ∧ e.atLevel v then s1.pend n else s1
    | .activePending =>
      let m := e.merged
      let s1 := s.pend n
      s1.setSrc n { s1.src n with merged := m }
    | _ => s

/-- TGT_RD of a target written (R375): the vector is armed, and sent at once where records are unread, which disarms nothing
(log 67). -/
def State.writeRd (s : State) (t : Nat) (n : BitVec 32) : State :=
  let x := { s.tgt t with rd := n, armed := true }
  let s1 := s.setTgt t x
  let s2 := if x.unread ≠ 0 ∧ x.enable then
      if s.hostWritable ∧ s.mode = 1 then s1.sendVector t
      else s1.setTgt t { x with owed := true }
    else s1
  if x.due ∧ ¬ x.staged.isEmpty then s2.tryRelease t else s2

/-- TGT_CFG of a target written (Table 14.4): values out of range are ignored; ENABLE going to 1 zeroes the record
count and arms the vector. -/
def State.writeTgtCfg (s : State) (t v : Nat) : State :=
  let x := s.tgt t
  let l := field v 16 5
  let m := field v 0 8
  let en := field v 31 1 = 1
  s.setTgt t { x with
    enable := en
    log2n := if 4 ≤ l ∧ l ≤ 16 then BitVec.ofNat 5 l else x.log2n
    bypass := BitVec.ofNat 4 (field v 12 4)
    modCount := if m = 0 then x.modCount else BitVec.ofNat 8 m
    wr := if en ∧ ¬ x.enable then 0 else x.wr
    armed := if en ∧ ¬ x.enable then true else x.armed }

/-- EN of a source takes a value; clearing it withdraws the source (R380). -/
def State.setEn (s : State) (n : Nat) (v : Bool) : State :=
  let s1 := s.setSrc n { s.src n with en := v }
  if v then s1 else s1.withdraw n

/-- EN_SET and EN_CLR (R381): in GATE mode only. -/
def State.writeEn (s : State) (n : Nat) (v : Bool) : State := if s.gateMode then s.setEn n v else s

/-- One source of an ENPEND write (R382). -/
def State.enpendOne (s : State) (n : Nat) (en pend : Bool) : State :=
  let s1 := s.setEn n en
  let e := s1.src n
  if ¬ e.edge then s1
  else match e.st with
    | .pending => if pend then s1 else s1.setSrc n { e with st := .idle, merged := false }
    | .idle => if pend ∧ e.en then s1.pend n else s1
    | .active => if pend then s1.setSrc n { e with st := .activePending } else s1
    | _ => s1

/-- ENPEND (R382): in PLAIN mode only. -/
def State.writeEnpend (s : State) (i v : Nat) : State :=
  if s.gateMode then s
  else (List.range 16).foldl (fun (t : State) j => t.enpendOne (16 * i + j) (field v j 1 = 1) (field v (16 + j) 1 = 1)) s

/-- What ENPEND reads (R382). -/
def State.readEnpend (s : State) (i : Nat) : Nat :=
  (List.range 16).foldl (fun (a : Nat) j =>
    let e := s.src (16 * i + j)
    a + (if e.en then 2 ^ j else 0) + (if e.st = .pending ∨ e.st = .activePending then 2 ^ (16 + j) else 0)) 0

/-- CFG written (Table 14.4): MODE only while ENABLE is clear. -/
def State.writeEvcCfg (s : State) (v : Nat) : State :=
  let old := s.rdN evcPage 0x100
  let mode := if old % 2 = 1 then field old 1 1 else field v 1 1
  (s.wrN evcPage 0x100 (mode * 2 + v % 2)).releaseDue

/-- GATE.HOLD written (R381): where it is cleared, each target whose condition passed is released. -/
def State.writeHold (s : State) (v : Bool) : State := (s.wrN evcPage 0x104 (if v then 1 else 0)).releaseDue

/-- SRC_CFG of the selected source (R368): SENSE 6 and 7 store 0. -/
def State.writeSrcCfg (s : State) (n v : Nat) : State :=
  let e := s.src n
  s.setSrc n { e with sense := if 6 ≤ field v 0 3 then 0 else BitVec.ofNat 3 (field v 0 3)
                      prio := BitVec.ofNat 4 (field v 4 4), group := BitVec.ofNat 4 (field v 8 4)
                      cls := BitVec.ofNat 2 (field v 16 2) }

/-! ### Host sleep (R378, R379) -/

/-- The flush of a target before D3hot (R378). -/
def State.flushTgt (s : State) (t : Nat) : State :=
  let x := s.tgt t
  if x.staged.isEmpty then s
  else
    let s1 := State.writeRecs t true x.staged s
    let y := s1.tgt t
    let n := y.staged.length
    (s1.setTgt t { y with owed := y.owed || (y.armed && n < x.staged.length) }).bump evcPage 0x160 n

/-- HOST_D3HOT (R378): staged records are flushed, and the function enters D3hot. The write of the power-state field writes
PME_En beside it, with a free value (log 88). -/
def execHostD3hot (s : State) : Host.Outcome State Fault Refusal :=
  if ¬ s.pins.por ∨ s.host.rrs ∨ s.host.inReset ∨ s.host.d3hot then .next s
  else
    let s1 := if s.hostWritable ∧ s.evcOn ∧ ¬ s.evcHeld ∧ s.mode = 1 then
        s.evc.tgts.foldl (fun (t : State) e => t.flushTgt e.1) s
      else s
    .next { s1 with host := { s1.host with d3hot := true, pmeEn := Config.pmeEnable s.fresh }, fresh := s.fresh + 1 }

/-- Staged records of every target written, then each vector that is owed, in target order (R379): of a target whose release
condition has passed or that a flush left one. One whose episode has not ended owes its vector until then (log 67). -/
def State.resumeHost (s : State) : State :=
  let need := (s.evc.tgts.map (fun e => e.1)).filter (fun k => (s.tgt k).owed || !(s.tgt k).staged.isEmpty)
  let s1 := need.foldl (fun (t : State) k => State.writeRecs k false (t.tgt k).staged t) s
  need.foldl (fun (t : State) k =>
    let x := s.tgt k
    if x.owed ∨ x.due then t.vectorAfter k x
    else t.setTgt k { t.tgt k with owed := (t.tgt k).armed && (t.tgt k).wr ≠ x.wr }) s1

/-- BUS_MASTER_RESUME (R379, R393): D0 with bus mastering enabled. Die E in retention wakes for records whose release was met
(R383). -/
def execBusMasterResume (s : State) : Host.Outcome State Fault Refusal :=
  if ¬ s.pins.por ∨ s.host.rrs ∨ ¬ s.pins.perst then .next s
  else
    let s1 := { s with host := { s.host with d3hot := false, bme := true, inReset := false, pme := false }
                       pins := { s.pins with wakeN := true } }
    let waits : Bool := s1.evc.tgts.any (fun e => e.2.due || e.2.owed)
    if s1.mode ≠ 1 ∨ ¬ s1.evcOn ∨ s1.evcHeld then .next s1
    else if s1.escOn then .next s1.resumeHost
    else .next (if waits then s1.wakeDieE 6 else s1)

/-- BUS_MASTER_DISABLE (R379, R450): the EVC and every host-window access stop writing host memory. -/
def execBusMasterDisable (s : State) : Host.Outcome State Fault Refusal :=
  if ¬ s.pins.por ∨ s.host.rrs ∨ s.host.inReset then .next s
  else .next { s with host := { s.host with bme := false } }

/-! ### Fail-safe (R384) -/

/-- The fail-safe record of an enabled target, where its ring has room, and its vector. -/
def State.failsafeRecord (s : State) (t : Nat) : State :=
  let x := s.tgt t
  if ¬ x.enable then s
  else
    let r : EvRec := { src := 1, owner := 1, cls := 0, prio := 15, merged := false, flushed := false, time := s.time }
    let s1 := if x.size ≤ x.unread then s.setTgt t { x with staged := x.staged ++ [r] }
      else (s.putHost (x.ring.toNat + x.wr.toNat % x.size * 16) (recordBytes x.log2n.toNat r true x.wr)).setTgt t
        { x with wr := x.wr + 1 }
    (s1.setTgt t { s1.tgt t with armed := false, owed := false }).sendVector t

/-- The EVC's part in fail-safe entry (R384): every staged record is released, then the FAILSAFE records go out. -/
def State.evcFailsafe (s : State) : State :=
  if ¬ s.hostWritable then s
  else
    let ts := s.evc.tgts.map (fun e => e.1)
    let s1 := ts.foldl (fun (t : State) k => t.release k) s
    (List.range 64).foldl (fun (t : State) k => t.failsafeRecord k) s1

/-- Sensing resumes after SLEEP for the pages of the compute dies: an edge source takes its line as found, and a level source
is sampled again (R383). -/
def State.evcWake (s : State) : State :=
  s.evc.srcs.foldl (fun (t : State) e =>
    if e.1 < 0x100 then t
    else if e.2.edge then t.setSrc e.1 { t.src e.1 with line := (t.srcLine e.1).getD e.2.line }
    else t.sample e.1) s

end Sys2Proof.Machine
end

