-- ==== Sys2Proof/Machine/Halt.lean ====
section
/-!
DEFINITION. Engine commands and requests of a sampler that stop while they run: at fail-safe entry (R91, R135, R172), at the
limit of a teardown (Table 12.5), and where the key of a sealed release is revoked (R181). A command that has run and has not
yet completed stops with a prefix, of free length, of what it wrote.
-/

namespace Sys2Proof.Machine

/-- The units of a write. -/
def Undo.units (u : Undo) : Nat := u.old.length / u.unit

/-- The first p units of a write, cut between two naturally aligned 8 bytes where it stops within the write (R31). -/
def Undo.kept (u : Undo) (p : Nat) : Nat := if u.units ≤ p then u.units else cutAt u.addr u.unit p

/-- A write without its first n units. -/
def Undo.from (u : Undo) (n : Nat) : Undo :=
  { u with addr := u.addr + n * u.unit, old := u.old.drop (n * u.unit), new := u.new.drop (n * u.unit) }

/-- What a run's writes covered past the first p units, the newest write first. -/
def tailOf (p : Nat) (us : List Undo) : List Undo :=
  (us.foldl (fun (r : Nat × List Undo) u =>
    (r.1 - u.units, u.from (u.kept r.1) :: r.2)) (p, [])).2

/-- The size of the pieces that a write falls into: an addition of a whole partial is one (R31, R157). -/
def Undo.grain (u : Undo) : Nat := if u.unit = 20 then 32 else 8

/-- One write taken back, but for the pieces that have been written again since by another agent (R31). -/
def State.takeBack (s : State) (g : Agent) (exempt : Option (BitVec 5 × Nat)) (u : Undo) : State :=
  (piecesOf u.grain u.addr u.old.length).foldl (fun (t : State) p =>
    let of := fun (l : List Byte) => (l.drop (p.1 - u.addr)).take p.2
    if (t.memRead g p.1 p.2).2.2 = of u.new then (t.memWrite g false exempt p.1 (of u.old)).1 else t) s

/-- What a run's writes covered is put back, past the first p units. -/
def State.restore (s : State) (g : Agent) (exempt : Option (BitVec 5 × Nat)) (p : Nat) (us : List Undo) : State :=
  (tailOf p us).foldl (fun (t : State) u => t.takeBack g exempt u) s

/-- The length of the prefix, free, at which a run that has written stops. -/
def State.stopRun (s : State) (us : List Undo) : State × Nat :=
  if us.isEmpty then (s, 0) else s.stopAt ((us.map Undo.units).sum)

/-- Packets of a command that have not left stay unsent: those that wait for a credit of class C3 (R290), and those of a
release at its packet boundary (R181). -/
def State.dropUnsent (s : State) (doer : Doer) : State :=
  let mine := fun (p : JPkt) => s.remote.any (fun o => o.doer = doer && o.done.isNone && o.tag = p.tag && o.dev = p.dst)
  let waits := (List.range 4).flatMap (fun d => (((s.die d).c3Wait.map (fun w => w.2.2)).filter mine))
  let unsent := (List.range 4).flatMap (fun d => (s.die d).links.flatMap (fun l =>
    ((l.2.queued.filter (fun q => q.2.2.isNone)).map (fun q => q.2.1)).filter mine))
  let gone := fun (p : JPkt) => (waits ++ unsent).contains p
  let s1 := { s with remote := s.remote.filter (fun o =>
    !(o.doer = doer && o.done.isNone && (waits ++ unsent).any (fun p => p.tag = o.tag && p.dst = o.dev))) }
  let s2 := (List.range 4).foldl (fun (t : State) d =>
    let x := t.die d
    t.setDie d { x with
      c3Wait := x.c3Wait.filter (fun w => !gone w.2.2)
      links := x.links.map (fun l => (l.1, { l.2 with
        queued := l.2.queued.filter (fun q => !(q.2.2.isNone && gone q.2.1)) })) }) s1
  (unsent.filter (fun p => p.cls = 3)).foldl (fun (t : State) p => t.joistCredit (p.tag.toNat / 2 ^ 14) p.dst.toNat) s2

/-- A command that ran and has not completed stops (R135, R181, R211): its destination keeps the new values of a prefix, of
free length; a ciphertext that it had begun to write is left INCOMPLETE. Packets that have left for another device stay
sent, and those that wait do not leave. Also answers whether anything of the command stands. -/
def State.stopEntry (s0 : State) (k : Nat) (x : EngEntry) : State × Bool :=
  let g := { entryAgent k x with doer := .none }
  let s := s0.dropUnsent (.command x.num)
  let (s1, p) := s.stopRun x.undo
  match x.hdr with
  | none => (s1.restore g none p x.undo, p ≠ 0)
  | some (dd, h) => ((s1.restore g none 0 x.undo).ctStopped g dd (p - 1) h, p ≠ 0)

/-- Commands of one engine stop, the newest first. An engine that runs its queue in order had ended an older one before it
began a newer one (R132), which is left as it is where the newer one had written. -/
def State.stopEntries (s : State) (k : Nat) (e : Engine) (xs : List EngEntry) : State :=
  (xs.reverse.foldl (fun (r : State × Bool) x =>
    if r.2 then r
    else
      let (t, wrote) := r.1.stopEntry k x
      (t, wrote && e ≠ .mxe)) (s, false)).1

/-- An entry as it stands after its command has stopped with a status; one that has failed keeps its own. -/
def EngEntry.stopped (x : EngEntry) (st : Status) : EngEntry :=
  if failing (x.status.getD stOk) then x else { x with status := some st, undo := [], hdr := none }

/-- The outstanding commands of an engine that a test names stop with a status, which their completion reports. -/
def State.haltEngine (which : EngEntry → Bool) (st : Status) (k : Nat) (s : State) (e : Engine) : State :=
  let q := (s.core k).q e
  let s1 := s.stopEntries k e (q.filter (fun x => which x && !failing (x.status.getD stOk)))
  s1.setCore k ((s1.core k).setQ e (q.map (fun x => if which x then x.stopped st else x)))

/-- The outstanding commands of every engine of a core that a test names stop with a status. -/
def State.haltCore (which : EngEntry → Bool) (st : Status) (s : State) (k : Nat) : State :=
  [Engine.mxe, .rge, .mkx, .dma].foldl (State.haltEngine which st k) s

/-- The running request of a sampler stops: its buffer keeps the new values of a prefix, no token is written, and the
freeze of an ADD_NOISE is released (R172). -/
def State.haltNsu (s : State) (c : Nat) (r : NsuRun) (st : Status) : State :=
  let exempt := r.own.map (fun n => (r.req.pid, n))
  let (s1, p) := s.stopRun r.undo
  let s2 := (s1.restore (statusAgent c r.req) exempt p r.undo).unitDone c pgNsu r.req r.op r.own 0 st
  match r.own with
  | some n => s2.thawed r.req.pid n
  | none => s2

end Sys2Proof.Machine
end

