-- ==== Sys2Proof/Machine/Keys.lean ====
section
/-!
DEFINITION. The Key Vault and the Trellis (chapter 11): slots, their masks and revocation (R308 to R314, R325),
nodes, contexts and the derivation of keys (R317, R318, R319), host-written keys (R316), and the owner's
encapsulation (R338).
-/

namespace Sys2Proof.Machine

/-- The KEY_VAULT, RTP_MBOX and BRAMBLE pages. -/
abbrev vaultPage : Page := .dieE tyVault
abbrev mboxPage : Page := .dieE tyMbox
abbrev bramPage : Page := .dieE tyBramble

/-! ### Slots -/

/-- The seed slots vaulted from a slot become EMPTY (R312). -/
def State.dropVaulted (s : State) (n : BitVec 8) : State :=
  (List.range 4).foldl (fun (t : State) d =>
    (t.die d).seeds.foldl (fun (u : State) e =>
      if e.2.vault = some n then u.putSeed d e.1 none else u) t) s

/-- A revocation of a slot (R325): its vaulted seed slots empty, the peers that send under it stop (R268), and sealed
releases under it, sends and copies, stop (R181). -/
def State.revokeHolders (s : State) (n : BitVec 8) : State :=
  let s1 := s.dropVaulted n
  let s2 := s1.handles.foldl (fun (t : State) h =>
    match t.peer h with
    | some p => if p.txSlot = n ∧ p.pid = (s.key n).pid then t.peerStale h else t
    | none => t) s1
  let s3 := s2.handles.foldl (fun (t : State) h => t.stopSends h stKeyStale (fun o => o.sealSlot = some n)) s2
  s3.cores.foldl (fun (t : State) e => State.haltCore (fun x => x.sealing = some n) stKeyStale t e.1) s3

/-- A VALID slot turns STALE and is revoked (R324, R325); an overlap window of the slot ends, and its node takes the new label
(R323). -/
def State.staleSlot (s : State) (n : BitVec 8) : State :=
  if (s.key n).st = .valid then
    let s1 := s.endWindow n
    (s1.setKey n { s1.key n with st := .stale, pend := none }).revokeHolders n
  else s

/-- A slot destroyed: revoked and made EMPTY (R311). -/
def State.destroySlot (s : State) (n : BitVec 8) : State := (s.staleSlot n).emptySlot n

/-- A running NSU request holds one of the slots for its whole run (R310). -/
def State.keyHeld (s : State) (ns : List (BitVec 8)) : Bool :=
  s.clusters.any (fun e => match e.2.nsuRun with
    | some r => match r.key with
      | some k => ns.contains k
      | none => false
    | none => false)

/-- Every slot number. -/
def allSlots : List (BitVec 8) := (List.range 256).map (fun n => BitVec.ofNat 8 n)

/-- The lowest n EMPTY slots allotted to a partition. -/
def State.emptySlots (s : State) (pid : BitVec 5) (n : Nat) : List (BitVec 8) :=
  (allSlots.filter (fun k => (s.key k).st = .empty && (s.key k).allot = some pid)).take n

/-! ### The Trellis -/

/-- The key of slot 0 (R307). -/
def State.rootKey (s : State) : List Byte := (s.key 0).bytesOf (s.key 0).key

/-- A node, its parent, its parent's parent, and so on. -/
def State.nodeChain (s : State) : Nat → Nat → List Node
  | 0, _ => []
  | f + 1, n =>
    match s.node n with
    | none => []
    | some x => x :: (match x.parent with
      | some p => s.nodeChain f p.toNat
      | none => [])

/-- A node and its ancestors; a node has depth at most 8. -/
def State.lineage (s : State) (n : Nat) : List Node := s.nodeChain 10 n

/-- A node is a graft or stands below one. -/
def State.underGraft (s : State) (n : Nat) : Bool := (s.lineage n).any (fun x => x.graft.isSome)

/-- A node or an ancestor is DEAD. -/
def State.nodeDead (s : State) (n : Nat) : Bool := (s.lineage n).any (fun x => x.dead)

/-- The 32-byte context of a node (R317); PGEN and the generation little-endian (log 68). -/
def nodeContext (x : Node) (graft : Bool) : List Byte :=
  Crypto.leBytes 2 (if graft then 0 else x.gen.toNat) ++
  [BitVec.ofNat 8 x.branch.toNat, BitVec.ofNat 8 x.depth,
   if graft then 0xFF else (x.owner.map (fun p => p.zeroExtend 8)).getD 0xFF, 0, 0, 0] ++
  Crypto.leBytes 4 (if graft then 0 else if x.owner.isSome then x.pgen.toNat else 0) ++ Crypto.padTo 20 x.user

/-- The key of a node from its parent's key (R317). -/
def deriveKey (parent : List Byte) (x : Node) (graft : Bool) : List Byte :=
  Crypto.kmac256 parent (Crypto.padTo 32 x.label ++ nodeContext x graft) (Crypto.ascii "W880 TRELLIS") (x.bits / 8)

/-- The key at the end of a lineage, from the root or a graft down. -/
def chainKey (root : List Byte) (graft : Bool) : List Node → List Byte
  | [] => root
  | x :: up => match x.graft with
    | some k => k
    | none => deriveKey (chainKey root graft up) x graft

/-- The key of a node (R317). -/
def State.nodeKey (s : State) (n : Nat) : List Byte := chainKey s.rootKey (s.underGraft n) (s.lineage n)

/-- The key that a node's parent gives under another label (R321). -/
def State.relabelKey (s : State) (n : Nat) (label : List Byte) : List Byte :=
  match s.lineage n with
  | [] => []
  | x :: up => deriveKey (chainKey s.rootKey (s.underGraft n) up) { x with label := label } (s.underGraft n)

/-- The lowest unused node number (log 20). -/
def State.freeNode (s : State) : Nat := leastFree (s.nodes.map (fun e => e.1))

/-- Nodes in use. -/
def State.nodesUsed (s : State) : Nat := s.nodes.length

/-- A device node without a partition. -/
def devNode (parent : Option Nat) (branch depth : Nat) (label : String) (user : List Byte) (bits : Nat) : Node :=
  { parent := parent.map (fun p => BitVec.ofNat 10 p), label := Crypto.padTo 32 (Crypto.ascii label), user := user
    branch := BitVec.ofNat 4 branch, depth := depth, owner := none, pgen := 0, gen := 0, dead := false, graft := none
    bits := bits, made := false }

/-- The engine mask of a node's row of Table 11.6. A DIR node of the Mitre branch sends where the device is its
sender and receives where it is its receiver. -/
def rowMask (id8 : List Byte) (x : Node) : BitVec 16 :=
  match x.branch.toNat, x.depth with
  | 1, 2 => 0x20
  | 2, 2 => 0x20
  | 6, 2 => 0x80
  | 4, 2 => 0x40
  | 3, 3 => if x.label = Crypto.padTo 32 (Crypto.ascii "W880 OWN SEAL") then 0x10
            else if x.label = Crypto.padTo 32 (Crypto.ascii "W880 OWN TOKEN") then 0x100 else 0
  | 5, 2 => (if x.user.take 8 = id8 then 2 else 0) ||| (if (x.user.drop 8).take 8 = id8 then 4 else 0)
  | _, _ => 0

/-- The bits that DERIVE may set for a node (R319, log 62): those of its row, and for a node that DERIVE made those of
its parent's row and MKX, RGE_SEAL and WICKET_MAC. -/
def State.maskAllowed (s : State) (id8 : List Byte) (x : Node) : BitVec 16 :=
  if x.made then
    let up := match x.parent.bind (fun p => s.node p.toNat) with
      | some y => rowMask id8 y
      | none => 0
    rowMask id8 x ||| up ||| 0x118
  else rowMask id8 x

/-- ID8 (R318): the first 8 bytes of SHA-384 of the identity ML-DSA-65 public key. -/
def State.id8 (s : State) : List Byte :=
  (Crypto.sha384 (Config.mldsaPublic ((s.key 3).bytesOf (s.key 3).key))).take 8

/-- The private scalar of a P-384 slot (R318). -/
def p384Scalar (key : List Byte) : Nat := Crypto.beNat key % (Config.p384Order - 1) + 1

/-- A slot takes the key of a node for an owner (R309). -/
def State.slotFromNode (s : State) (slot : BitVec 8) (n : Nat) (mask : BitVec 16) : State :=
  match s.node n with
  | none => s
  | some x =>
    s.fillSlot slot { KeySlot.reset with
      origin := 2, branch := x.branch, depth := BitVec.ofNat 4 x.depth, mask := mask, dev := x.owner.isNone
      pid := x.owner.getD 0, pgen := x.pgen, gen := x.gen, node := BitVec.ofNat 10 n } (s.nodeKey n)

/-- The number of a node, of its parent, of its parent's parent, and so on. -/
def State.chainNums (s : State) : Nat → Nat → List Nat
  | 0, _ => []
  | f + 1, n => n :: (match (s.node n).bind (fun x => x.parent) with
    | some p => s.chainNums f p.toNat
    | none => [])

/-- The nodes at and below a node. -/
def State.subtree (s : State) (n : Nat) : List Nat :=
  (s.nodes.map (fun e => e.1)).filter (fun m => (s.chainNums 10 m).contains n)

/-- INVALIDATE's effect on nodes and slots (R324): the subtree is DEAD, its generations advance, and the slots derived
from it turn STALE. Answers the slots. -/
def State.invalidate (s : State) (n : Nat) : State × List (BitVec 8) :=
  let ns := s.subtree n
  let s1 := ns.foldl (fun (t : State) m => match t.node m with
    | some x => t.setNode m (some { x with dead := true, gen := x.gen + 1 })
    | none => t) s
  let slots := allSlots.filter (fun k =>
    (s1.key k).st = .valid && (s1.key k).origin = 2 && ns.contains (s1.key k).node.toNat)
  (slots.foldl (fun (t : State) k => t.staleSlot k) s1, slots)

/-! ### Host-written keys (R316) -/

/-- The key words that the host has written, key byte 0 first. -/
def State.loadWords (s : State) : List Byte :=
  (List.range 8).flatMap (fun i => Crypto.leBytes 4 (s.rdN vaultPage (0x120 + 4 * i)))

/-- A write of KEY_LOAD_CTRL with GO (R316): an occupied slot is KEY_BUSY whoever's it is (log 69). -/
def State.keyLoad (s : State) (slot : BitVec 8) (mask : BitVec 16) : State :=
  let k := s.key slot
  let key := s.loadWords
  let s0 := (List.range 8).foldl (fun (t : State) i => t.wr vaultPage (0x120 + 4 * i) 0) s
  let answer := fun (t : State) (st : Status) => t.wrN vaultPage 0x144 st.toNat
  if k.st ≠ .empty then answer s0 stKeyBusy
  else match k.allot with
  | none => answer s0 stKeyDenied
  | some p =>
    let x := s.part p
    let allowed : BitVec 16 := if x.conf then 0x6 else 0xE
    if mask &&& ~~~allowed ≠ 0 ∨ slot.toNat < 80 then answer s0 stKeyDenied
    else
      answer (s0.fillSlot slot { KeySlot.reset with origin := 4, mask := mask, pid := p, pgen := x.pgen } key) stOk

/-! ### Re-masking (R313, R314) -/

/-- The bytes of Seedbed output that a slot's fresh mask takes (Table 13.1). -/
def maskLen : Nat := 64

/-- The slots from one on re-masked in order (R313), each with 64 bytes of Seedbed output; a sweep that finds too few waits
there, and the slots that it has not reached keep their masks (R314). One that reaches the end is complete: SWEEPS counts
it, and AGE starts anew. -/
def State.sweepFrom : List Nat → State → State
  | [], s =>
    let s1 := s.wrN vaultPage 0x114 ((s.fld vaultPage 0x114 16 16 + 1) % 65536 * 65536)
    { s1 with seed := { s1.seed with sweep := none, ageCycles := 0, ageAlarm := false } }
  | n :: rest, s =>
    if s.seedLevel < maskLen then { s with seed := { s.seed with sweep := some n } }
    else
      let (s1, r) := s.handOut maskLen
      let slot : BitVec 8 := BitVec.ofNat 8 n
      State.sweepFrom rest (s1.setKey slot ((s1.key slot).remask (BitVec.ofNat 512 (Crypto.leNat r))))

/-- REMASK_SWEEP (R313, R314): a sweep of the 256 slots, or the rest of one that waits. -/
def execRemaskSweep (s : State) : Out :=
  if ¬ s.escOn ∨ s.seedMode ≠ 1 then .next s
  else
    let from' := s.seed.sweep.getD 0
    .next (State.sweepFrom ((List.range (256 - from')).map (fun i => from' + i)) s)

/-- OWNER_WINDOW_END (R323): 2^20 operations or 10 ms are over. -/
def execOwnerWindowEnd (slot : BitVec 8) (s : State) : Out := .next (s.endWindow slot)

/-! ### The root's block and Bramble's part (R328) -/

/-- ROOT_STATUS.BLOCKED. -/
def State.rootBlocked (s : State) : Bool := (s.rd vaultPage 0x148).getLsbD 31

/-- Root use is blocked until power-on reset. -/
def State.blockRoot (s : State) : State := s.setFld vaultPage 0x148 31 1 1

/-! ### The Journal as ATTEST and CHALRESP capture it (R425, R427) -/

/-- The bytes at a page's words. -/
def State.pageBytes (s : State) (p : Page) (off words : Nat) : List Byte :=
  (List.range words).flatMap (fun i => Crypto.leBytes 4 (s.rdN p (off + 4 * i)))

/-- Bytes stored at a page's words. -/
def State.putPage (s : State) (p : Page) (off : Nat) (bs : List Byte) : State :=
  (List.range (bs.length / 4)).foldl (fun (t : State) i =>
    t.wrN p (off + 4 * i) (Crypto.leNat ((bs.drop (4 * i)).take 4))) s

/-- The JOURNAL page. -/
abbrev journalPage : Page := .dieE tyJournal

/-- The hash and count once every queued entry has been absorbed (R427). -/
def State.journalNow (s : State) : List Byte × Nat :=
  (s.journal.queue.foldl (fun (h : List Byte) e => Crypto.sha384 (h ++ e)) (s.pageBytes journalPage 0x100 12),
   s.rd64 journalPage 0x130 + s.journal.queue.length)

/-- The DEBUG_STATE byte (Table 12.3); no trace capture is modelled (log 70). -/
def State.debugState (s : State) : Nat := (if s.rtp.testOpen then 1 else 0) + (if s.rawOn then 2 else 0)

/-- The state block of CHALRESP (R327). -/
def State.stateBlock (s : State) (pid : BitVec 5) : List Byte :=
  [pid.zeroExtend 8] ++ Crypto.beBytes 3 (s.part pid).pgen.toNat ++ Crypto.beBytes 4 (s.journalNow.2 % 2 ^ 32) ++
  [BitVec.ofNat 8 (s.fld bramPage 0x118 0 4), BitVec.ofNat 8 s.debugState, BitVec.ofNat 8 s.seedHealth] ++
  List.replicate 5 0

end Sys2Proof.Machine
end

