-- ==== Sys2Proof/Machine/Rtp.lean ====
section
/-!
DEFINITION. The RTP's mailbox (R302 to R306): submission by the host and by partitions, the order of the checks that
every command shares, and the response. A command of Table 11.1 is one row; it runs the request at the front of the
RTP's queue where the request names it. A request that names no command completes under any row.
-/

namespace Sys2Proof.Machine

/-! ### Submission (R303, R304) -/

/-- MB_STATE.BUSY. -/
def State.mboxBusy (s : State) : Bool := (s.rd mboxPage 0x104).getLsbD 0

/-- A write of DOORBELL.GO (R303, R399). -/
def State.doorbell (s : State) : State :=
  if s.mboxBusy then s.setFld mboxPage 0x104 2 1 1
  else
    let s1 := (s.wakeDieE 1).setFld mboxPage 0x104 0 1 1
    { s1 with rtp := { s1.rtp with queue := s1.rtp.queue ++ [{ host := true, pid := 0, addr := 0 }] } }

/-- The agent of the RTP for a partition's request: die E's accesses go by die 0 (log 71). -/
def rtpAgent (pid : BitVec 5) : Agent := { die := 0, pid := pid, cls := 1, sel := 0 }

/-- The same where the request waits for what other devices answer (R291). -/
def rtpReader (pid : BitVec 5) : Agent := { rtpAgent pid with doer := .rtp }

/-- PQ.DEPTH: queued partition requests. -/
def State.pqDepth (s : State) : Nat := (s.rtp.queue.filter (fun r => !r.host)).length

/-- The 256 bytes of a request, read when it runs. -/
def State.rtpRead (s : State) (r : RtpReq) : State × Status × Desc :=
  if r.host then (s, stOk, s.pageBytes mboxPage 0x400 64) else s.memRead (rtpReader r.pid) r.addr 256

/-- The 256 bytes of a response. -/
def responseBytes (seq : Nat) (st : Status) (body : List Byte) : List Byte :=
  Crypto.padTo 256 ([st, 0, 0, 0] ++ Crypto.leBytes 4 body.length ++ Crypto.leBytes 8 seq ++ body)

/-- A response written: to RESP with BUSY, DONE and MBOX_DONE (R303), or to the request's address + 256, STATUS last
with release semantics (R304). -/
def State.respond (s0 : State) (r : RtpReq) (seq : Nat) (st : Status) (body : List Byte) : State :=
  let s := s0.countSegment st
  let bs := responseBytes seq (closed st) body
  if r.host then
    ((s.putPage mboxPage 0x800 bs).wrN mboxPage 0x104 (s.fld mboxPage 0x104 2 1 * 4 + 2)).raise mboxPage 0
  else
    let s1 := (s.memWrite (rtpAgent r.pid) false none (r.addr + 257) (bs.drop 1)).1
    (s1.memWrite (rtpAgent r.pid) true none (r.addr + 256) [st]).1

/-- A request of a partition in teardown completes DISABLED (Table 12.5 step 1). -/
def State.answerDisabled (s : State) (r : RtpReq) : State :=
  let x := s.rtpRead r
  x.1.respond r (x.2.2.n 8 8) stDisabled []

/-- A write of PSUBMIT's HI (R304): the request queued, or MBOX_BUSY in its response; an address that is not
64-byte aligned, or that the partition does not own with room for the response, is ignored (log 72); in teardown it completes DISABLED (Table 12.5
step 1). -/
def State.psubmit (s : State) (pid : BitVec 5) (addr : Nat) : State :=
  let g := rtpAgent pid
  if addr % 64 ≠ 0 ∨ s.ownedRange g addr 512 ≠ stOk then s
  else if 32 ≤ s.pqDepth then (s.memWrite g true none (addr + 256) [stMboxBusy]).1
  else
    let r : RtpReq := { host := false, pid := pid, addr := addr }
    if (s.part pid).st = 3 then s.answerDisabled r
    else { s with rtp := { s.rtp with queue := s.rtp.queue ++ [r] } }

/-! ### Requests and responses (R302) -/

/-! ### The rows -/

/-- What a command comes to: it waits and is tried again, it completes with a status and a body, or it goes on beyond this
step. -/
inductive RtpOut where
  | wait (s : State)
  | done (s : State) (st : Status) (body : List Byte)
  | going (s : State)
deriving DecidableEq, Repr

/-- A row of the mailbox: the number that names it, who may send it, whether it runs while die E alone is awake
(R401), and the bits of each body byte that its fields use. -/
structure RtpCmd where
  row   : Nat
  host  : Bool
  part  : Bool
  alone : Bool
  used  : Nat → Nat

/-- Row numbers: CMD, and for POWER_SET 0x600 plus the target state (R394). 0 for a request that names no command. -/
def rowOf (q : Desc) : Nat :=
  let c := q.n 0 2
  if c = 0x60 then (if q.n 16 1 ≤ 2 then 0x600 + q.n 16 1 else 0)
  else if [0x01, 0x10, 0x11, 0x12, 0x13, 0x14, 0x18, 0x19, 0x1A, 0x20, 0x30, 0x31, 0x33, 0x35, 0x38, 0x40, 0x41, 0x51,
    0x52, 0x53, 0x54].contains c then c else 0

/-- The cause that the fail-safe logic recorded is RTP_FAULT, so the RTP is halted (R440). -/
def State.rtpHalted (s : State) : Bool := s.rtp.fsCause = 6

/-- The RTP takes a request: it runs, and no earlier one is still under way (R306). -/
def State.rtpReady (s : State) : Bool :=
  s.escOn && !s.rtpHalted && s.rtp.revoke.isNone && s.rtp.teardown.isNone

/-- The session that a partition's request names is its own (R86). -/
def State.rtpTag (s : State) (r : RtpReq) (q : Desc) : Bool := r.host || q.tagOk r.pid (s.part r.pid).pgen

/-- The refusal of a request whose header and body are in order (R328, R440, R442, R456, Table 12.5 step 1). FAULT_LOG_READ is
answered in the fail-safe state whatever its cause (R442); of the others Table 11.8's ROOT_BLOCKED, which names the requests of a
device whose root is blocked, stands before Table 17.4's FAILSAFE (DEDUCED, log 108). -/
def State.rtpGate (s : State) (r : RtpReq) (row : Nat) : Status :=
  let free := row = 0x01 ∨ (s.mode = 3 ∧ row = 0x54)
  if s.rootBlocked ∧ ¬ free then stRootBlocked
  else if s.mode = 3 ∧ ¬ free then stFailsafe
  else if (s.mode = 0 ∨ s.mode = 2) ∧ ¬ free then stDisabled
  else if ¬ r.host ∧ (s.part r.pid).st ≠ 2 then stDisabled
  else stOk

/-- LEN is in range, and the reserved bits of PTAG and of the body are zero, with every byte beyond LEN (R302, R5). -/
def bodyOk (q : Desc) (used : Nat → Nat) : Bool :=
  q.n 2 2 ≤ 240 && q.bits 4 5 3 = 0 &&
  (List.range 240).all (fun i => q.n (16 + i) 1 &&& (255 - (if i < q.n 2 2 then used (16 + i) else 0)) = 0)

/-- The request at the front of the RTP's queue as the row of a command: PTAG, then command, body and sender, then the RTP's
own checks (R473, log 72). -/
def rtpRow (c : RtpCmd) (body : RtpReq → Desc → State → RtpOut) (s : State) : State :=
  match s.rtp.queue with
  | [] => s
  | r :: _ =>
    if ¬ s.rtpReady then s
    else
      let (s1, st, q) := s.rtpRead r
      let pop := fun (t : State) => { t with rtp := { t.rtp with queue := t.rtp.queue.drop 1 } }
      let answer := fun (t : State) (st : Status) (b : List Byte) => (pop t).respond r (q.n 8 8) st b
      let row := rowOf q
      let gate := s1.rtpGate r row
      if row ≠ 0 ∧ row ≠ c.row then s
      else s.settle .rtp (
        if st ≠ stOk then answer s1 st []
        else if ¬ s1.rtpTag r q then answer s1 stTag []
        else if row = 0 ∨ ¬ bodyOk q c.used ∨ (r.host ∧ ¬ c.host) ∨ (¬ r.host ∧ ¬ c.part) then answer s1 stMbox []
        else if gate ≠ stOk then answer s1 gate []
        else if s1.power = 2 ∧ ¬ c.alone then answer s1 stPowerBusy []
        else match body r q s1 with
          | .wait t => t
          | .done t st b => answer t st b
          | .going t => pop t)

/-- Bytes from off to off + n − 1, whole. -/
def usedBytes (off n i : Nat) : Nat := if off ≤ i ∧ i < off + n then 255 else 0

/-- A partition that a request may act on (Table 11.1): its own, or for the host an OPEN one. -/
def State.mayUse (s : State) (r : RtpReq) (p : BitVec 5) : Bool :=
  if r.host then (s.part p).st = 2 && !(s.part p).conf else p = r.pid

/-- The partition of an allotted slot that a request may act on. -/
def State.slotUser (s : State) (r : RtpReq) (n : BitVec 8) : Option (BitVec 5) :=
  match (s.key n).allot with
  | some p => if s.mayUse r p then some p else none
  | none => none

/-- The status of a slot that a request may not use, or that holds no VALID key of its partition (R309). -/
def State.slotStatus (s : State) (r : RtpReq) (any : Bool) (n : BitVec 8) : Status :=
  let k := s.key n
  match k.allot with
  | none => stKeyDenied
  | some p =>
    if ¬ (s.mayUse r p ∨ (any ∧ r.host)) then stKeyDenied
    else match k.st with
      | .stale => stKeyStale
      | .empty => stKeyDenied
      | .valid => if s.keyOwned p k then stOk else stKeyDenied

/-- The slot number of a body byte. -/
def Desc.slotAt (q : Desc) (off : Nat) : BitVec 8 := BitVec.ofNat 8 (q.n off 1)

/-! ### What the RTP reads and writes for a request (R340, R342, R448) -/

/-- The host's right to a byte of device memory: the open region, an OPEN partition's HBM, or the host window. -/
def State.hostByteCheck (s : State) (write : Bool) (a : Nat) : Status :=
  match s.place 0 a with
  | .hbm l =>
    match s.region (l / 0x200000) with
    | none => stBound
    | some x =>
      let ours : Bool := match x.owner with
        | none => true
        | some p => !(s.part p).conf
      if ¬ ours ∨ (write ∧ s.frozenAt none l) then stBound else stOk
  | .host _ => stOk
  | .press _ _ => stBound
  | .drawer _ _ => stBound
  | .segment => stSegment
  | _ => stUnmapped

/-- While the compute dies are unpowered, only the host window can be reached (R391, R401, log 73). -/
def State.asleepCheck (s : State) (a : Nat) : Status :=
  if s.power = 2 then
    match s.place 0 a with
    | .host _ => stOk
    | .segment => stSegment
    | _ => stUnmapped
  else stOk

/-- The check of a range that a request names. -/
def State.reqCheck (s : State) (r : RtpReq) (write : Bool) (a n : Nat) : Status :=
  let own := if r.host then
      (List.range n).foldl (fun st i => joinCheck st (s.hostByteCheck write (a + i))) stOk
    else s.checkRange (rtpAgent r.pid) write a n
  (List.range n).foldl (fun st i => joinCheck st (s.asleepCheck (a + i))) own

/-- A piece of at most 256 bytes written by the host or the RTP itself, after its checks. -/
def State.rawPiece (s : State) (a : Nat) (bs : List Byte) : State × Status :=
  match s.place 0 a with
  | .hbm l => s.blockWrite l bs
  | .host bus =>
    if s.failsafe then (s, stFailsafe)
    else if s.host.bme ∧ ¬ s.host.inReset then (s.putHost bus bs, stOk) else (s, stPeerReset)
  | .press _ l => s.linesWrite l bs
  | .drawer _ l => s.linesWrite l bs
  | .segment => (s, stSegment)
  | _ => (s, stUnmapped)

/-- Bytes written by the host or the RTP itself, in rising order; they stop at the first piece refused. -/
def State.rawWrite (s : State) (a : Nat) (bs : List Byte) : State × Status :=
  (piecesOf 256 a bs.length).foldl (fun r p =>
    if r.2 ≠ stOk then r else r.1.rawPiece p.1 ((bs.drop (p.1 - a)).take p.2)) (s, stOk)

/-- A range that a request names, checked and read. -/
def State.reqRead (s : State) (r : RtpReq) (a n : Nat) : State × Status × List Byte :=
  let st := s.reqCheck r false a n
  if st ≠ stOk then (s, st, []) else s.memRead (rtpReader r.pid) a n

/-- A range that a request names, checked and written. -/
def State.reqWrite (s : State) (r : RtpReq) (a : Nat) (bs : List Byte) : State × Status :=
  let st := s.reqCheck r true a bs.length
  if st ≠ stOk then (s, st)
  else if r.host then s.rawWrite a bs else s.memWrite (rtpAgent r.pid) false none a bs

end Sys2Proof.Machine
end

