-- ==== Sys2Proof/Machine/KeyRows.lean ====
section
/-!
DEFINITION. The mailbox commands of chapter 11: GET_INFO, DERIVE, INVALIDATE, REARM, SLOT_DESTROY, KEY_TO_SEED, the
replacement of owner keys, WRAP_TO_OWNER and CHALRESP; and the RTP's own REKEY (R320).
-/

namespace Sys2Proof.Machine

/-- What GET_INFO comes to for its request. -/
def bodyGetInfo (_r : RtpReq) (_q : Desc) (s : State) : RtpOut :=
  .done s stOk (Crypto.leBytes 4 (s.rdN (.dieE tyEsc) 0x110) ++ Crypto.leBytes 4 (s.rdN mboxPage 0x114) ++ s.id8 ++
    Crypto.leBytes 4 (s.rdN bramPage 0x118))

/-- GET_INFO (R305). -/
def execGetInfo (s : State) : Out :=
  .next (rtpRow { row := 0x01, host := true, part := true, alone := true, used := fun _ => 0 } bodyGetInfo s)

/-! ### DERIVE (R319) -/

/-- The body of DERIVE. -/
def deriveUsed (i : Nat) : Nat :=
  if i = 17 then 3 else if i = 19 then 1 else if i = 21 then 1
  else if i = 16 ∨ i = 18 ∨ i = 20 then 255 else usedBytes 32 52 i

/-- The node that DERIVE makes (R319). -/
def childNode (n : Nat) (x : Node) (q : Desc) : Node :=
  { parent := some (BitVec.ofNat 10 n), label := (q.drop 32).take 32, user := (q.drop 64).take 20, branch := x.branch,
    depth := x.depth + 1, owner := x.owner, pgen := x.pgen, gen := 0, dead := false, graft := none, bits := 256, made := true }

/-- A child may be made here: at depth 3 to 8 under an owner or Mitre node; for the host, which R319 does not limit so,
also a DIR node of a Mitre node (log 62). -/
def childOk (host : Bool) (x : Node) : Bool :=
  (x.branch = 3 || x.branch = 5) && x.depth + 1 ≤ 8 && (2 ≤ x.depth || (host && x.branch = 5 && x.depth = 1))

/-- DERIVE: rights, then DEAD, depth, mask, slot and table (log 74). -/
def bodyDerive (r : RtpReq) (q : Desc) (s : State) : RtpOut :=
  let n := q.n 16 2
  let slot := q.slotAt 18
  let new := q.n 19 1 = 1
  let mask : BitVec 16 := BitVec.ofNat 16 (q.n 20 2)
  match s.node n, s.slotUser r slot with
  | some x, some p =>
    let y := if new then childNode n x q else x
    let id8 := s.id8
    let t := s.setNode s.freeNode (some y)
    let st := firstFail [
      (x.owner = some p && x.graft.isNone, stKeyDenied),
      (!s.nodeDead n, stKeyStale),
      (!new || childOk r.host x, stKeyDenied),
      (mask &&& ~~~((if new then t else s).maskAllowed id8 y) = 0, stKeyDenied),
      ((s.key slot).st = .empty, stKeyBusy),
      (!new || s.nodesUsed < 1024, stNodeFull)]
    if st ≠ stOk then .done s st []
    else
      let (s1, m) := if new then (t, s.freeNode) else (s, n)
      .done (s1.slotFromNode slot m mask) stOk (Crypto.leBytes 2 m)
  | _, _ => .done s stKeyDenied []

/-- DERIVE (R319). -/
def execDerive (s : State) : Out :=
  .next (rtpRow { row := 0x10, host := true, part := true, alone := false, used := deriveUsed } bodyDerive s)

/-! ### INVALIDATE, REARM, SLOT_DESTROY (R311, R324 to R326) -/

/-- The body of a command that names a node. -/
def nodeUsed (i : Nat) : Nat := if i = 16 then 255 else if i = 17 then 3 else 0

/-- A node that a request may invalidate or rearm (R324): its own, at depth 2 or below, under no graft. -/
def State.nodeRight (s : State) (r : RtpReq) (n : Nat) : Bool :=
  match s.node n with
  | some x => (match x.owner with
      | some p => s.mayUse r p
      | none => false) && 2 ≤ x.depth && !s.underGraft n
  | none => false

/-- What INVALIDATE comes to for its request. -/
def bodyInvalidate (r : RtpReq) (q : Desc) (s : State) : RtpOut :=
  if ¬ s.nodeRight r (q.n 16 2) then .done s stKeyDenied []
  else
    let (s1, slots) := s.invalidate (q.n 16 2)
    .going { s1 with rtp := { s1.rtp with
      revoke := some { req := r, seq := BitVec.ofNat 64 (q.n 8 8), slots := slots, destroy := false } } }

/-- INVALIDATE (R324): it completes with INVALIDATE_COMPLETE. -/
def execInvalidate (s : State) : Out :=
  .next (rtpRow { row := 0x11, host := true, part := true, alone := false, used := nodeUsed } bodyInvalidate s)

/-- What REARM comes to for its request. -/
def bodyRearm (r : RtpReq) (q : Desc) (s : State) : RtpOut :=
  let n := q.n 16 2
  if ¬ s.nodeRight r n then .done s stKeyDenied []
  else match s.node n with
    | some x => .done (s.setNode n (some { x with dead := false })) stOk []
    | none => .done s stKeyDenied []

/-- REARM (R326): a LIVE node stays as it is (log 74). -/
def execRearm (s : State) : Out :=
  .next (rtpRow { row := 0x12, host := true, part := true, alone := false, used := nodeUsed } bodyRearm s)

/-- What SLOT_DESTROY comes to for its request. -/
def bodySlotDestroy (r : RtpReq) (q : Desc) (s : State) : RtpOut :=
  let n := q.slotAt 16
  if n.toNat < 80 ∨ (s.slotUser r n).isNone then .done s stKeyDenied []
  else if s.keyHeld [n] then
    let s1 := s.staleSlot n
    .going { s1 with rtp := { s1.rtp with
      revoke := some { req := r, seq := BitVec.ofNat 64 (q.n 8 8), slots := [n], destroy := true } } }
  else .done (s.destroySlot n) stOk []

/-- SLOT_DESTROY (R311): at once, or with INVALIDATE_COMPLETE where a holder still has the key. -/
def execSlotDestroy (s : State) : Out :=
  .next (rtpRow { row := 0x13, host := true, part := true, alone := false, used := usedBytes 16 1 } bodySlotDestroy s)

/-- INVALIDATE_COMPLETE (R325): the last holder has discarded; the response of INVALIDATE gives the TIME. -/
def execInvalidateComplete (s : State) : Out :=
  match s.rtp.revoke with
  | none => .next s
  | some v =>
    if s.keyHeld v.slots ∨ s.rtpHalted ∨ ¬ s.escOn then .next s
    else
      let s1 := { s with rtp := { s.rtp with revoke := none } }
      if v.destroy then
        .next ((v.slots.foldl (fun (t : State) n => t.destroySlot n) s1).respond v.req v.seq.toNat stOk [])
      else .next (s1.respond v.req v.seq.toNat stOk (Crypto.leBytes 8 s.time.toNat))

/-! ### KEY_TO_SEED (R312) -/

/-- The body of KEY_TO_SEED. -/
def seedUsed (i : Nat) : Nat :=
  if i = 16 ∨ i = 18 then 255 else if i = 17 then 3 else if i = 19 then 15 else 0

/-- What KEY_TO_SEED comes to for its request: a seed slot of another partition is BOUND_FAULT, as R164 gives it. -/
def bodyKeyToSeed (r : RtpReq) (q : Desc) (s : State) : RtpOut :=
  let n := q.slotAt 16
  let k := s.key n
  let d := q.n 17 1
  let z := q.n 18 2
  let st := s.slotStatus r false n
  if st ≠ stOk then .done s st []
  else if ¬ k.mask.getLsbD mbMkx ∨ k.bits < 256 then .done s stKeyDenied []
  else if (s.seedSlot d z).pid ≠ k.allot then .done s stBound []
  else
    .done (s.setSeedSlot d z { s.seedSlot d z with seed := some ((k.bytesOf k.key).take 32), recon := false,
                                                   vault := some n }) stOk []

/-- KEY_TO_SEED. -/
def execKeyToSeed (s : State) : Out :=
  .next (rtpRow { row := 0x14, host := true, part := true, alone := false, used := seedUsed } bodyKeyToSeed s)

/-! ### Owner keys (R321 to R323, R338) -/

/-- What OWNER_REPLACE comes to for its request. -/
def bodyOwnerReplace (r : RtpReq) (q : Desc) (s : State) : RtpOut :=
  let n := q.slotAt 16
  let k := s.key n
  let label := (q.drop 32).take 32
  let st := s.slotStatus r false n
  if st ≠ stOk then .done s st []
  else if k.branch ≠ 3 then .done s stKeyDenied []
  else if k.old.isSome then .done s stKeyBusy []
  else
    let (s1, m) := s.newMask
    .done (s1.setKey n { k with pend := some (Masked.of (s.relabelKey k.node.toNat label) m, label) }) stOk []

/-- OWNER_REPLACE (R321). -/
def execOwnerReplace (s : State) : Out :=
  .next (rtpRow { row := 0x18, host := false, part := true, alone := false, used := fun i => usedBytes 16 1 i + usedBytes 32 32 i }
    bodyOwnerReplace s)

/-- The TAG that confirms a pending key (R323). -/
def confirmTag (key : List Byte) (slot : BitVec 8) (pgen : Nat) : List Byte :=
  Crypto.kmac256 key (Crypto.padTo 8 (Crypto.ascii "CONFIRM") ++ [slot] ++ Crypto.beBytes 4 pgen)
    (Crypto.ascii "W880 KEY CONFIRM") 32

/-- What OWNER_CONFIRM comes to for its request. -/
def bodyOwnerConfirm (r : RtpReq) (q : Desc) (s : State) : RtpOut :=
  let n := q.slotAt 16
  let k := s.key n
  let st := s.slotStatus r true n
  if st ≠ stOk then .done s st []
  else match k.pend with
    | none => .done s stConfirm []
    | some (v, label) =>
      if (q.drop 32).take 32 ≠ confirmTag (k.bytesOf v.key) n k.pgen.toNat then .done s stConfirm []
      else
        .done (s.setKey n { k with sh0 := v.sh0, sh1 := v.sh1, pend := none
                                   old := some ({ sh0 := k.sh0, sh1 := k.sh1 }, 2 ^ 20, label) }) stOk []

/-- OWNER_CONFIRM (R323): the pending key becomes current, the old one verifies for 2^20 operations. -/
def execOwnerConfirm (s : State) : Out :=
  .next (rtpRow { row := 0x19, host := true, part := true, alone := true, used := fun i => usedBytes 16 1 i + usedBytes 32 32 i }
    bodyOwnerConfirm s)

/-- The body of WRAP_TO_OWNER. -/
def wrapUsed (i : Nat) : Nat := if i = 16 then 255 else if i = 17 then 1 else 0

/-- What WRAP_TO_OWNER comes to for its request. -/
def bodyWrapToOwner (r : RtpReq) (q : Desc) (s : State) : RtpOut :=
  let n := q.slotAt 16
  let k := s.key n
  let pid := k.pid
  let p := s.part pid
  let st := s.slotStatus r true n
  let pend := q.n 17 1 = 1
  if st ≠ stOk then .done s st []
  else if ¬ (k.branch = 3 ∨ k.branch = 4) ∨ p.kt.isEmpty ∨ (pend ∧ k.pend.isNone) then .done s stKeyDenied []
  else
    let key := (k.bytesOf (if pend then ((k.pend.map (fun v => v.1.key)).getD 0) else k.key)).take 32
    let nonce := List.replicate 4 (0 : Byte) ++ Crypto.leBytes 8 p.wrapCtr
    let aad := [n, BitVec.ofNat 8 (q.n 17 1)] ++ Crypto.beBytes 3 p.pgen.toNat
    let (ct, tag) := Crypto.gcmSeal p.kt nonce aad key
    .done (s.setPart pid { p with wrapCtr := p.wrapCtr + 1 }) stOk (p.kemDigest.take 8 ++ nonce ++ ct ++ tag)

/-- WRAP_TO_OWNER (R322, R338): AES-256-GCM under KT. A partition without KT, which only a CONFIDENTIAL one has, and a
slot without a pending key are refused (log 74). -/
def execWrapToOwner (s : State) : Out :=
  .next (rtpRow { row := 0x1A, host := true, part := true, alone := true, used := wrapUsed } bodyWrapToOwner s)

/-! ### CHALRESP (R327) -/

/-- What CHALRESP comes to for its request. -/
def bodyChalresp (r : RtpReq) (q : Desc) (s : State) : RtpOut :=
  let n := q.slotAt 16
  let k := s.key n
  let st := s.slotStatus r true n
  let soon : Bool := match s.rtp.chalTime with
    | some t => (s.time - t).toNat < 500
    | none => false
  if st ≠ stOk then .done s st []
  else if k.branch ≠ 4 ∨ ¬ k.mask.getLsbD mbChal then .done s stKeyDenied []
  else if soon then .wait s
  else
    let block := s.stateBlock k.pid
    .done { s with rtp := { s.rtp with chalTime := some s.time } } stOk
      (block ++ Crypto.hmacSha384 (k.bytesOf k.key) ((q.drop 32).take 32 ++ block))

/-- CHALRESP: at most one in 500 AON cycles; one that comes sooner waits. -/
def execChalresp (s : State) : Out :=
  .next (rtpRow { row := 0x20, host := true, part := true, alone := true, used := fun i => usedBytes 16 1 i + usedBytes 32 32 i }
    bodyChalresp s)

/-! ### REKEY_DUE (R267, R320) -/

/-- The label and user of the two DIR nodes of a peer's next epoch: the node with the epoch replaced. -/
def State.nextDir (s : State) (slot : BitVec 8) (epoch : Nat) : Option (Nat × Node) :=
  match s.node (s.key slot).node.toNat with
  | none => none
  | some x => match x.parent with
    | none => none
    | some p => some (p.toNat, { x with user := Crypto.padTo 20 (x.user.take 16 ++ Crypto.beBytes 4 epoch), made := false })

/-- The RTP's own REKEY of a peer whose slots derive from the Mitre branch (R320): the keys of the next epoch into the
two lowest EMPTY slots, then REKEY; nothing where there are none, nor where a slot is STALE or its node DEAD. -/
def State.rtpRekey (s : State) (h : BitVec 22) (p : Peer) : State :=
  let e := p.epoch.toNat + 1
  match s.emptySlots p.pid 2, s.nextDir p.txSlot e, s.nextDir p.rxSlot e with
  | [a, b], some (_, x), some (_, y) =>
    if (s.key p.txSlot).branch ≠ 5 ∨ (s.key p.rxSlot).branch ≠ 5 ∨ 1024 < s.nodesUsed + 2 ∨ s.rtpHalted ∨
        (s.key p.txSlot).st ≠ .valid ∨ (s.key p.rxSlot).st ≠ .valid ∨ s.nodeDead (s.key p.txSlot).node.toNat ∨
        s.nodeDead (s.key p.rxSlot).node.toNat then s
    else
      let n := s.freeNode
      let s1 := (s.setNode n (some x)).slotFromNode a n 2
      let m := s1.freeNode
      let s2 := (s1.setNode m (some y)).slotFromNode b m 4
      s2.setPeer h (some (p.rekeyed a b))
  | _, _, _ => s

/-- REKEY_DUE (R267): PKT_CTR has reached 2^40 − 2^30; the event is posted once an epoch, and the RTP rekeys where it
can. -/
def execRekeyDue (peer : BitVec 22) (s : State) : Out :=
  match s.peer peer with
  | none => .next s
  | some p =>
    if p.pktCtr < 2 ^ 40 - 2 ^ 30 ∨ p.dueEvt ∨ ¬ s.diesUp then .next s
    else
      let q := { p with dueEvt := true }
      .next (((s.setPeer peer (some q)).mEvent (homeOf peer) p.pid 3 0 peer.toNat p.pktCtr).rtpRekey peer q)

end Sys2Proof.Machine
end

