-- ==== Sys2Proof/Machine/Teardown.lean ====
section
/-!
DEFINITION. The teardown of a partition (R346, R347, Table 12.5), step by step: what fail-safe entry shares with it
(steps 1 to 4), the wait of steps 2 and 3 and their limits, the clear and scrub of step 6, and the freeing of step 7.
-/

namespace Sys2Proof.Machine

/-- The PARTITION page. -/
abbrev partPage : Page := .dieE tyPartition

/-- A logical cluster belongs to a partition. -/
def State.holdsCluster (s : State) (pid : BitVec 5) (c : Nat) : Bool := (s.part pid).clusters.getLsbD c

/-- The logical clusters of a partition. -/
def State.clusterNos (s : State) (pid : BitVec 5) : List Nat := (List.range 32).filter (fun c => s.holdsCluster pid c)

/-- The logical cores of a partition. -/
def State.coreNos (s : State) (pid : BitVec 5) : List Nat :=
  (s.clusterNos pid).flatMap (fun c => (List.range 16).map (fun i => 16 * c + i))

/-! ### Step 1: stop -/

/-- Every thread of a partition stops (R99). -/
def State.stopThreads (s : State) (pid : BitVec 5) : State :=
  s.threads.foldl (fun (t : State) e => if t.holdsCluster pid (e.1 / 256) then t.stopThread (whoOf e.1) else t) s

/-- The waiting mailbox requests of a partition complete DISABLED; the request at the front is the one that runs. -/
def State.disableRequests (s : State) (pid : BitVec 5) : State :=
  let mine := fun (r : RtpReq) => !r.host && r.pid = pid
  let q := s.rtp.queue
  let s1 := { s with rtp := { s.rtp with queue := q.take 1 ++ (q.drop 1).filter (fun r => !mine r) } }
  ((q.drop 1).filter mine).foldl (fun (t : State) r => t.answerDisabled r) s1

/-- The partition leaves ACTIVE, its threads stop, and its waiting mailbox requests complete. -/
def State.teardownStop (s : State) (pid : BitVec 5) : State :=
  ((s.setPart pid { s.part pid with st := 3 }).stopThreads pid).disableRequests pid

/-! ### Step 2: flush -/

/-- The packets of a partition's peers in the miss buffers are dropped (R272). -/
def State.dropMisses (s : State) (pid : BitVec 5) : State :=
  let hs := s.peersOf pid
  (List.range 4).foldl (fun (t : State) d =>
    t.setMit d { t.mit d with miss := (t.mit d).miss.filter (fun f => !hs.contains f.peer) }) s

/-- The sends of a partition that are releases stop with ORPHAN_DROPPED (R181). -/
def State.orphanSends (s : State) (pid : BitVec 5) : State :=
  (s.peersOf pid).foldl (fun (t : State) h => t.stopSends h stOrphan (fun o => o.released)) s

/-- Every bound queue of a partition flushes with a status. -/
def State.flushBound (s : State) (pid : BitVec 5) (st : Status) : State :=
  ((s.boundQueues pid).foldl (fun (t : State) q => t.flushQueue (s.ctrlDie pid) q st) s).dropMisses pid

/-- A send of the partition has not completed. -/
def State.sendsLeft (s : State) (pid : BitVec 5) : Bool :=
  (s.peersOf pid).any (fun h => match s.peer h with
    | some p => !p.sends.isEmpty
    | none => false)

/-- The 2 ms limit: the peers still at work are abandoned as by RESET. -/
def State.abandonPeers (s : State) (pid : BitVec 5) : State :=
  (s.peersOf pid).foldl (fun (t : State) h => match t.peer h with
    | some p => t.abandonPeer h p
    | none => t) s

/-! ### Step 3: commands run on -/

/-- A command or an access of the partition has not completed. -/
def State.workLeft (s : State) (pid : BitVec 5) : Bool :=
  s.cores.any (fun e => s.holdsCluster pid (e.1 / 16) &&
    !(e.2.mxeQ.isEmpty && e.2.rgeQ.isEmpty && e.2.mkxQ.isEmpty && e.2.dmaQ.isEmpty)) ||
  s.clusters.any (fun e => s.holdsCluster pid e.1 &&
    !(e.2.nsuQ.isEmpty && e.2.nsuRun.isNone && e.2.rtrQ.isEmpty && e.2.rtrRun.isNone)) ||
  s.threads.any (fun e => s.holdsCluster pid (e.1 / 256) && !e.2.accs.isEmpty)

/-- The waiting requests of a cluster's unit complete with a status. -/
def State.stopUnit (s : State) (c u : Nat) (st : Status) : State :=
  let q := (s.cluster c).unitQ u
  q.foldl (fun (t : State) r => t.unitDone c u r 0 none 0 st) (s.setCluster c ((s.cluster c).setUnitQ u []))

/-- The running requests of a cluster's units stop with a status (R172, R196). -/
def State.stopRuns (s : State) (c : Nat) (st : Status) : State :=
  let x := s.cluster c
  let s1 := ((s.setCluster c { x with nsuRun := none, rtrRun := none }).dropOps (unitDoer pgNsu c)).dropOps
    (unitDoer pgRouter c)
  let s2 := match x.nsuRun with
    | some r => s1.haltNsu c r st
    | none => s1
  match x.rtrRun with
  | some r => s2.unitDone c pgRouter r.req r.op none 0 st
  | none => s2

/-- The requests of a cluster's units, waiting and running, stop with a status. -/
def State.stopUnits (s : State) (c : Nat) (st : Status) : State :=
  ((s.stopUnit c pgNsu st).stopUnit c pgRouter st).stopRuns c st

/-- The 100 µs limit: everything of the partition that has not completed stops with a status. -/
def State.stopWork (s : State) (pid : BitVec 5) (st : Status) : State :=
  (s.clusterNos pid).foldl (fun (t : State) c => t.stopUnits c st)
    ((s.coreNos pid).foldl (fun (t : State) k => State.haltCore (fun _ => true) st t k) s)

/-! ### Step 4: keys -/

/-- The key slots of a partition: its memory and MAC keys (R307), its allotted slots, and any other slot that it owns. -/
def State.partSlots (s : State) (pid : BitVec 5) : List (BitVec 8) :=
  allSlots.filter (fun n => n.toNat / 2 = 8 + pid.toNat || (s.key n).allot = some pid ||
    ((s.key n).st ≠ .empty && !(s.key n).dev && (s.key n).pid = pid && 16 ≤ n.toNat))

/-- Keys, nodes, graft, seed slots, frozen entries and generators of a partition are destroyed (R162, R175, R311). -/
def State.destroyKeys (s : State) (pid : BitVec 5) : State :=
  let s1 := (s.partSlots pid).foldl (fun (t : State) n => t.destroySlot n) s
  let s2 := { s1 with nodes := s1.nodes.filter (fun e => (e.2.bind (fun x => x.owner)) ≠ some pid)
                      frozen := s1.frozen.filter (fun f => f.pid ≠ pid) }
  let s3 := (List.range 4).foldl (fun (t : State) d =>
    (t.die d).seeds.foldl (fun (u : State) e =>
      if e.2.pid = some pid then u.setSeedSlot d e.1 { SeedSlot.reset with pid := some pid } else u) t) s2
  let s4 := (s3.clusterNos pid).foldl (fun (t : State) c =>
    t.setCluster c { t.cluster c with nsuKey := none, drawn := 0, drawPos := 0 }) s3
  let s5 := (s4.coreNos pid).foldl (fun (t : State) k => t.setCore k { t.core k with srKey := none }) s4
  s5.setPart pid { s5.part pid with keyGone := true, kt := [], graft := none }

/-! ### Step 6: clear and scrub -/

/-- Memory from a to a + n − 1 of Press or Drawer zero, with valid check bits (R209). -/
def State.clearLines (s : State) (a n : Nat) : State :=
  { s.clearBytes a n with badLines := s.badLines.filter (fun e => e.1 < a / 64 ∨ (a + n) / 64 ≤ e.1) }

/-- The Press of a logical cluster cleared. -/
def State.clearPress (s : State) (c : Nat) : State := s.clearLines (0x8000000000 + c * 0x4000000) 0x4000000

/-- The Drawer of a logical core cleared. -/
def State.clearDrawer (s : State) (k : Nat) : State := s.clearLines (0x8100000000 + k * 0x100000) 0x100000

/-- Bits of CLOCKS.CDC_STATUS.PEER_RESET at which a reset is seen (log 83): of a cluster, on its compute die; of a core,
in its cluster; of a compute die, on die E. -/
def bitCore : Nat := 6

/-- The words of a page at their reset values, but for those that a test keeps. -/
def State.resetPage (s : State) (p : Page) (keep : Nat → Bool) : State :=
  { s with regs := s.regs.filter (fun e => e.1 / 1024 ≠ p.num || keep (e.1 % 1024 * 4)) }

/-- What stands through the reset of a unit: OWNER, which is the RTP's to write (R417), and a trim window, which holds until
the page's next reload (R430). -/
def keepOwner (off : Nat) : Bool := off = 0x028 || 0xC00 ≤ off

/-- A core reset (Table 15.3, R73, R98, R104, R136, R209): threads, Tally, ring parameters, buffers, Drawer and pages. -/
def State.resetCore (s : State) (k : Nat) : State :=
  let s1 := (s.clearDrawer k).setCore k { CoreSt.reset with cycleBase := s.eng }
  let s2 := { s1 with threads := s1.threads.filter (fun e => e.1 / 16 ≠ k) }
  (List.range 4).foldl (fun (t : State) j => t.resetPage (s.corePage k j) keepOwner) s2

/-- A cluster reset without its cores (Table 15.3, R191, R209). -/
def State.resetCluster (s : State) (c : Nat) : State :=
  (List.range 4).foldl (fun (t : State) j => t.resetPage (s.clusterPage c j) keepOwner)
    ((s.clearPress c).setCluster c ClusterSt.reset)

/-- A place lies in a logical cluster: its Press or the Drawer of one of its cores. -/
def Space.inCluster (c : Nat) : Space → Bool
  | .press x _ => x = c
  | .drawer k _ => k / 16 = c
  | _ => false

/-- The reset of a cluster as its die sees it (R389): what was under way to it is abandoned, and it presents a new epoch. -/
def State.clusterCycle (s : State) (c : Nat) : State :=
  ((s.abandonAt (fun p => p.inCluster c)).resetCluster c).peerCycle (endCluster c) (dieOfCluster c)

/-- The reset of a core with its cluster: neither end of their crossings survives, so nothing is barred (R389). -/
def State.coreCycle (s : State) (k : Nat) : State :=
  let t := s.resetCore k
  { t with cdc := sput (fun _ => Cdc.reset) t.cdc (endCore k) { epoch := !(t.crossing (endCore k)).epoch, barred := none } }

/-- A partition reset (Table 15.3, R209): its clusters and cores; the compute dies see it (R389). -/
def State.partReset (s : State) (pid : BitVec 5) : State :=
  let s1 := (s.clusterNos pid).foldl (fun (t : State) c => t.clusterCycle c) s
  (s1.coreNos pid).foldl (fun (t : State) k => t.coreCycle k) s1

/-- The regions of a partition, backing areas included; those that a scrub holds are nobody's until it ends. -/
def State.regionsOf (s : State) (pid : BitVec 5) : List Nat :=
  s.regions.filterMap (fun e => match e.2 with
    | some r => if r.owner = some pid ∧ ¬ s.inScrub e.1 then some e.1 else none
    | none => none)

/-- Step 6 begins: the partition reset empties Press, Drawers, ring parameters, Tally and gate tables, the identity entry
goes, and the scrub runs. -/
def State.teardownClear (s : State) (pid : BitVec 5) : State :=
  let s2 := s.partReset pid
  (s2.setPart pid { s2.part pid with st := 4, rpid := 0 }).startScrub (s2.regionsOf pid) (some pid)

/-! ### Step 7: free -/

/-- The queues of a partition on a die unconfigured, their cells returned. -/
def State.freeQueues (s : State) (pid : BitVec 5) (d : Nat) : State :=
  (s.die d).queues.foldl (fun (t : State) e =>
    if e.2.pid = some pid then
      let q : BitVec 12 := BitVec.ofNat 12 e.1
      (t.setQueue d q DQueue.reset).wrN (dresserPage d) 0x100 (t.rdN (dresserPage d) 0x100 + t.queueCells d q)
    else t) s

/-- Mitre's queues and rings of a partition on a die removed. -/
def State.freeMitre (s : State) (pid : BitVec 5) (d : Nat) : State :=
  s.setMit d { s.mit d with
    rings := (s.mit d).rings.filter (fun e => (e.2.map (fun (r : Ring) => r.pid)) ≠ some pid)
    queues := (s.mit d).queues.filter (fun e => (e.2.map (fun (m : MQueue) => m.pid)) ≠ some pid) }

/-- The pages that a partition owns: of its clusters, cores and ports. -/
def State.partPages (s : State) (pid : BitVec 5) : List Page :=
  (s.clusterNos pid).flatMap (fun c => (List.range 4).map (fun j => s.clusterPage c j)) ++
  (s.coreNos pid).flatMap (fun k => (List.range 4).map (fun j => s.corePage k j)) ++
  ((List.range 8).filter (fun p => (s.part pid).ports.getLsbD p)).map ethPage

/-- OWNER of every page of a partition takes a value. -/
def State.setOwners (s : State) (pid : BitVec 5) (v : Reg32) : State :=
  (s.partPages pid).foldl (fun (t : State) p => if p = .dieE 0 then t else t.wr p 0x028 v) s

/-- Every resource of a partition is free. -/
def State.releasePart (s : State) (pid : BitVec 5) : State :=
  let s1 := (s.peersOf pid).foldl (fun (t : State) h => t.freePeer h) s
  let s2 := (List.range 4).foldl (fun (t : State) d => (t.freeQueues pid d).freeMitre pid d) s1
  let s3 := (List.range 4).foldl (fun (t : State) d =>
    t.setDie d { t.die d with seeds := (t.die d).seeds.filter (fun e => e.2.pid ≠ some pid) }) s2
  let s4 := (allSlots.filter (fun n => (s3.key n).allot = some pid)).foldl (fun (t : State) n =>
    t.setKey n { t.key n with allot := none }) s3
  (s4.setOwners pid 0).setPart pid Part.reset

/-- A partition is FREE, and FREED is raised (step 7). -/
def State.freePartition (s : State) (pid : BitVec 5) : State := (s.releasePart pid).raise partPage 0

/-! ### The sequence -/

/-- Step 4 and its response; step 5, in which arrivals meet the destroyed key, lasts until the command goes on. -/
def State.teardownKeys (s : State) (v : Teardown) : State :=
  let s1 := { s with rtp := { s.rtp with teardown := some { v with step := 5 } } }.destroyKeys v.pid
  s1.respond v.req v.seq.toNat stOk (Crypto.leBytes 8 s1.time.toNat)

/-- The sequence goes on from its step as far as the steps have finished; step 3 begins when step 2 has ended. -/
def State.teardownGo (s : State) (v : Teardown) : State :=
  if v.step = 5 then { s with rtp := { s.rtp with teardown := none } }.teardownClear v.pid
  else if v.step ≤ 2 ∧ s.sendsLeft v.pid then { s with rtp := { s.rtp with teardown := some { v with step := 2 } } }
  else if s.workLeft v.pid then { s with rtp := { s.rtp with teardown := some { v with step := 3 } } }
  else s.teardownKeys v

/-- The body of PART_TEARDOWN. -/
def teardownUsed (i : Nat) : Nat := if i = 16 then 31 else 0

/-- What PART_TEARDOWN comes to for its request. -/
def bodyPartTeardown (r : RtpReq) (q : Desc) (s : State) : RtpOut :=
  let pid : BitVec 5 := BitVec.ofNat 5 (q.n 16 1)
  if ¬ r.host ∧ pid ≠ r.pid then .done s stMbox []
  else if (s.part pid).st ≠ 2 then .done s stPartState []
  else
    .going ((((s.teardownStop pid).orphanSends pid).flushBound pid stFlushed).teardownGo
      { req := r, seq := BitVec.ofNat 64 (q.n 8 8), pid := pid, step := 2 })

/-- PART_TEARDOWN (R346): steps 1 and 2 begin; while a teardown runs, the command takes it on to its next step. -/
def execPartTeardown (s : State) : Out :=
  match s.rtp.teardown with
  | some v => if s.escOn ∧ ¬ s.rtpHalted then .next (s.teardownGo v) else .next s
  | none =>
    .next (rtpRow { row := 0x31, host := true, part := true, alone := false, used := teardownUsed }
      bodyPartTeardown s)

/-- TEARDOWN_LIMIT (R346): the limit of step 2 or step 3 is over. -/
def execTeardownLimit (s : State) : Out :=
  match s.rtp.teardown with
  | none => .next s
  | some v =>
    if ¬ s.escOn ∨ s.rtpHalted then .next s
    else if v.step ≤ 2 then .next ((s.abandonPeers v.pid).teardownGo v)
    else if v.step = 3 then .next ((s.stopWork v.pid stOrphan).teardownGo v)
    else .next s

/-- SCRUB_COMPLETE (R229 to R233, Table 12.5): a scrub ends, and the partition that waited for it is free. -/
def execScrubComplete (idx : Nat) (s : State) : Out :=
  match s.scrubs[idx]? with
  | none => .next s
  | some sc => match sc.pid with
    | some pid => .next ((s.endScrub idx).freePartition pid)
    | none => .next (s.endScrub idx)

end Sys2Proof.Machine
end

