-- ==== Sys2Proof/Machine/FailSafe.lean ====
section
/-!
DEFINITION. The fail-safe state and LOCKED (R438 to R442, R455): the causes and where they lead in each state of the
device, the actions of Table 17.4, the fault log, and the commands that bring a cause.
-/

namespace Sys2Proof.Machine

/-! Fail-safe causes, Table 17.3. -/
abbrev fsControl : Nat := 1
abbrev fsPll : Nat := 2
abbrev fsTamper : Nat := 3
abbrev fsSeedbed : Nat := 4
abbrev fsOvertemp : Nat := 5
abbrev fsRtp : Nat := 6

/-- Start-up stops in LOCKED (R455): the reason, its detail, and `FAULT_N` low (Table 19.4). -/
def State.lock (s : State) (reason detail : Nat) : State :=
  let s1 := (s.wrN mboxPage 0x114 (reason * 256 + 2)).wrN escPage 0x104 detail
  { s1 with start := none, pins := { s1.pins with faultN := false } }

/-! ### The fault log (R442) -/

/-- A record of the fault log as the state now stands. -/
def State.faultRecord (s : State) : List Byte :=
  Crypto.leBytes 4 s.flash.record.boots.toNat ++ List.replicate 4 (0 : Byte) ++ Crypto.leBytes 8 s.time.toNat ++
  [BitVec.ofNat 8 (s.fld sparesPage 0x12C 0 8), BitVec.ofNat 8 (s.fld sparesPage 0x12C 8 6), BitVec.ofNat 8 s.power,
   BitVec.ofNat 8 (s.fld ledgerPage 0x118 0 8)] ++
  Crypto.leBytes 4 (s.rdN sparesPage 0x130) ++ Crypto.leBytes 4 (s.journalNow.2 % 2 ^ 32) ++ List.replicate 36 (0 : Byte)

/-- The record appended; the oldest of 1,024 gives way. -/
def State.logFault (s : State) : State :=
  let l := s.flash.log ++ [s.faultRecord]
  { s with flash := { s.flash with log := l.drop (l.length - 1024) } }

/-! ### The actions of Table 17.4 -/

/-- NEXT answers FAILSAFE to every thread that waits in it (R96). -/
def State.failNext (s : State) : State :=
  (List.range 4).foldl (fun (t : State) d =>
    (t.die d).queues.foldl (fun (u : State) e =>
      if e.2.waiters.isEmpty then u else u.wakeWaiters d (BitVec.ofNat 12 e.1) stFailsafe) t) s

/-- Every thread stops as by STOP. -/
def State.stopAll (s : State) : State := s.threads.foldl (fun (t : State) e => t.stopThread (whoOf e.1)) s

/-- Every outstanding command of an engine stops and completes FAILSAFE (R91, R135). -/
def State.failEngine (k : Nat) (e : Engine) (s : State) : State :=
  ((s.core k).q e).foldl (fun (t : State) x => t.completeEntry k e x 0 stFailsafe)
    ((s.stopEntries k e ((s.core k).q e)).setCore k ((s.core k).setQ e []))

/-- Every outstanding engine command completes FAILSAFE. -/
def State.failEngines (s : State) : State :=
  s.cores.foldl (fun (t : State) e =>
    [Engine.mxe, .rge, .mkx, .dma].foldl (fun (u : State) x => u.failEngine e.1 x) t) s

/-- Every request of a cluster's units completes FAILSAFE (R172, R196). -/
def State.failUnits (s : State) (c : Nat) : State := s.stopUnits c stFailsafe

/-- Every send, receive and WAIT_COUNT of a die completes FAILSAFE (R272). -/
def State.failMitre (s : State) (d : Nat) : State :=
  let s1 := (s.mit d).queues.foldl (fun (t : State) e =>
    if e.2.isSome then t.flushQueue d (BitVec.ofNat 12 e.1) stFailsafe else t) s
  let s2 := (s1.mit d).peers.foldl (fun (t : State) e =>
    let h : BitVec 22 := BitVec.ofNat 22 (d * 2 ^ 20 + e.1)
    ((t.dropPlacing h).dropSends h (fun _ => stFailsafe)).dropSlots h stFailsafe) s1
  s2.setMit d { s2.mit d with miss := [], waiting := [] }

/-- An access that another device has not answered. -/
def State.awaitsRemote (s : State) (w : Who) (x : Access) : Bool :=
  (match x.stage with
    | .issued => true
    | .sent _ => true
    | _ => false) &&
  ((s.place (dieOfCore w.core.toNat) x.addr).isRemote || (s.place (dieOfCore w.core.toNat) x.src).isRemote)

/-- The remote accesses of stopped threads are abandoned, sent or not, and their held statuses discarded (R293). -/
def State.abandonRemote (s : State) : State :=
  { s with
    threads := s.threads.map (fun e => (e.1, { e.2 with
      held := none, accs := e.2.accs.filter (fun x => !s.awaitsRemote (whoOf e.1) x) }))
    remote := s.remote.filter (fun o => match o.doer with
      | .thread _ => false
      | .place _ _ => false
      | .zmap _ _ => false
      | _ => true) }

/-- The links of a die fall idle, and nothing there awaits a response (R296). -/
def State.failJoist (s : State) (d : Nat) : State :=
  let x := s.die d
  s.setDie d { x with pend := [], vcHeld := [], c3 := [], c3Wait := [],
                      links := x.links.map (fun e => (e.1, { e.2 with queued := [], replay := [] })) }

/-- A CONFIDENTIAL partition goes through steps 1 to 4 of Table 12.5 at once; nothing of it is left to perform. -/
def State.failPart (s : State) (pid : BitVec 5) : State :=
  if (s.part pid).st = 4 then s
  else
    let s1 := (s.setPart pid { s.part pid with st := 3 }).destroyKeys pid
    { s1 with threads := s1.threads.map (fun e =>
      if s.holdsCluster pid (e.1 / 256) then (e.1, { e.2 with accs := [] }) else e) }

/-- Every seed slot is EMPTY (R162). -/
def State.emptySeeds (s : State) : State :=
  (List.range 4).foldl (fun (t : State) d =>
    t.setDie d { t.die d with seeds := (t.die d).seeds.map (fun e => (e.1, { SeedSlot.reset with pid := e.2.pid })) }) s

/-- The RTP's command under way at entry ends (R347, R440): a teardown has its steps 1 to 4, an INVALIDATE or
SLOT_DESTROY completes FAILSAFE; nothing is answered where the RTP is the cause. -/
def State.failRtp (s : State) (cause : Nat) : State :=
  let s1 := { s with rtp := { s.rtp with teardown := none, revoke := none } }
  let s2 := match s.rtp.teardown with
    | some v =>
      let t := s1.failPart v.pid
      if cause = fsRtp ∨ v.step = 5 then t else t.respond v.req v.seq.toNat stOk (Crypto.leBytes 8 t.time.toNat)
    | none => s1
  match s.rtp.revoke with
  | some v =>
    let t := if v.destroy then v.slots.foldl (fun (u : State) n => u.destroySlot n) s2 else s2
    if cause = fsRtp then t else t.respond v.req v.seq.toNat stFailsafe []
  | none => s2

/-- The partitions that are CONFIDENTIAL. -/
def State.confParts (s : State) : List (BitVec 5) :=
  s.parts.filterMap (fun e => if e.2.st ≠ 0 ∧ e.2.conf then some (BitVec.ofNat 5 e.1) else none)

/-- The spares record written: maps, in-service sets and worn marks as they stand, with given wear counters (R433). -/
def State.saveRecord (s : State) (ce retry hot : Sparse Nat) : State :=
  let f := s.flash.record
  { s with flash := s.flash.putRecord { f with
      spares := { s.spares with ce := ce, retry := retry, hot := hot }
      pageMaps := s.hbm.filterMap (fun e =>
        if e.2.map.isEmpty ∧ e.2.fails.isEmpty then none else some (e.1, (e.2.map, e.2.fails))) } }

/-- A change of maps or in-service sets written: the wear counters stay as last written (R433). -/
def State.saveMaps (s : State) : State :=
  let f := s.flash.record.spares
  s.saveRecord f.ce f.retry f.hot

/-- The registers of SPARES that show a cause (Table 17.5), and what the device keeps of it. -/
def State.recordCause (s : State) (cause detail : Nat) (entered : Bool) : State :=
  let s1 := ((s.wrN sparesPage 0x12C ((if entered then 2 ^ 31 else 0) + cause)).wrN sparesPage 0x130 detail).wr64 sparesPage
    0x138 s.time.toNat
  { s1 with rtp := { s1.rtp with fsCause := BitVec.ofNat 8 cause } }

/-- RTP_STATE and the pins of the fail-safe state (Table 19.4). -/
def State.showFailsafe (s : State) : State :=
  { s.wrN mboxPage 0x114 3 with pins := { s.pins with faultN := false, wakeN := true } }

/-- Fail-safe entry (Tables 17.3 and 17.4). The actions are done in the fail-safe state, and the cause stands beside that once
they are. -/
def State.enterFailsafe (s : State) (cause detail : Nat) : State :=
  let s1 := if s.power = 2 then s.setFld clocksPage 0x11C 5 1 1 else s
  let s2 := if (s.rd gaugePage 0x104).getLsbD 19 then s1.gaugeTrigger 4 s.time.toNat else s1
  let s4 := s2.showFailsafe.failNext.stopAll.failEngines
  let s5 := (s4.clusters.map (fun e => e.1)).foldl (fun (t : State) c => t.failUnits c) s4
  let s6 := (List.range 4).foldl (fun (t : State) d => (t.failMitre d).failJoist d) s5.abandonRemote
  let s7 := (s6.confParts.foldl (fun (t : State) p => t.failPart p) s6).emptySeeds.failRtp cause
  let s8 := s7.evcFailsafe.showFailsafe.recordCause cause detail true
  if cause = fsRtp then s8 else s8.saveMaps.logFault

/-- The bit of FS.OTHERS for a cause. -/
def otherBit (cause : Nat) : Nat := 2 ^ (8 + cause - 1)

/-- The fail-safe state's recorded cause gives way to one of a lower code of the same ESC cycle, and sets its own bit of OTHERS
(R441); the log record of the entry says so too. -/
def State.lowerCause (s : State) (cause detail : Nat) : State :=
  let others := (s.fld sparesPage 0x12C 8 6 * 256) ||| otherBit s.rtp.fsCause.toNat
  let s1 := s.recordCause cause detail true
  let s2 := s1.wrN sparesPage 0x12C (2 ^ 31 + others + cause)
  if s.rtp.fsCause.toNat = fsRtp then s2.saveMaps.logFault
  else { s2 with flash := { s2.flash with log := s2.flash.log.dropLast } }.logFault

/-- A further cause (R441): of one ESC cycle with the recorded one the lower code is recorded, where the model's TIME, an AON
cycle, leaves open whether it is one (log 86); else it sets its bit of FS.OTHERS. -/
def State.otherCause (s : State) (cause detail : Nat) : State :=
  if s.rtp.fsCause.toNat = cause then s
  else if s.mode = 3 ∧ cause < s.rtp.fsCause.toNat ∧ s.rd64 sparesPage 0x138 = s.time.toNat then
    let s1 := { s with fresh := s.fresh + 1 }
    if Config.sameEscCycle s.fresh then s1.lowerCause cause detail
    else s1.wrN sparesPage 0x12C (s.rdN sparesPage 0x12C ||| otherBit cause)
  else s.wrN sparesPage 0x12C (s.rdN sparesPage 0x12C ||| otherBit cause)

/-- The reason of LOCKED that a cause gives during start-up (R439, Table 18.3). -/
def lockReason (cause : Nat) : Nat :=
  if cause = fsTamper then 0x01 else if cause = fsSeedbed then 0x04 else if cause = fsPll then 0x08
  else if cause = fsControl then 0x09 else if cause = fsRtp then 0x0A else 0x0B

/-- A cause during start-up (R439): LOCKED, the cause recorded without FS.ENTERED, and one log record where the firmware runs
and is not itself the cause. -/
def State.startCause (s : State) (cause detail : Nat) : State :=
  let s1 := (s.lock (lockReason cause) detail).recordCause cause detail false
  if 5 ≤ s.fld escPage 0x100 0 4 ∧ cause ≠ fsRtp then s1.logFault else s1

/-- A cause of Table 17.3 is detected (R438, R439, R441). -/
def State.failCause (s : State) (cause detail : Nat) : State :=
  if ¬ s.pins.por then s
  else if s.mode = 2 ∨ s.mode = 3 then s.otherCause cause detail
  else if s.mode = 1 then s.enterFailsafe cause detail
  else s.startCause cause detail

/-! ### The commands that bring a cause -/

/-- CONTROL_UE (R438): an uncorrectable error in control state of a block. -/
def execControlUe (pageId : BitVec 24) (s : State) : Out := .next (s.failCause fsControl pageId.toNat)

/-- RTP_FIRMWARE_EXCEPTION (R440). -/
def execRtpFirmwareException (code : BitVec 32) (s : State) : Out := .next (s.failCause fsRtp code.toNat)

/-- RTP_WATCHDOG_EXPIRY (R440). -/
def execRtpWatchdogExpiry (code : BitVec 32) (s : State) : Out := .next (s.failCause fsRtp code.toNat)

/-- The key of a PLL: three on each die, die E as 4. -/
def pllKey (die pll : Nat) : Nat := 3 * die + pll

/-- The standby PLL of a die holds the role of PLL_A (0) or PLL_B (1). -/
def State.standbyFor (s : State) (die pll : Nat) : Bool := sget (fun _ => false) s.spares.standby (pllKey die pll)

/-- The regulator of a compute die's VCORE is on (R462). -/
def State.railOn (s : State) (die : Nat) : Bool := (sget (fun _ => ({ on := false, point := 0 } : Rail)) s.rails die).on

/-- A PLL drives domains: its die is powered, and it holds a role. -/
def State.pllInUse (s : State) (die pll : Nat) : Bool :=
  (if die = 4 then s.escOn else decide (die < 4) && (s.diesUp || (s.pins.por && s.mode = 0 && s.railOn die))) &&
  (if pll = 2 then s.standbyFor die 0 || s.standbyFor die 1 else decide (pll < 2) && !s.standbyFor die pll)

/-- PLL_LOCK_LOSS (R387): a PLL that drives a domain loses lock; in LOCKED and in the fail-safe state it sets its bit of OTHERS and
changes nothing else (R439, R441). -/
def execPllLockLoss (die : BitVec 3) (pll : BitVec 2) (s : State) : Out :=
  if ¬ s.pllInUse die.toNat pll.toNat then .next s
  else
    let k := pllKey die.toNat pll.toNat
    if s.mode = 2 ∨ s.mode = 3 then .next (s.failCause fsPll (16 * die.toNat + pll.toNat))
    else
      let n := min 65535 (sget (fun _ => (0 : Nat)) s.pllLoss k + 1)
      let s1 := ({ s with pllLoss := sput (fun _ => (0 : Nat)) s.pllLoss k n }.countRetry 4 k).raise clocksPage 0
      .next (s1.failCause fsPll (16 * die.toNat + pll.toNat))

/-- A fatal failure ends a mailbox request that waits for Seedbed (R360 step 3). -/
def State.failWaiting (s : State) : State :=
  match s.seed.wait, s.rtp.queue with
  | some _, r :: rest =>
    let (s1, _, q) := s.rtpRead r
    ({ s1 with rtp := { s1.rtp with queue := rest }, seed := { s1.seed with wait := none } }).respond r (q.n 8 8) stRngFailed []
  | _, _ => s

/-- Samples of sources arrive in order; the fourth failure within the window is fatal (R353, R360, R361). Answers whether
one was. -/
def State.feedSamples (s : State) (bs : List (BitVec 4 × List Byte)) : State × Bool :=
  bs.foldl (fun (r : State × Bool) b =>
    if r.2 then r
    else
      let (t, fatal) := r.1.samples b.1.toNat b.2
      (if fatal then t.failWaiting.failCause fsSeedbed b.1.toNat else t, fatal)) (s, false)

/-- The last samples of blocks, source by source, as feedSamples takes them; answers also whether a source's last one, at the
block boundary itself, failed a test (R359). -/
def State.feedEnds (s : State) (bs : List (BitVec 4 × List Byte)) : State × Bool × Bool :=
  bs.foldl (fun (r : State × Bool × Bool) b =>
    if r.2.1 then r
    else
      let x := r.1.feedSamples [(b.1, b.2.dropLast)]
      let y := if x.2 then x else x.1.feedSamples [(b.1, b.2.drop (b.2.length - 1))]
      (y.1, y.2, r.2.2 || (!x.2 && y.1.fld seedPage 0x118 0 3 != x.1.fld seedPage 0x118 0 3))) (s, false, false)

/-- HEALTH_TEST_FAIL (R352, R353, R360, R361): samples of a source that fail a test; the tests decide. -/
def execHealthTestFail (src : BitVec 4) (samples : List Byte) (s : State) : Out :=
  if ¬ s.escOn ∨ s.seedMode = 3 then .next s else .next (s.feedSamples [(src, samples)]).1

/-- SOURCE_BLOCK_END (R351, R352, R354): the last samples of the blocks of 512, then their end. -/
def execSourceBlockEnd (samples : List (BitVec 4 × List Byte)) (s : State) : Out :=
  if ¬ s.escOn ∨ s.seedMode = 3 then .next s
  else
    let (s1, fatal, late) := s.feedEnds samples
    .next (if fatal then s1 else s1.blockEnd late)

/-- A signed byte. -/
def celsius (v : Nat) : Int := toSigned 8 v

/-- THERMAL is raised where reduction under R409 begins: by a reading, or by a lower THROTTLE_C (R410). -/
def State.thermal (s : State) : State :=
  let red : Bool := decide (celsius (s.fld ledgerPage 0x11C 0 8) < celsius (s.fld ledgerPage 0x118 0 8))
  let s1 := { s with ledger := { s.ledger with reduced := red } }
  if red ∧ ¬ s.ledger.reduced then s1.raise ledgerPage 1 else s1

/-- TEMP_READING (R409): the hottest junction of one 1 ms reading; THERMAL where reduction begins; two readings in a row
at or above OVERTEMP_C. In LOCKED and in the fail-safe state these only set their bit of OTHERS (R439, R441). -/
def execTempReading (c : BitVec 8) (s : State) : Out :=
  if ¬ s.escOn then .next s
  else
    let t := celsius c.toNat
    let hot : Bool := decide (celsius (s.fld ledgerPage 0x11C 8 8) ≤ t)
    let run := if hot then s.ledger.tempRun + 1 else 0
    let s2 := ({ s with ledger := { s.ledger with tempRun := run } }.wrN ledgerPage 0x118 c.toNat).thermal
    let s3 := if s.mode = 2 ∨ s.mode = 3 then s2 else s2.raise ledgerPage 2
    .next (if 2 ≤ run then s3.failCause fsOvertemp c.toNat else s2)

end Sys2Proof.Machine
end

