-- ==== Sys2Proof/Machine/Bundle.lean ====
section
/-!
DEFINITION. Fardat bundles (R339 to R341) and the placement of weight sets (R226 to R228): the header, the device's
entry, the layers, decryption into place and its undoing, the bundle list, and the graft of a group key.
-/

namespace Sys2Proof.Machine

/-! ### The header (Table 12.2) -/

/-- The bytes of a bundle before its payload. -/
def bundleHead (h : Desc) : Nat := 128 + h.n 16 4 * 1728 + h.n 20 4 * 32

/-- The header and its sizes against LEN. -/
def bundleOk (h : Desc) (len : Nat) : Bool :=
  let kind := h.n 6 1
  h.take 4 = Crypto.ascii "FRDT" && h.n 4 2 = 1 && 1 ≤ kind && kind ≤ 3 &&
  (if kind = 2 then h.bits 7 1 7 = 0 else h.n 7 1 = 0) && 1 ≤ h.n 16 4 && h.n 16 4 ≤ 4096 &&
  (if kind = 2 then decide (1 ≤ h.n 20 4) && decide (h.n 20 4 ≤ 65536) else h.n 20 4 = 0) &&
  1 ≤ h.n 24 8 && h.n 24 8 ≤ 2 ^ 36 - 32 && (kind ≠ 3 || h.n 24 8 = 32) && h.zero 112 16 &&
  len = bundleHead h + h.n 24 8 + 16

/-! ### The device's entry -/

/-- The reserved bytes of every device entry are zero (R5, R339). -/
def entriesOk (es : List (List Byte)) : Bool := es.all (fun (e : Desc) => e.zero 1673 7)

/-- The key that wraps a bundle key for this device (R339). -/
def State.bundleKek (s : State) (bundleId entry : List Byte) : List Byte :=
  let ssK := Config.mlkemDecaps ((s.key 7).bytesOf (s.key 7).key) ((entry.drop 8).take 1568)
  let ssE := Config.ecdhX (p384Scalar ((s.key 8).bytesOf (s.key 8).key)) ((entry.drop 1576).take 97)
  Crypto.kmac256 (Crypto.padTo 32 ssK ++ Crypto.padTo 48 ssE) (s.id8 ++ bundleId) (Crypto.ascii "W880 FARDAT WRAP") 32

/-- The bundle key of the first entry that carries this device's ID8 and unwraps. -/
def State.unwrapBundle (s : State) (bundleId : List Byte) (entries : List (List Byte)) : Option (List Byte) :=
  let id8 := s.id8
  entries.findSome? (fun e =>
    if e.take 8 ≠ id8 then none
    else Crypto.gcmOpen (s.bundleKek bundleId e) (List.replicate 12 0) [] ((e.drop 1680).take 32) ((e.drop 1712).take 16))

/-- n pieces of m bytes each. -/
def chunks (m : Nat) : Nat → List Byte → List (List Byte)
  | 0, _ => []
  | n + 1, bs => bs.take m :: chunks m n (bs.drop m)

/-! ### Layers and their placement (R226 to R228) -/

/-- A layer of a weight set: its index, size, payload offset, logical cluster and heat rank. -/
structure Layer where
  idx  : Nat
  size : Nat
  off  : Nat
  clu  : Nat
  heat : Nat
deriving DecidableEq, Repr

/-- A size rounded up to 4 KiB. -/
def round4k (n : Nat) : Nat := (n + 4095) / 4096 * 4096

/-- The size that a layer takes up. -/
def Layer.room (l : Layer) : Nat := round4k l.size

/-- The layers of a bundle; none where a record is not valid. -/
def layersOf (clusters : List Nat) (payload : Nat) (recs : List (List Byte)) : Option (List Layer) :=
  recs.zipIdx.mapM (fun e =>
    let r : Desc := e.1
    let c := r.n 16 1
    if r.zero 17 1 ∧ r.zero 20 12 ∧ 1 ≤ r.n 0 8 ∧ r.n 8 8 + r.n 0 8 ≤ payload ∧ c < clusters.length then
      some { idx := e.2, size := r.n 0 8, off := r.n 8 8, clu := clusters.getD c 0, heat := r.n 18 2 }
    else none)

/-- A layer put in its place: rising heat rank, ties to the lower index. -/
def layerIns (a : Layer) : List Layer → List Layer
  | [] => [a]
  | b :: bs => if b.heat < a.heat ∨ (b.heat = a.heat ∧ b.idx < a.idx) then b :: layerIns a bs else a :: b :: bs

/-- The running result of a placement: bytes used per cluster, regions taken by spilled layers, where each layer lies
(layer, address, spilled), the bytes spilled, and the HBM bytes missing. -/
structure Placing where
  used    : Sparse Nat
  spills  : List Nat
  placed  : List (Layer × Nat × Bool)
  spilled : Nat
  missing : Nat
deriving DecidableEq, Repr

/-- The first of the lowest run of n regions of a list. -/
def lowRun (free : List Nat) (n : Nat) : Option Nat :=
  (free.filter (fun r => (List.range n).all (fun i => free.contains (r + i)))).min?

/-- The NEAR regions of a partition on a die that hold no backing area (R226, log 78). -/
def State.nearRegions (s : State) (pid : BitVec 5) (d : Nat) : List Nat :=
  (s.regionsOf pid).filter (fun r =>
    ((s.regionRaw r).bind (fun x => x.near)).map (fun h => h.toNat) = some d &&
    !((s.part pid).backing.map (fun e => e.2)).contains r)

/-- One layer placed: in the weight area, which lies at the start of the Press (log 78), or in whole regions. -/
def State.placeLayer (s : State) (pid : BitVec 5) (p : Placing) (l : Layer) : Placing :=
  let w := (s.part pid).weightMib * 2 ^ 20
  let u : Nat := sget (fun _ => (0 : Nat)) p.used l.clu
  if u + l.room ≤ w then
    { p with used := sput (fun _ => (0 : Nat)) p.used l.clu (u + l.room)
             placed := p.placed ++ [(l, 0x8000000000 + l.clu * 0x4000000 + u, false)] }
  else
    let n := (l.room + 0x1FFFFF) / 0x200000
    let free := (s.nearRegions pid (dieOfCluster l.clu)).filter (fun r => !p.spills.contains r)
    match lowRun free n with
    | none => { p with missing := p.missing + l.room, spilled := p.spilled + l.room }
    | some r => { p with spills := p.spills ++ (List.range n).map (fun i => r + i)
                         placed := p.placed ++ [(l, r * 0x200000, true)], spilled := p.spilled + l.room }

/-- A whole weight set placed. -/
def State.placeLayers (s : State) (pid : BitVec 5) (ls : List Layer) : Placing :=
  (ls.foldr layerIns []).foldl (fun p l => s.placeLayer pid p l)
    { used := (s.part pid).weights, spills := (s.part pid).spills, placed := [], spilled := 0, missing := 0 }

/-- SHORTFALL (R227). -/
def State.shortfall (s : State) (pid : BitVec 5) (ls : List Layer) : Nat :=
  let w := (s.part pid).weightMib * 2 ^ 20
  ((s.clusterNos pid).map (fun c =>
    ((ls.filter (fun l => l.clu = c)).map Layer.room).sum - (w - sget (fun _ => (0 : Nat)) (s.part pid).weights c))).sum

/-- The layer map (R341). -/
def layerMap (n : Nat) (placed : List (Layer × Nat × Bool)) : List Byte :=
  (List.range n).flatMap (fun i => match placed.find? (fun e => e.1.idx = i) with
    | some (l, a, sp) => Crypto.leBytes 8 (a + if sp then 2 ^ 63 else 0) ++ Crypto.leBytes 8 l.size
    | none => List.replicate 16 0)

/-! ### The load (R340, R341) -/

/-- Pieces written at their addresses by the RTP for a partition. -/
def State.putAll (s : State) (pid : BitVec 5) (ws : List (Nat × List Byte)) : State × Status :=
  ws.foldl (fun r w => if r.2 ≠ stOk then r else r.1.memWrite (rtpAgent pid) false none w.1 w.2) (s, stOk)

/-- What a load has placed is overwritten with zero. -/
def State.undoLoad (s : State) (pid : BitVec 5) (ws : List (Nat × Nat)) : State :=
  (s.putAll pid (ws.map (fun w => (w.1, List.replicate w.2 0)))).1

/-- A load joins the bundle list. -/
def State.recordBundle (s : State) (pid : BitVec 5) (h : Desc) : State :=
  let p := s.part pid
  s.setPart pid { p with bundles := p.bundles ++
    [{ kind := BitVec.ofNat 8 (h.n 6 1), flags := BitVec.ofNat 8 (h.n 7 1), id := (h.drop 8).take 8, digest := (h.drop 32).take 48 }] }

/-- The group key becomes the graft of the partition's Mitre branch, and its depth-1 node is made; an earlier graft is
invalidated (R324, R341). -/
def State.setGraft (s : State) (pid : BitVec 5) (key : List Byte) : State :=
  let s1 := match (s.part pid).graft with
    | some g => (s.invalidate g.toNat).1
    | none => s
  let base := { devNode none 5 0 "" [] 256 with owner := some pid, pgen := (s.part pid).pgen }
  let n := s1.freeNode
  let s2 := s1.setNode n (some { base with graft := some key })
  let m := s2.freeNode
  let s3 := s2.setNode m (some { devNode (some n) 5 1 "W880 MITRE" [] 256 with owner := some pid, pgen := (s.part pid).pgen })
  s3.setPart pid { s3.part pid with graft := some (BitVec.ofNat 10 n) }

/-- What a request asks of a load: its reader, the partition, and the four operands. -/
structure LoadReq where
  req  : RtpReq
  pid  : BitVec 5
  src  : Nat
  len  : Nat
  dst  : Nat
  map  : Nat
  boot : Bool

/-- The three words of a weight set's response (R341). -/
def weightBody (short spilled missing : Nat) : List Byte :=
  Crypto.leBytes 8 short ++ Crypto.leBytes 8 spilled ++ Crypto.leBytes 8 missing

/-- The payload decrypted and checked: the plaintext, or the status of its failure. -/
def openPayload (h : Desc) (key aad body : List Byte) : Status × List Byte :=
  let n := body.length
  match Crypto.gcmOpen key ((h.drop 8).take 8 ++ List.replicate 4 0) aad (body.take (n - 16)) (body.drop (n - 16)) with
  | none => (stBundleAuth, [])
  | some pt => if Crypto.sha384 pt = (h.drop 32).take 48 then (stOk, pt) else (stBundle, [])

/-- The payload put in its place where it verifies, else undone: each piece's address, payload offset and size. -/
def State.placeLoad (s : State) (pid : BitVec 5) (r : Status × List Byte) (ws : List (Nat × Nat × Nat)) : State × Status :=
  if r.1 ≠ stOk then (s.undoLoad pid (ws.map (fun w => (w.1, w.2.2))), r.1)
  else s.putAll pid (ws.map (fun w => (w.1, (r.2.drop w.2.1).take w.2.2)))

/-- A load of a weight set (R226 to R228). -/
def State.loadWeights (s : State) (q : LoadReq) (h : Desc) (key aad body : List Byte) : State × Status × List Byte :=
  let recs := chunks 32 (h.n 20 4) (aad.drop (128 + h.n 16 4 * 1728))
  let mapLen := 16 * h.n 20 4
  match layersOf (s.clusterNos q.pid) (h.n 24 8) recs with
  | none => (s, stBundle, [])
  | some ls =>
    let p := s.placeLayers q.pid ls
    let short := s.shortfall q.pid ls
    let chk := s.reqCheck q.req true q.map mapLen
    if chk ≠ stOk then (s, chk, [])
    else if (h.bits 7 0 1 = 1 ∧ short ≠ 0) ∨ p.missing ≠ 0 then (s, stSizeExceeds, weightBody short p.spilled p.missing)
    else if 256 ≤ (s.part q.pid).bundles.length then (s, stPartConflict, [])
    else
      let ws := p.placed.map (fun e => (e.2.1, e.1.off, e.1.size))
      let (s1, st) := s.placeLoad q.pid (openPayload h key aad body) ws
      if st ≠ stOk then (s1, st, [])
      else
        let (s2, st2) := s1.reqWrite q.req q.map (layerMap (h.n 20 4) p.placed)
        if st2 ≠ stOk then (s2.undoLoad q.pid (ws.map (fun w => (w.1, w.2.2))), st2, [])
        else ((s2.setPart q.pid { s2.part q.pid with weights := p.used, spills := p.spills }).recordBundle q.pid h,
          if short = 0 then stOk else stSpilled, weightBody short p.spilled 0)

/-- A load whose header and label stand: the entry, then by KIND. -/
def State.loadKind (s : State) (q : LoadReq) (h : Desc) (key aad body : List Byte) : State × Status × List Byte :=
  let full : Bool := decide (256 ≤ (s.part q.pid).bundles.length)
  match h.n 6 1 with
  | 1 =>
    let chk := s.ownedRange (rtpAgent q.pid) q.dst (h.n 24 8)
    if chk ≠ stOk then (s, chk, [])
    else if full then (s, stPartConflict, [])
    else
      let (s1, st) := s.placeLoad q.pid (openPayload h key aad body) [(q.dst, 0, h.n 24 8)]
      if st ≠ stOk then (s1, st, []) else (s1.recordBundle q.pid h, stOk, [])
  | 2 => s.loadWeights q h key aad body
  | _ =>
    if full then (s, stPartConflict, [])
    else if 1024 < s.nodesUsed + 2 then (s, stNodeFull, [])
    else
      let (st, pt) := openPayload h key aad body
      if st ≠ stOk then (s, st, []) else ((s.setGraft q.pid pt).recordBundle q.pid h, stOk, [])

/-- A bundle loaded (R340): the checks in order. -/
def State.loadBundle (s : State) (q : LoadReq) : State × Status × List Byte :=
  if q.len < 128 then (s, stBundle, [])
  else
    let (s1, st, h0) := s.reqRead q.req q.src 128
    let h : Desc := h0
    if st ≠ stOk then (s1, st, [])
    else if ¬ bundleOk h q.len ∨ (q.boot ∧ h.n 6 1 ≠ 1) then (s1, stBundle, [])
    else
      let (s2, st2, bs) := s1.reqRead q.req q.src q.len
      let es := chunks 1728 (h.n 16 4) (bs.drop 128)
      if st2 ≠ stOk then (s2, st2, [])
      else if ¬ entriesOk es ∨ (h.drop 80).take 32 ≠ (s2.part q.pid).label then (s2, stBundle, [])
      else match s2.unwrapBundle ((h.drop 8).take 8) es with
        | none => (s2, stKeyDenied, [])
        | some key => s2.loadKind q h key (bs.take (bundleHead h)) (bs.drop (bundleHead h))

/-- The partition that a load is for: the requester's own, or for the host the OPEN partition with the bundle's label
(log 79), which its header names; the status of that header's read. -/
def State.loadTarget (s : State) (r : RtpReq) (src len : Nat) : State × Status × Option (BitVec 5) :=
  if ¬ r.host then (s, stOk, some r.pid)
  else if len < 128 then (s, stOk, none)
  else
    let (s1, st, h) := s.reqRead r src 128
    (s1, st, (s1.parts.find? (fun e => e.2.st = 2 && !e.2.conf && e.2.label = (h.drop 80).take 32)).map
      (fun e => BitVec.ofNat 5 e.1))

/-- What BUNDLE_LOAD comes to for its request. -/
def bodyBundleLoad (r : RtpReq) (q : Desc) (s : State) : RtpOut :=
  let (s0, st0, target) := s.loadTarget r (q.n 16 8) (q.n 24 8)
  if st0 ≠ stOk then .done s0 st0 []
  else match target with
  | none => .done s0 stBundle []
  | some pid =>
    let (s1, st, b) := s0.loadBundle
      { req := r, pid := pid, src := q.n 16 8, len := q.n 24 8, dst := q.n 32 8, map := q.n 40 8, boot := false }
    .done s1 st b

/-- BUNDLE_LOAD (R340, R341). -/
def execBundleLoad (s : State) : Out :=
  .next (rtpRow { row := 0x33, host := true, part := true, alone := false, used := usedBytes 16 32 } bodyBundleLoad s)

end Sys2Proof.Machine
end

