-- ==== Sys2Proof/Machine/Partition.lean ====
section
/-!
DEFINITION. The creation of a partition (R332 to R338), the attestation report (R342, R343), and the open region (R449).
-/

namespace Sys2Proof.Machine

/-! ### What a creation record and the host's staging are read from -/

/-- The check of a byte in the open region or the host window (R334). -/
def State.stagingByte (s : State) (a : Nat) : Status :=
  match s.place 0 a with
  | .hbm l => match s.region (l / 0x200000) with
    | some x => if x.owner.isNone then stOk else stBound
    | none => stBound
  | .host _ => stOk
  | .press _ _ => stBound
  | .drawer _ _ => stBound
  | .segment => stSegment
  | _ => stUnmapped

/-- The check of a staged range. -/
def State.stagingCheck (s : State) (a n : Nat) : Status :=
  (List.range n).foldl (fun st i => joinCheck st (s.stagingByte (a + i))) stOk

/-- A staged range read. -/
def State.stagingRead (s : State) (a n : Nat) : State × Status × List Byte :=
  let st := s.stagingCheck a n
  if st ≠ stOk then (s, st, []) else s.memRead (rtpReader 0) a n

/-! ### The creation record (Table 12.1) -/

/-- TYPE 1: CONFIDENTIAL. -/
def recConf (d : Desc) : Bool := d.bits 0 0 1 = 1

/-- PID of a record. -/
def recPid (d : Desc) : BitVec 5 := BitVec.ofNat 5 (d.n 1 1)

/-- CLUSTERS of a record. -/
def recClusters (d : Desc) : BitVec 32 := BitVec.ofNat 32 (d.n 4 4)

/-- PEERS of a die. -/
def recPeers (d : Desc) (die : Nat) : Nat := d.n (24 + 4 * die) 4

/-- The record's fields and reserved bytes (R335 step 1). -/
def recordOk (d : Desc) : Bool :=
  d.bits 0 2 6 = 0 && (d.bits 0 1 1 = 0 || recConf d) && d.bits 1 5 3 = 0 && d.zero 2 2 && recClusters d ≠ 0 && d.zero 21 3 &&
  (List.range 4).all (fun i => decide (recPeers d i ≤ 1048576)) &&
  (List.range 4).all (fun i => decide (d.n (40 + 2 * i) 2 ≤ 4096)) &&
  3 ≤ d.n 48 2 && d.n 48 2 ≤ 176 && d.n 50 1 ≤ 64 && d.zero 51 1 && (!recConf d || decide (1 ≤ d.n 52 4)) &&
  d.bits 56 2 6 = 0 && d.zero 57 7 && d.zero 82 6 && 1 ≤ d.n 144 4 && d.bits 149 4 4 = 0 && d.bits 150 2 6 = 0 && d.zero 151 1 &&
  d.bits 160 5 3 = 0 && 4 ≤ d.n 160 1 && d.n 160 1 ≤ 16 && d.n 152 8 % 64 = 0 && d.zero 161 7 && d.zero 200 312

/-- A queue allotment entry's fields. -/
def allotOk (q : Desc) : Bool :=
  q.bits 0 2 6 = 0 && q.n 1 1 ≤ 1 && q.bits 2 2 6 = 0 && q.bits 3 1 7 = 0 && q.n 4 2 < 3072 && q.zero 7 1

/-- The control SQ is allotted as KIND 0 on its die, and no die has more than 3,072 entries. -/
def allotsOk (d : Desc) (qs : List Desc) : Bool :=
  qs.all allotOk && qs.any (fun q => q.n 0 1 = d.n 150 1 && q.n 4 2 = d.n 148 2 && q.n 1 1 = 0) &&
  (List.range 4).all (fun i => decide ((qs.filter (fun q => q.n 0 1 = i)).length ≤ 3072))

/-- A partition's own state as its record gives it. -/
def partOf (d : Desc) (pgen : BitVec 24) (pk : List Byte) (journal : Nat) (backing : List (Nat × Nat)) : Part :=
  { Part.reset with
    st := 1, conf := recConf d, rackTrust := d.bits 0 1 1 = 1, pgen := pgen, clusters := recClusters d
    ports := BitVec.ofNat 8 (d.n 20 1), peers := (List.range 4).map (fun i => recPeers d i), backing := backing
    weightMib := d.n 50 1, kmin := BitVec.ofNat 32 (d.n 52 4), mech := BitVec.ofNat 2 (d.n 56 1)
    gauss := (BitVec.ofNat 32 (d.n 64 4), BitVec.ofNat 32 (d.n 68 4)), lap := (BitVec.ofNat 32 (d.n 72 4), BitVec.ofNat 32 (d.n 76 4))
    rpid := BitVec.ofNat 16 (d.n 80 2), trust := BitVec.ofNat 64 (d.n 88 8), label := (d.drop 96).take 32
    pkDigest := Crypto.sha384 pk, recDigest := Crypto.sha384 d, ctrlDie := BitVec.ofNat 2 (d.n 150 1)
    ctrlSq := BitVec.ofNat 12 (d.n 148 2), journal := BitVec.ofNat 64 journal }

/-! ### Resources (R335 step 3) -/

/-- The lowest n key slots of 80 to 255 that are allotted to nobody. -/
def State.freeKeySlots (s : State) (n : Nat) : List (BitVec 8) :=
  (allSlots.filter (fun k => 80 ≤ k.toNat && (s.key k).allot.isNone && (s.key k).st = .empty)).take n

/-- The lowest n seed slots of a die that are allotted to nobody. -/
def State.freeSeeds (s : State) (d n : Nat) : List Nat :=
  ((List.range 4096).filter (fun z => (s.seedSlot d z).pid.isNone)).take n

/-- The peer handles of a die that partitions hold. -/
def State.peersHeld (s : State) (d : Nat) : Nat :=
  (s.parts.map (fun e => if e.2.st ≠ 0 then e.2.peers.getD d 0 else 0)).sum

/-- The allotted queues repeat none, and nobody holds one of them. -/
def State.queuesFree (s : State) (qs : List Desc) : Bool :=
  let ks := qs.map (fun q => (q.n 0 1, q.n 4 2))
  decide ks.Nodup && ks.all (fun k => (s.queue k.1 (BitVec.ofNat 12 k.2)).pid.isNone)

/-- Every named resource but HBM is free and present. -/
def State.resourcesFree (s : State) (d : Desc) (qs : List Desc) : Bool :=
  (s.part (recPid d)).st = 0 &&
  (List.range 32).all (fun c => !(recClusters d).getLsbD c || ((s.physCluster c).isSome && (s.clusterOwner c).isNone)) &&
  (List.range 8).all (fun p => !(BitVec.ofNat 8 (d.n 20 1)).getLsbD p ||
    s.parts.all (fun e => e.2.st = 0 || !e.2.ports.getLsbD p)) &&
  s.queuesFree qs && (s.freeKeySlots (d.n 48 2)).length = d.n 48 2 && s.nodesUsed + 6 ≤ 1024 &&
  (List.range 4).all (fun i => decide (s.peersHeld i + recPeers d i ≤ 1048576) &&
    decide ((s.freeSeeds i (d.n (40 + 2 * i) 2)).length = d.n (40 + 2 * i) 2))

/-- The regions of a record taken: NEAR and backing of each die, then GLOBAL (R336 step 1). The backing regions are
answered with their die. -/
def State.takeRegions (s : State) (d : Desc) : Option (State × List (Nat × Nat)) :=
  let pid := recPid d
  let near := (List.range 4).foldl (fun (r : Option (State × List (Nat × Nat))) i =>
    r.bind (fun x => (x.1.assignMany pid (some (BitVec.ofNat 2 i)) (d.n (8 + 2 * i) 2)).bind (fun t =>
      let n := (recPeers d i + 8191) / 8192
      let rs := t.freeRegions n
      (t.assignMany pid (some (BitVec.ofNat 2 i)) n).map (fun u => (u, x.2 ++ rs.map (fun k => (i, k))))))) (some (s, []))
  near.bind (fun x => (x.1.assignMany pid none (d.n 16 4)).map (fun u => (u, x.2)))

/-- The cells that a record's queues take on a die, the bound control SQ among them (R278). -/
def State.cellsNeeded (s : State) (d : Desc) (qs : List Desc) (die : Nat) : Nat :=
  ((qs.filter (fun q => q.n 0 1 = die)).map (fun q =>
    let kind : BitVec 3 := if q.n 4 2 = d.n 148 2 ∧ die = d.n 150 1 then 2 else BitVec.ofNat 3 (q.n 1 1)
    s.cellsOf (recPid d) die kind (q.bits 3 0 1 = 1) (BitVec.ofNat 8 (q.n 6 1)))).sum

/-! ### Building (R336) -/

/-- A list of bytes taken off in order. -/
def cut (bs : List Byte) (off n : Nat) : List Byte := (bs.drop off).take n

/-- Key slots and seed slots allotted. -/
def State.allot (s : State) (d : Desc) : State :=
  let pid := recPid d
  let s1 := (s.freeKeySlots (d.n 48 2)).foldl (fun (t : State) k => t.setKey k { t.key k with allot := some pid }) s
  (List.range 4).foldl (fun (t : State) i =>
    (t.freeSeeds i (d.n (40 + 2 * i) 2)).foldl (fun (u : State) z => u.setSeedSlot i z { SeedSlot.reset with pid := some pid }) t) s1

/-- The memory key and the MAC key (R336 step 2). -/
def State.memoryKeys (s : State) (pid : BitVec 5) (rnd : List Byte) : State :=
  let a := { KeySlot.reset with origin := 3, mask := 1, pid := pid, pgen := (s.part pid).pgen }
  let n : BitVec 8 := BitVec.ofNat 8 (16 + 2 * pid.toNat)
  (s.fillSlot n a (cut rnd 0 32)).fillSlot (n + 1) a (cut rnd 32 32)

/-- Every generator of a partition keyed (R336 step 3), with 48 bytes each: those of its clusters' NSUs, then those of its
cores. -/
def State.keyGenerators (s : State) (pid : BitVec 5) (rnd : List Byte) : State :=
  let cs := s.clusterNos pid
  let s1 := cs.zipIdx.foldl (fun (t : State) e =>
    t.setCluster e.1 { t.cluster e.1 with nsuKey := some (cut rnd (48 * e.2) 48), drawn := 0, drawPos := 0 }) s
  (s1.coreNos pid).zipIdx.foldl (fun (t : State) e =>
    t.setCore e.1 { t.core e.1 with srKey := some (cut rnd (48 * (cs.length + e.2)) 48), srPos := 0 }) s1

/-- A partition node made at the lowest free number, with its number. -/
def State.addNode (s : State) (pid : BitVec 5) (x : Node) : State × Nat :=
  let n := s.freeNode
  (s.setNode n (some { x with owner := some pid, pgen := (s.part pid).pgen }), n)

/-- The owner and challenge-response nodes, and their keys in the three lowest allotted slots (R336 step 4). -/
def State.ownerKeys (s : State) (pid : BitVec 5) : State :=
  let label := (s.part pid).label
  let (s1, a) := s.addNode pid (devNode none 3 1 "W880 OWNER" [] 256)
  let (s2, b) := s1.addNode pid { devNode (some a) 3 2 "" [] 256 with label := label }
  let (s3, c) := s2.addNode pid (devNode (some b) 3 3 "W880 OWN SEAL" [] 256)
  let (s4, d) := s3.addNode pid (devNode (some b) 3 3 "W880 OWN TOKEN" [] 256)
  let (s5, e) := s4.addNode pid (devNode none 4 1 "W880 CHALRESP" [] 256)
  let (s6, f) := s5.addNode pid { devNode (some e) 4 2 "" [] 256 with label := label }
  let s7 := s6.setPart pid { s6.part pid with ownNode := BitVec.ofNat 10 b, chalNode := BitVec.ofNat 10 f }
  match s7.emptySlots pid 3 with
  | [x, y, z] => ((s7.slotFromNode x c 0x10).slotFromNode y d 0x100).slotFromNode z f 0x40
  | _ => s7

/-- The queues of the list, the control SQ bound to its CQ at the lowest free ring number (R336 step 5, log 80). -/
def State.buildQueues (s : State) (d : Desc) (qs : List Desc) : State :=
  let pid := recPid d
  let cd := d.n 150 1
  let cq : BitVec 12 := BitVec.ofNat 12 (d.n 148 2)
  let s1 := (List.range 4).foldl (fun (t : State) i =>
    t.wrN (dresserPage i) 0x100 (t.rdN (dresserPage i) 0x100 - t.cellsNeeded d qs i)) s
  let s2 := qs.foldl (fun (t : State) q =>
    t.setQueue (q.n 0 1) (BitVec.ofNat 12 (q.n 4 2)) { DQueue.reset with
      pid := some pid, kind := BitVec.ofNat 3 (q.n 1 1), cls := BitVec.ofNat 2 (q.n 2 1), hostPost := q.bits 3 0 1 = 1
      grant := BitVec.ofNat 8 (q.n 6 1) }) s1
  let n := leastFree ((s2.mit cd).rings.map (fun e => e.1))
  let ring : Ring := { pid := pid, isAeq := false, base := d.n 152 8, log2n := d.n 160 1,
                       hdr := d.n 152 8 + 32 * 2 ^ d.n 160 1, written := 0, waiting := [] }
  let m : MQueue := { pid := pid, isRq := false, cq := BitVec.ofNat 10 n, cls := 0, grantMax := 1, records := 0, bufs := [],
                      grants := 0, list := [], hold := none }
  ((s2.setQueue cd cq { s2.queue cd cq with kind := 2 }).setRing cd n (some ring)).setMq cd cq (some m)

/-- The transport key and the owner KEM record (R337): the partition's part in them, and the record's bytes. -/
def State.ownerKem (s : State) (pid : BitVec 5) (pk rnd : List Byte) : State × List Byte :=
  let (ct, ssK) := Config.mlkemEncaps (cut pk 0 1568) (cut rnd 0 32)
  let e := p384Scalar (cut rnd 32 48)
  let ssE := Config.ecdhX e (cut pk 1568 97)
  let p := s.part pid
  let kt := Crypto.kmac256 (Crypto.padTo 32 ssK ++ Crypto.padTo 48 ssE) (s.id8 ++ Crypto.beBytes 3 p.pgen.toNat)
    (Crypto.ascii "W880 OWNER TRANSPORT") 32
  let rec' := Crypto.padTo 1568 ct ++ Crypto.padTo 97 (Config.p384Public e) ++ List.replicate 7 0
  (s.setPart pid { p with kt := kt, kemDigest := Crypto.sha384 rec' }, rec')

/-- Thread 0 of the lowest logical core of a partition starts (R336 step 8). -/
def State.startBoot (s : State) (pid : BitVec 5) (pc : Nat) : State :=
  match (s.coreNos pid).find? (fun k => (s.physCore k).isSome) with
  | none => s
  | some k => s.setThread { core := BitVec.ofNat 9 k, thr := 0 } { Thread.reset with st := .ready, pc := BitVec.ofNat 64 pc }

/-- Everything that a failed creation took is free again; its regions are scrubbed (R335). -/
def State.dropCreation (s : State) (pid : BitVec 5) : State :=
  let s1 := s.destroyKeys pid
  let rs := s1.regionsOf pid
  let s2 := if rs.isEmpty then s1 else s1.startScrub rs none
  s2.releasePart pid

/-- The bytes of Seedbed output for the generators of a creation: 48 for each NSU and each core (Table 13.1). -/
def generatorDraw (d : Desc) : Nat := ((List.range 32).filter (fun c => (recClusters d).getLsbD c)).length * (48 + 16 * 48)

/-- What a creation has of Seedbed: the randomness of the encapsulation, the session keys, and the generators' seeds. -/
structure CreateRandom where
  coins : List Byte
  keys  : List Byte
  seeds : List Byte

/-- The Seedbed output of a creation (R335 step 5, Table 13.1, log 80): the status, none while the encapsulation's bytes are
waited for. -/
def State.createRandom (s : State) (d : Desc) : State × Option (Status × CreateRandom) :=
  let (s1, r) := if recConf d then s.drawRtp 80 else (s, some (stOk, []))
  (r.map (fun (c : Status × List Byte) =>
    if c.1 ≠ stOk then (s1, some (c.1, CreateRandom.mk [] [] []))
    else
      let (s2, st2, k) := s1.drawInternal 4 64
      if st2 ≠ stOk then (s2, some (st2, CreateRandom.mk [] [] []))
      else
        let (s3, st3, g) := s2.drawInternal 3 (generatorDraw d)
        (s3, some (st3, CreateRandom.mk c.2 k g)))).getD (s1, none)

/-- PART_CREATE after its record, its queue list and its owner key have been read. -/
def State.create (s : State) (r : RtpReq) (d : Desc) (qs : List Desc) (pk : List Byte) (kem : Nat) : RtpOut :=
  let pid := recPid d
  let next := s.rdN partPage 0x118
  if ¬ (recordOk d && allotsOk d qs) then .done s stPartInvalid []
  else if recConf d ∧ (s.rtp.testOpen ∨ s.rawOn) then .done s stDebug []
  else if ¬ s.resourcesFree d qs then .done s stPartConflict []
  else match s.takeRegions d with
    | none => .done s stPartConflict []
    | some (t, backing) =>
      let s1 := t.setPart pid (partOf d (BitVec.ofNat 24 next) pk s.journalNow.2 backing)
      let ring := d.n 152 8
      if s1.ownedRange (rtpAgent pid) ring (32 * 2 ^ d.n 160 1 + 16) ≠ stOk then .done s stPartInvalid []
      else if (List.range 4).any (fun i => decide (s1.rdN (dresserPage i) 0x100 < s1.cellsNeeded d qs i)) then .done s stPool []
      else
        let (sd, res) := s1.createRandom d
        let refused := (s.createRandom d).1
        match res with
        | none => .wait refused
        | some (st, rnd) =>
        if st ≠ stOk then .done refused st []
        else if 0xFFFFFF ≤ next then .done refused stSession []
        else
          let s2 := ((((sd.partReset pid).wrN partPage 0x118 (next + 1)).allot d).memoryKeys pid rnd.keys).keyGenerators pid
            rnd.seeds
          let s3 := ((s2.ownerKeys pid).buildQueues d qs).setOwners pid (ownerWord pid (recConf d))
          let (s4, st4, _) := s3.loadBundle
            { req := r, pid := pid, src := d.n 168 8, len := d.n 176 8, dst := d.n 184 8, map := 0, boot := true }
          if st4 ≠ stOk then .done (s4.dropCreation pid) st4 []
          else
            let (s5, rec') := if recConf d then s4.ownerKem pid pk rnd.coins else (s4, [])
            let (s6, st6) := if recConf d then s5.rawWrite kem rec' else (s5, stOk)
            if st6 ≠ stOk then .done (s6.dropCreation pid) st6 []
            else
              let s7 := (s6.setPart pid { s6.part pid with st := 2 }).startBoot pid (d.n 192 8)
              .done s7 stOk (Crypto.leBytes 4 next)

/-- PART_CREATE (R334 to R337). -/
def bodyCreate (r : RtpReq) (q : Desc) (s : State) : RtpOut :=
  let kem := q.n 24 8
  let (s1, st, d0) := s.stagingRead (q.n 16 8) 512
  let d : Desc := d0
  if st ≠ stOk then .done s1 st []
  else
    let n := d.n 144 4
    if ¬ recordOk d then .done s1 stPartInvalid []
    else
      let (s2, st2, qb) := s1.stagingRead (d.n 136 8) (8 * min n 12289)
      let (s3, st3, pk) := s2.stagingRead (d.n 128 8) 1665
      let st4 := if recConf d then (if kem % 64 ≠ 0 then stPartInvalid else s3.stagingCheck kem 1672) else stOk
      let st5 := if st2 ≠ stOk then st2 else if st3 ≠ stOk then st3 else st4
      if st5 ≠ stOk then .done s3 st5 [] else s3.create r d (chunks 8 (min n 12289) qb) pk kem

/-- PART_CREATE (R334). -/
def execPartCreate (s : State) : Out :=
  .next (rtpRow { row := 0x30, host := true, part := false, alone := false, used := usedBytes 16 16 } bodyCreate s)

/-! ### ATTEST (R342, R343) -/

/-- The version of the firmware that booted. -/
def State.fwVersion (s : State) : BitVec 32 := s.rd escPage 0x110

/-- The digest of the booted RTP firmware, or of its engine firmware. -/
def State.fwDigest (s : State) (engine : Bool) : List Byte :=
  (List.range 48).map (fun i => Config.firmwareDigest engine s.fwVersion i)

/-- The digest of the ROM. -/
def romDigest : List Byte := (List.range 48).map Config.romDigest

/-- What a map of clusters changes from the identity. -/
def changed (m : Sparse (Option Nat)) (n : Nat) : Nat :=
  (m.filter (fun e => match e.2 with
    | some i => i ≠ e.1 % n
    | none => false)).length

/-- Cores remapped, clusters, lanes, sources, PLLs and sensors spared (Table 17.5, USED). -/
def State.spareUse (s : State) : Nat × Nat × Nat × Nat × Nat × Nat :=
  (s.spares.coresUsed, changed s.spares.clusterMap 8, s.spares.lanes.length,
   ones10 (s.spares.sources &&& 0x300), s.spares.standby.length, s.spares.sensors.length)

/-- HBM pages retired. -/
def State.pagesRetired (s : State) : Nat := (s.hbm.map (fun e => e.2.retired.length)).sum

/-- SPARES of a report. -/
def State.spareBytes (s : State) : List Byte :=
  let (a, b, c, d, e, f) := s.spareUse
  Crypto.leBytes 2 a ++ Crypto.leBytes 1 b ++ Crypto.leBytes 1 c ++ Crypto.leBytes 1 d ++ Crypto.leBytes 1 e ++
  Crypto.leBytes 2 s.pagesRetired ++ Crypto.leBytes 1 f ++ List.replicate 7 0

/-- The identity and attestation keys: the seed of an ML-DSA-65 slot, the scalar of a P-384 slot. -/
def State.seedOf (s : State) (n : BitVec 8) : List Byte := (s.key n).bytesOf (s.key n).key
def State.scalarOf (s : State) (n : BitVec 8) : Nat := p384Scalar (s.seedOf n)

/-- The public keys of a pair of slots. -/
def State.publicOf (s : State) (a b : BitVec 8) : List Byte :=
  Crypto.padTo 1952 (Config.mldsaPublic (s.seedOf a)) ++ Crypto.padTo 97 (Config.p384Public (s.scalarOf b))

/-- Both signatures of a message under a pair of slots, with 80 random bytes. -/
def State.signBoth (s : State) (a b : BitVec 8) (rnd m : List Byte) : List Byte :=
  Crypto.padTo 3312 (Crypto.padTo 3309 (Config.mldsaSign (s.seedOf a) (cut rnd 0 32) m)) ++
  Crypto.padTo 96 (Config.ecdsaSign (s.scalarOf b) (cut rnd 32 48) m)

/-- Bytes 272 to 447 of a partition report (Table 12.3), and 504 on where they are the partition's. -/
def partBytes (p : Part) (pid : BitVec 5) (debug health : Nat) : List Byte :=
  [pid.zeroExtend 8] ++ Crypto.beBytes 3 p.pgen.toNat ++
  [BitVec.ofNat 8 ((if p.conf then 1 else 0) + if p.rackTrust then 2 else 0), BitVec.ofNat 8 debug, BitVec.ofNat 8 health, 0] ++
  Crypto.leBytes 4 p.clusters.toNat ++ Crypto.leBytes 4 p.kmin.toNat ++ Crypto.leBytes 4 p.mech.toNat ++
  Crypto.leBytes 4 p.gauss.1.toNat ++ Crypto.leBytes 4 p.gauss.2.toNat ++ Crypto.leBytes 4 p.lap.1.toNat ++
  Crypto.leBytes 4 p.lap.2.toNat ++ Crypto.leBytes 4 p.rpid.toNat ++ Crypto.leBytes 8 p.trust.toNat ++
  Crypto.padTo 32 p.label ++ Crypto.padTo 48 p.pkDigest ++ Crypto.padTo 48 p.recDigest

/-- The bundle list of a report. -/
def bundleList (bs : List BundleRec) : List Byte :=
  bs.zipIdx.flatMap (fun e => [e.1.kind, e.1.flags] ++ Crypto.leBytes 2 e.2 ++ Crypto.leBytes 4 0 ++
    Crypto.padTo 8 e.1.id ++ Crypto.padTo 48 e.1.digest)

/-- The report (Table 12.3), with the 160 random bytes of its four signatures. -/
def State.report (s : State) (rnd nonce : List Byte) (device : Bool) (pid : BitVec 5) : List Byte :=
  let p := s.part pid
  let bundles := if device then [] else bundleList p.bundles
  let signed := 1024 + bundles.length + 5464
  let (jh, jc) := s.journalNow
  let head := Crypto.ascii "W8AR" ++ Crypto.leBytes 4 1 ++ Crypto.leBytes 4 (signed + 3408) ++ Crypto.leBytes 4 signed ++
    Crypto.padTo 32 nonce ++ Crypto.leBytes 8 s.time.toNat ++ s.id8 ++ (List.range 16).map Config.serialByte ++
    Crypto.sha384 (s.publicOf 3 4) ++ romDigest ++ s.fwDigest false ++ s.fwDigest true
  let mid := if device then [(0x80 : Byte)] ++ List.replicate 175 0 else partBytes p pid s.debugState s.seedHealth
  let tail := Crypto.padTo 48 jh ++ Crypto.leBytes 8 jc ++ (if device then List.replicate 8 0 else Crypto.leBytes 8 p.journal.toNat) ++
    s.spareBytes ++ Crypto.leBytes 1 (s.fld bramPage 0x118 0 4) ++ Crypto.leBytes 1 (s.fld bramPage 0x118 8 1) ++ Crypto.leBytes 2 0 ++
    (if device then [] else Crypto.leBytes 4 p.bundles.length ++ Crypto.padTo 48 p.kemDigest)
  let ak := s.publicOf 5 6 ++ List.replicate 7 0
  let body := Crypto.padTo 1024 (head ++ mid ++ tail) ++ bundles ++ ak ++ s.signBoth 3 4 (cut rnd 0 80) ak
  body ++ s.signBoth 5 6 (cut rnd 80 80) body

/-- The body of ATTEST. -/
def attestUsed (i : Nat) : Nat := if i = 24 then 0x9F else usedBytes 16 8 i + usedBytes 32 32 i

/-- What ATTEST comes to for its request. -/
def bodyAttest (r : RtpReq) (q : Desc) (s : State) : RtpOut :=
  let device : Bool := q.bits 24 7 1 = 1
  let pid : BitVec 5 := BitVec.ofNat 5 (q.n 24 1)
  if ¬ r.host ∧ (device ∨ pid ≠ r.pid) then .done s stMbox []
  else if ¬ device ∧ (s.part pid).st = 0 then .done s stPartState []
  else
    let text := fun (t : State) (rnd : List Byte) => t.report rnd ((q.drop 32).take 32) device pid
    let chk := s.reqCheck r true (q.n 16 8) (text s []).length
    if chk ≠ stOk then .done s chk []
    else match s.drawRtp 160 with
    | (t, none) => .wait t
    | (t, some (st, rnd)) =>
      if st ≠ stOk then .done t st []
      else
        let (s1, st1) := t.reqWrite r (q.n 16 8) (text t rnd)
        .done s1 st1 []

/-- ATTEST (R342): a partition asks for its own report only; the host for any of a partition that is not FREE (log 81). -/
def execAttest (s : State) : Out :=
  .next (rtpRow { row := 0x35, host := true, part := true, alone := true, used := attestUsed } bodyAttest s)

/-! ### OPEN_REGION (R449) -/

/-- The body of OPEN_REGION. -/
def openUsed (i : Nat) : Nat := if i = 16 ∨ i = 17 then 1 else if i = 18 then 3 else usedBytes 20 8 i

/-- What OPEN_REGION comes to for its request. -/
def bodyOpenRegion (_r : RtpReq) (q : Desc) (s : State) : RtpOut :=
  let first := q.n 20 4
  let n := q.n 24 4
  let near : Option (BitVec 2) := if q.n 17 1 = 1 then some (BitVec.ofNat 2 (q.n 18 1)) else none
  if 245760 < first + n then .done s stPartConflict []
  else
    let rs := (List.range n).map (fun i => first + i)
    if q.n 16 1 = 0 then
      match rs.foldl (fun (t : Option State) k => t.bind (fun u => u.assignRegion k none near)) (some s) with
      | some t => .done t stOk []
      | none => .done s stPartConflict []
    else if ¬ rs.all (fun k => match s.region k with
        | some x => x.owner.isNone
        | none => false) then .done s stPartConflict []
    else .done (if rs.isEmpty then s else s.startScrub rs none) stOk []

/-- OPEN_REGION. -/
def execOpenRegion (s : State) : Out :=
  .next (rtpRow { row := 0x38, host := true, part := false, alone := false, used := openUsed } bodyOpenRegion s)

end Sys2Proof.Machine
end

