-- ==== Sys2Proof/Machine/Trim.lean ====
section
/-!
DEFINITION. The Journal's queue and its absorption (R424 to R427), and the Trim store: images, banks, the load of trim
windows, TRIM_READ and TRIM_WRITE (R428 to R431).
-/

namespace Sys2Proof.Machine

/-! ### The Journal (R425 to R427) -/

/-- Entries that wait. -/
def State.journalLevel (s : State) : Nat := s.journal.queue.length

/-- Entry n: a page's address less REGBASE, offset, byte enables and value. -/
def journalEntry (page off be value n : Nat) : List Byte :=
  Crypto.leBytes 4 page ++ Crypto.leBytes 2 off ++ Crypto.leBytes 1 be ++ [0] ++ Crypto.leBytes 4 value ++ Crypto.leBytes 4 (n % 2 ^ 32)

/-- An entry queued; it takes the next number. -/
def State.journalPush (s : State) (page off value : Nat) : State :=
  let n := s.journal.accepted + 1
  { s with journal := { s.journal with queue := s.journal.queue ++ [journalEntry page off 0xF value n], accepted := n } }

/-- HASH and COUNT copied together (R427). -/
def State.journalCopy (s : State) : State :=
  (s.putPage journalPage 0x180 (s.pageBytes journalPage 0x100 12)).wr64 journalPage 0x1B0 (s.rd64 journalPage 0x130)

/-- A write of CAPTURE.GO (R427): at once, or behind the entries queued before it. -/
def State.journalCapture (s : State) : State :=
  if s.journal.queue.isEmpty then s.journalCopy
  else { s with journal := { s.journal with captures := s.journal.captures ++ [s.journal.accepted] } }

/-- The captures whose entries have all been absorbed run (R427). -/
def State.runCaptures (s : State) : State :=
  let due := fun n => decide (n ≤ s.rd64 journalPage 0x130)
  if s.journal.captures.any due then
    { s.journalCopy with journal := { s.journal with captures := s.journal.captures.filter (fun n => !due n) } }
  else s

/-- The oldest entry extends the hash (R425). -/
def State.absorb (s : State) : State :=
  match s.journal.queue with
  | [] => s
  | e :: rest =>
    let h := Crypto.sha384 (s.pageBytes journalPage 0x100 12 ++ e)
    (({ s with journal := { s.journal with queue := rest } }.putPage journalPage 0x100 h).bump64 journalPage 0x130 1).runCaptures

/-! ### Images (R428) -/

/-- The TRIM page. -/
abbrev trimPage : Page := .dieE tyTrim

/-- The length of an image. -/
def trimLen (d : Desc) : Nat := 128 + 8 * d.n 12 4

/-- An image is valid: MAGIC, VERSION, COUNT, SERIAL, its reserved bytes (R5) and digest. -/
def trimValid (bs : List Byte) : Bool :=
  let d : Desc := bs
  bs.take 4 = Crypto.ascii "TRIM" && d.n 4 2 = 1 && 1 ≤ d.n 12 4 && d.n 12 4 ≤ 65520 &&
  (bs.drop 16).take 16 = (List.range 16).map Config.serialByte && bs.length = trimLen d &&
  d.zero 6 2 && d.zero 80 48 &&
  Crypto.sha384 (bs.drop 128) = (bs.drop 32).take 48

/-- SEQ of an image. -/
def trimSeq (bs : List Byte) : Nat := Desc.n bs 8 4

/-- A bank's image, where it is valid. -/
def validBank (b : Option (List Byte)) : Option (List Byte) := b.filter trimValid

/-- The current set: the bank and its image. -/
def State.trimCurrent (s : State) : Option (Nat × List Byte) :=
  match validBank s.flash.trim0, validBank s.flash.trim1 with
  | some a, some b => if trimSeq a < trimSeq b then some (1, b) else some (0, a)
  | some a, none => some (0, a)
  | none, some b => some (1, b)
  | none, none => none

/-! ### Loading (R429) -/

/-- The records of an image: offset from REGBASE, and value. -/
def trimRecords (bs : List Byte) : List (Nat × Nat) :=
  (chunks 8 (Desc.n bs 12 4) (bs.drop 128)).map (fun r => (Desc.n r 0 4, Desc.n r 4 4))

/-- The page and offset of a record that can be loaded. -/
def trimTarget (a : Nat) : Option (Page × Nat) :=
  match pageAt (a / 4096) with
  | some p => if a % 4 = 0 ∧ 0xC00 ≤ a % 4096 ∧ Config.capTrim p.type then some (p, a % 4096) else none
  | none => none

/-- The records written in order, those for which a test holds. -/
def State.trimWriteAll (s : State) (which : Page → Bool) (rs : List (Nat × Nat)) : State :=
  rs.foldl (fun (t : State) r => match trimTarget r.1 with
    | some (p, off) => if which p then t.wrN p off r.2 else t
    | none => t) s

/-- What STATUS.BANK, SEQ and DIGEST show of the current set; DEFAULTS stays as the boot left it (Table 16.7). -/
def State.trimShow (s : State) (loaded : Bool) : State :=
  match s.trimCurrent with
  | none => s
  | some (b, img) =>
    (((s.wrN trimPage 0x100 (b * 16 + s.fld trimPage 0x100 1 1 * 2 + if loaded then 1 else 0)).wrN trimPage 0x104 (trimSeq img)).putPage trimPage 0x110
      ((img.drop 32).take 48))

/-- The current set loaded (R429): at boot and at SLEEP exit; DEFAULTS where no bank is valid. -/
def State.trimLoad (s : State) : State :=
  match s.trimCurrent with
  | none => (s.wrN trimPage 0x100 2).raise trimPage 0
  | some (_, img) =>
    let rs := trimRecords img
    let bad := (rs.filter (fun r => (trimTarget r.1).isNone)).length
    (((s.trimWriteAll (fun _ => true) rs).wrN trimPage 0x108 (rs.length - bad)).wrN trimPage 0x10C bad).trimShow true

/-- A page's trim window rewritten from the current set (R419). -/
def State.trimReload (s : State) (p : Page) : State :=
  match s.trimCurrent with
  | none => s
  | some (_, img) => s.trimWriteAll (fun q => q = p) (trimRecords img)

/-! ### The commands (R431) -/

/-- What TRIM_READ comes to for its request. -/
def bodyTrimRead (r : RtpReq) (q : Desc) (s : State) : RtpOut :=
  match s.trimCurrent with
  | none => .done s stTrim []
  | some (_, img) =>
    let (s1, st) := s.reqWrite r (q.n 16 8) img
    .done s1 st []

/-- TRIM_READ: the current image copied; TRIM_INVALID where there is none (log 82). -/
def execTrimRead (s : State) : Out :=
  .next (rtpRow { row := 0x40, host := true, part := false, alone := true, used := usedBytes 16 8 } bodyTrimRead s)

/-- TRIM_WRITE: the image checked, programmed into the other bank, the replaced bank erased, the digest journalled; it
waits while the Journal's queue is full or register writes wait for it (R426). -/
def bodyTrimWrite (r : RtpReq) (q : Desc) (s : State) : RtpOut :=
  let src := q.n 16 8
  let (s1, st, h0) := s.reqRead r src 128
  let h : Desc := h0
  if st ≠ stOk then .done s1 st []
  else if h.n 12 4 = 0 ∨ 65520 < h.n 12 4 then .done s1 stTrim []
  else
    let (s2, st2, img) := s1.reqRead r src (trimLen h)
    let cur := s2.trimCurrent
    let old : Bool := match cur with
      | some (_, c) => decide (trimSeq img ≤ trimSeq c)
      | none => false
    let s3 := { s2 with fresh := s2.fresh + 1 }
    if st2 ≠ stOk then .done s2 st2 []
    else if ¬ trimValid img ∨ old then .done s2 stTrim []
    else if 64 ≤ s2.journalLevel ∨ ¬ s2.journal.writes.isEmpty then .wait s
    else if Config.flashFails s2.fresh then .done s3 stTrimFlash []
    else
      let bank := match cur with
        | some (b, _) => 1 - b
        | none => 0
      let s4 := { s3 with flash := { s3.flash with
        trim0 := if bank = 0 then some img else none, trim1 := if bank = 0 then none else some img } }
      .done (((s4.journalPush 0x7000 0xFFC (h.n 32 4)).trimShow false).raise trimPage 1) stOk []

/-- TRIM_WRITE (R431). -/
def execTrimWrite (s : State) : Out :=
  .next (rtpRow { row := 0x41, host := true, part := false, alone := true, used := usedBytes 16 8 } bodyTrimWrite s)

end Sys2Proof.Machine
end

