-- ==== Sys2Proof/Machine/Power.lean ====
section
/-!
DEFINITION. Power states (R394 to R402): DOZE and SLEEP, what SLEEP loses and keeps, and the return from it; and the
Ledger's epochs (R404 to R408).
-/

namespace Sys2Proof.Machine

/-! ### What forbids a transition (R395, R397) -/

/-- No engine, DMA, NSU or router command is queued or running. -/
def State.enginesIdle (s : State) : Bool :=
  s.cores.all (fun e => e.2.mxeQ.isEmpty && e.2.rgeQ.isEmpty && e.2.mkxQ.isEmpty && e.2.dmaQ.isEmpty) &&
  s.clusters.all (fun e => e.2.nsuQ.isEmpty && e.2.nsuRun.isNone && e.2.rtrQ.isEmpty && e.2.rtrRun.isNone)

/-- A peer context is pinned (R243). -/
def State.anyPinned (s : State) : Bool :=
  s.dies.any (fun e => e.2.mitre.peers.any (fun x => (x.2.map Peer.pinned).getD false))

/-- A condition of R395 holds. -/
def State.dozeBlocked (s : State) : Bool :=
  s.threads.any (fun e => e.2.st = .ready || e.2.st = .draining) || !s.enginesIdle || decide (s.pqDepth ≠ 0) ||
  s.anyPinned || !s.scrubs.isEmpty || s.parts.any (fun e => e.2.st ≠ 0 && e.2.st ≠ 2)

/-- A condition of R397 holds. -/
def State.sleepBlocked (s : State) : Bool :=
  s.dozeBlocked || s.threads.any (fun e => e.2.st ≠ .idle) ||
  s.dies.any (fun e => e.2.queues.any (fun q => !q.2.entries.isEmpty))

/-! ### SLEEP (R397, R398, R402) -/

/-- The register words of the compute dies that die-E retention keeps: the configuration of MITRE, ETH_PORT, DRESSER and
JOIST pages with their header settings, the free cells of the kept queue configurations, and the pool that the page map
leaves (log 84). -/
def retainedOff (ty off : Nat) : Bool :=
  let hdr : Bool := off = 0x008 || off = 0x014 || off = 0x020
  if ty = tyMitre then hdr || (0x100 ≤ off && off < 0x110)
  else if ty = tyEth then hdr || (0x108 ≤ off && off < 0x160)
  else if ty = tyDresser then hdr || off = 0x100 || off = 0x104 || off = 0x108 || off = 0x120
  else if ty = tyJoist then hdr || off = 0x100 || off = 0x104 || off = 0x110
  else ty = tyHbmc && off = 0x110

/-- A register word is kept through SLEEP. -/
def retainedKey (key : Nat) : Bool :=
  match pageAt (key / 1024) with
  | some (.dieE _) => true
  | some (.die _ ty _) => retainedOff ty (key % 1024 * 4)
  | _ => false

/-- A peer context through SLEEP: an overlap window is closed (R402). -/
def Peer.sleep (p : Peer) : Peer := { p with oldRx := none }

/-- A compute die through SLEEP: seed contents, context cache, links and transfers go; configuration stays. -/
def DieSt.sleep (x : DieSt) : DieSt :=
  { x with
    seeds := x.seeds.map (fun e => (e.1, { SeedSlot.reset with pid := e.2.pid }))
    queues := x.queues.map (fun e => (e.1, { e.2 with waiters := [] }))
    mitre := { x.mitre with peers := x.mitre.peers.map (fun e => (e.1, e.2.map Peer.sleep)), cache := [], miss := [],
                            waiting := [] }
    links := x.links.map (fun e => (e.1, { JLink.reset with spare := e.2.spare }))
    pend := [], vcHeld := [], nextTag := 0, c3 := [], c3Wait := [] }

/-- The whole spares record written: maps, in-service sets, worn marks, counters and page maps (R433). -/
def State.saveSpares (s : State) : State :=
  s.saveRecord s.spares.ce s.spares.retry s.spares.hot

/-- Cached contexts of a die written back (R397). -/
def State.writeBackAll (s : State) (d : Nat) : State := (s.mit d).cache.foldl (fun (t : State) h => t.writeBack h) s

/-- A PMBus command to the regulator of VCORE_d, at address 0x40 + d (R462). -/
def State.pmbus (s : State) (d : Nat) (c : PmCmd) : State := s.emit (.pmbus (BitVec.ofNat 7 (0x40 + d)) c)

/-- The regulator of a die as it is set. -/
def State.setRail (s : State) (d : Nat) (x : Rail) : State :=
  { s with rails := sput (fun _ => ({ on := false, point := 0 } : Rail)) s.rails d x }

/-- A die's regulator turned on (R462): its set point from the Trim store, which changes only while the die is unpowered, then
OPERATION, then STATUS_WORD until power is good. -/
def State.powerOn (s : State) (d : Nat) : State :=
  if s.railOn d then s
  else
    let v := Config.setPoint (s.trimCurrent.map (fun x => x.2)) d
    (((s.pmbus d (.voutCommand v)).pmbus d (.operation true)).pmbus d .readStatusWord).setRail d { on := true, point := v }

/-- A die's regulator turned off by OPERATION; its set point stays. -/
def State.powerOff (s : State) (d : Nat) : State :=
  (s.pmbus d (.operation false)).setRail d
    { sget (fun _ => ({ on := false, point := 0 } : Rail)) s.rails d with on := false }

/-- Power leaves or returns to every compute die (R462). -/
def State.regulators (s : State) (on : Bool) : State :=
  (List.range 4).foldl (fun (t : State) d => if on then t.powerOn d else t.powerOff d) s

/-- The owners of every page as the partitions stand. -/
def State.restoreOwners (s : State) : State :=
  s.parts.foldl (fun (t : State) e =>
    if e.2.st = 0 then t else t.setOwners (BitVec.ofNat 5 e.1) (ownerWord (BitVec.ofNat 5 e.1) e.2.conf)) s

/-- Every core as after a reset at an ENG cycle. -/
def freshCores (eng : Nat) : Sparse CoreSt :=
  if eng = 0 then [] else (List.range 512).map (fun k => (k, { CoreSt.reset with cycleBase := eng }))

/-- The slot of a peer's old RX key in an open window of R266, unless a peer still uses that slot. -/
def State.oldRxSlots (s : State) : List (BitVec 8) :=
  let ps := s.handles.filterMap (fun h => s.peer h)
  (ps.filterMap (fun p => p.oldRx.map (fun x => x.1))).filter (fun n => !ps.any (fun p => p.rxSlot = n || p.txSlot = n))

/-- Entry into SLEEP (R397, R398, R402). -/
def State.enterSleep (s : State) : State :=
  let s1 := (List.range 4).foldl (fun (t : State) d => t.writeBackAll d) s
  let s2 := s1.oldRxSlots.foldl (fun (t : State) n => t.emptySlot n)
    ((s1.keys.map (fun e => e.1)).foldl (fun (t : State) n => t.endWindow (BitVec.ofNat 8 n)) s1)
  let s3 := s2.saveSpares
  let s4 := { s3 with
    regs := s3.regs.filter (fun e => retainedKey e.1)
    mem := s3.mem.filter (fun e => e.1 < 0x8000000000), badLines := []
    threads := [], cores := freshCores s.eng, clusters := []
    dies := s3.dies.map (fun (e : Nat × DieSt) => (e.1, e.2.sleep)) }
  let s5 := (List.range 4).foldl (fun (t : State) d => t.peerReset (endDie d) 4) s4.restoreOwners
  ((s5.setFld clocksPage 0x11C 0 2 2).setFld clocksPage 0x11C 5 1 0).regulators false

/-- The bytes that new keys of every generator of the partitions take from Seedbed (R47, R168). -/
def State.rekeyBytes (s : State) : Nat :=
  (s.parts.map (fun e => if e.2.st = 0 then 0 else s.clustersOf (BitVec.ofNat 5 e.1) * (48 + 16 * 48))).sum

/-- Every generator of the partitions keyed anew (R398), with the Seedbed output of one after the other's. -/
def State.rekeyAll (s : State) (rnd : List Byte) : State :=
  (s.parts.foldl (fun (r : State × List Byte) e =>
    if e.2.st = 0 then r
    else (r.1.keyGenerators (BitVec.ofNat 5 e.1) r.2, r.2.drop (s.clustersOf (BitVec.ofNat 5 e.1) * (48 + 16 * 48)))) (s, rnd)).1

/-- The exit from SLEEP to ACTIVE (R398, R400, R402, R429); none while Seedbed cannot serve it. -/
def State.sleepExit (s : State) : Option State :=
  let n := s.rekeyBytes
  if n ≠ 0 ∧ (s.seedMode ≠ 1 ∨ ¬ s.canServe 3 n) then none
  else
    let (s1, rnd) := if n = 0 then (s, []) else s.handOut n
    let s2 := (((s1.setFld clocksPage 0x11C 0 2 0).setFld clocksPage 0x11C 5 1 0).setFld clocksPage 0x11C 8 4 7).raise clocksPage 2
    let s3 := (((List.range 4).foldl (fun (t : State) d => t.peerLeave (endDie d)) (s2.regulators true)).rekeyAll rnd).trimLoad
    some s3.evcWake

/-! ### The requests (R394 to R400) -/

/-- The row of POWER_SET to a state. -/
def powerCmd (target : Nat) : RtpCmd :=
  { row := 0x600 + target, host := true, part := false, alone := true, used := fun i => if i = 16 then 3 else 0 }

/-- What POWER_SET ACTIVE comes to for its request. -/
def bodyPowerSetActive (_r : RtpReq) (_q : Desc) (s : State) : RtpOut :=
  if s.power = 0 then .done s stOk []
  else if s.power = 1 then .done (s.wakeDoze 7) stOk []
  else match s.sleepExit with
    | none => .wait s
    | some t => .done t stOk []

/-- POWER_SET ACTIVE (R394). -/
def execPowerSetActive (s : State) : Out :=
  .next (rtpRow (powerCmd 0) bodyPowerSetActive s)

/-- POWER.STATE takes DOZE. -/
def State.enterDoze (s : State) : State := s.setFld clocksPage 0x11C 0 2 1

/-- What POWER_SET DOZE comes to for its request. -/
def bodyPowerSetDoze (_r : RtpReq) (_q : Desc) (s : State) : RtpOut :=
  if s.power = 1 then .done s stOk []
  else if s.power = 0 then (if s.dozeBlocked then .done s stPowerBusy [] else .done s.enterDoze stOk [])
  else match s.sleepExit with
    | none => .wait s
    | some t => .done t.enterDoze stOk []

/-- POWER_SET DOZE (R395, R400). -/
def execPowerSetDoze (s : State) : Out :=
  .next (rtpRow (powerCmd 1) bodyPowerSetDoze s)

/-- What POWER_SET SLEEP comes to for its request. -/
def bodyPowerSetSleep (_r : RtpReq) (_q : Desc) (s : State) : RtpOut :=
  if s.power = 2 then .done s stOk []
  else if s.sleepBlocked then .done s stPowerBusy []
  else .done (s.wakeDoze 7).enterSleep stOk []

/-- POWER_SET SLEEP (R397, R400). -/
def execPowerSetSleep (s : State) : Out :=
  .next (rtpRow (powerCmd 2) bodyPowerSetSleep s)

/-- DIE_E_RETENTION_RETURN (R401): die E, awake with no request left, returns to retention. -/
def execDieERetentionReturn (s : State) : Out :=
  if s.power = 2 ∧ s.mode = 1 ∧ s.escOn ∧ s.rtp.queue.isEmpty ∧ s.rtp.revoke.isNone ∧ s.rtp.teardown.isNone then
    .next (s.setFld clocksPage 0x11C 5 1 0)
  else .next s

/-! ### The Ledger (R404 to R409) -/

/-- The demand of an epoch in watts (R404): the base and the work of each class at full admission. -/
structure Demand where
  base : Nat
  c0   : Nat
  c1   : Nat
  c2   : Nat
  c3   : Nat
deriving DecidableEq, Repr

/-- The watts of activity counts under the Ledger power coefficients of the Trim store (R404, log 85). -/
def State.wattsOf (s : State) (xs : List (Nat × Nat)) : Nat :=
  (xs.map (fun x => x.2 * Config.powerCoefficient (s.trimCurrent.map (fun y => y.2)) x.1)).sum / 1000000

/-- The demand of an epoch (R404): leakage from the hottest junction, at most 180 W, and idle clocks, HBM refresh and SerDes
idle, at most 240 W, are the base (R407). -/
def State.demand (s : State) (d : EpochDemand) : Demand :=
  { base := min 180 (Config.leakage (celsius (s.fld ledgerPage 0x118 0 8))) + min 240 (s.wattsOf d.idle)
    c0 := s.wattsOf d.c0, c1 := s.wattsOf d.c1, c2 := s.wattsOf d.c2, c3 := s.wattsOf d.c3 }

/-- Counted epochs among the preceding ones. -/
def State.counted (s : State) : Nat := (s.ledger.history.filter id).length

/-- Watts taken off both limits: 50 for each whole °C above THROTTLE_C (R409). -/
def State.thermalCut (s : State) : Nat :=
  50 * (celsius (s.fld ledgerPage 0x118 0 8) - celsius (s.fld ledgerPage 0x11C 0 8)).toNat

/-- The limit of the next epoch (R405, R407, R409), and whether it is SUSTAINED. -/
def State.epochLimit (s : State) : Nat × Bool :=
  let free : Bool := s.counted < 5000
  let w := if free then s.fld ledgerPage 0x104 0 12 else s.fld ledgerPage 0x100 0 12
  (max 600 (w - s.thermalCut), !free)

/-- The greatest a ≤ 16 for which w × a / 16 fits in a room; both in sixteenths of a watt where the room is. -/
def admitOf (w room16 : Nat) : Nat := if w = 0 then 16 else min 16 (room16 / w)

/-- Admissions of C3, C2 and C1 for a limit (R406): C3 is lowered to 0 before C2, and C2 before C1. -/
def admissions (d : Demand) (limit : Nat) : Nat × Nat × Nat :=
  let all := d.base + d.c0
  if all + d.c1 + d.c2 ≤ limit then (admitOf d.c3 (16 * (limit - (all + d.c1 + d.c2))), 16, 16)
  else if all + d.c1 ≤ limit then (0, admitOf d.c2 (16 * (limit - (all + d.c1))), 16)
  else (0, 0, admitOf d.c1 (16 * (limit - all)))

/-- The estimate under admissions of C3, C2 and C1, in sixteenths of a watt. -/
def estimate16 (d : Demand) (a3 a2 a1 : Nat) : Nat := 16 * (d.base + d.c0) + d.c1 * a1 + d.c2 * a2 + d.c3 * a3

/-- LEDGER_EPOCH (R404 to R406): limit, admissions, estimate and the counts of one epoch. WINDOW shows the epochs counted before
it. -/
def execLedgerEpoch (x : EpochDemand) (s : State) : Out :=
  if ¬ s.escOn ∨ s.power = 2 ∨ s.mode = 0 ∨ s.mode = 2 then .next s
  else
    let d := s.demand x
    let (limit, limited) := s.epochLimit
    let (a3, a2, a1) := admissions d limit
    let est16 := estimate16 d a3 a2 a1
    let above : Bool := 16 * s.fld ledgerPage 0x100 0 12 < est16
    let s1 := { s with ledger := { s.ledger with history := (above :: s.ledger.history).take 99999, limited := limited } }
    let s2 := ((s1.wrN ledgerPage 0x108 (min 4095 (est16 / 16))).wrN ledgerPage 0x10C
      ((if limited then 2 ^ 31 else 0) + min 8191 s.counted)).wrN ledgerPage 0x110 (a3 * 65536 + a2 * 256 + a1)
    let s3 := if a3 < 16 ∨ a2 < 16 ∨ a1 < 16 then s2.bump ledgerPage 0x114 1 else s2
    .next (if limited ∧ ¬ s.ledger.limited then s3.raise ledgerPage 0 else s3)

/-! ### Held by admission (R406, R408) -/

/-- The ENG cycles of one AON cycle in which work of a class is held: 16 less its admission in every 16 (R406). -/
def State.heldCycles (s : State) (cls : BitVec 2) : Nat := 4 * (16 - s.admission cls)

/-- The commands that a queue works on, its running ones and the first that waits, held for one AON cycle (R408). -/
def State.holdEntries (s : State) : List EngEntry → List EngEntry
  | [] => []
  | x :: xs =>
    let y := { x with held := min maxWaits (x.held + s.heldCycles x.cls) }
    if x.status.isSome then y :: s.holdEntries xs else y :: xs

/-- Every engine command at work is held for an AON cycle's share of cycles that its class is not admitted in (R408). -/
def State.admitTick (s : State) : State :=
  if s.heldCycles 1 = 0 ∧ s.heldCycles 2 = 0 ∧ s.heldCycles 3 = 0 then s
  else { s with cores := s.cores.map (fun e => (e.1, { e.2 with
    mxeQ := s.holdEntries e.2.mxeQ, rgeQ := s.holdEntries e.2.rgeQ
    mkxQ := s.holdEntries e.2.mkxQ, dmaQ := s.holdEntries e.2.dmaQ })) }

end Sys2Proof.Machine
end

