-- ==== Sys2Proof/Machine/Spares.lean ====
section
/-!
DEFINITION. Wear and spares (R433 to R437): thresholds and their actions, the remap of cores and clusters, spare lanes,
the spares record, and the reading of the fault log (R442).
-/

namespace Sys2Proof.Machine

/-! ### Worn units (R434, R437) -/

/-- A unit is marked worn. -/
def State.isWorn (s : State) (kind unit : Nat) : Bool := sget (fun _ => false) s.spares.worn (wearKey kind unit)

/-- A unit is marked worn from now on. -/
def State.markWorn (s : State) (kind unit : Nat) : State :=
  { s with spares := { s.spares with worn := sput (fun _ => false) s.spares.worn (wearKey kind unit) true } }

/-- A threshold: of a kind, for CE 0, RETRY 1 or HOT 2. -/
def State.threshold (s : State) (kind c : Nat) : Nat := sget (fun _ => (0 : Nat)) s.thresh (4 * kind + c)

/-- The factory thresholds of Table 17.2. -/
def factoryThresholds : Sparse Nat :=
  [(0, 10000), (1, 4), (2, 3000000), (4, 100000), (5, 16), (6, 3000000), (9, 1000), (13, 8), (17, 1), (21, 3)]

/-- A counter of a unit: CE 0, RETRY 1 or HOT 2. -/
def State.wearCount (s : State) (kind unit c : Nat) : Nat :=
  sget (fun _ => (0 : Nat)) (if c = 0 then s.spares.ce else if c = 1 then s.spares.retry else s.spares.hot) (wearKey kind unit)

/-- A counter of a unit has reached a threshold that is not 0. -/
def State.atThreshold (s : State) (kind unit : Nat) : Bool :=
  (List.range 3).any (fun c => s.threshold kind c ≠ 0 && decide (s.threshold kind c ≤ s.wearCount kind unit c))

/-- Unit numbers of a kind (Table 17.2). -/
def unitsOf (kind : Nat) : Nat := [612, 36, 136, 10, 15, 36].getD kind 0

/-- A spare enters service (R443). -/
def State.spared (s : State) : State := s.raise sparesPage 1

/-- A worn source leaves service, and a spare source that is not worn starts; with none left, it stays (R437). -/
def State.spareSource (s : State) (src : Nat) : State :=
  match (List.range 10).find? (fun i => !s.sourcesOn.getLsbD i && !s.isWorn 3 i) with
  | none => s
  | some n =>
    if ¬ s.sourcesOn.getLsbD src then s
    else
      let b := (s.sourcesOn &&& ~~~((1 : BitVec 10) <<< src)) ||| ((1 : BitVec 10) <<< n)
      let s1 := { s with spares := { s.spares with sources := b } }.setFld seedPage 0x100 16 10 b.toNat
      let s2 := s1.restartSource n
      { s2 with seed := { s2.seed with fresh := s2.seed.fresh &&& b } }.spared

/-- A worn sensor is replaced by the spare of its site, if that is not in use (R437). -/
def State.spareSensor (s : State) (site : Nat) : State :=
  if sget (fun _ => false) s.spares.sensors site then s
  else { s with spares := { s.spares with sensors := sput (fun _ => false) s.spares.sensors site true } }.spared

/-- The RTP marks wear and writes its record: in service, or in the fail-safe state unless it is halted (R440, R441). -/
def State.rtpWrites (s : State) : Bool := s.mode = 1 || (s.mode = 3 && !s.rtpHalted)

/-- WEAR_THRESHOLD (R434, R437): a unit whose counter has reached its threshold is marked worn, and its action runs. -/
def execWearThreshold (kind : BitVec 3) (unit : BitVec 10) (s : State) : Out :=
  let k := kind.toNat
  let u := unit.toNat
  if ¬ s.escOn ∨ ¬ s.rtpWrites ∨ unitsOf k ≤ u ∨ s.isWorn k u ∨ ¬ s.atThreshold k u then .next s
  else
    let s1 := (s.markWorn k u).raise sparesPage 0
    .next (if k = 3 then s1.spareSource u else if k = 5 then s1.spareSensor u else s1)

/-- WEAR_HOT_TICK (R434): once a minute, the whole °C above 85 of the unit's nearest sensor. -/
def execWearHotTick (kind : BitVec 3) (unit : BitVec 10) (c : BitVec 8) (s : State) : Out :=
  if ¬ s.escOn ∨ unitsOf kind.toNat ≤ unit.toNat then .next s
  else .next { s with spares := { s.spares with
    hot := satAdd s.spares.hot (wearKey kind.toNat unit.toNat) (celsius c.toNat - 85).toNat } }

/-! ### The spares record (R433) -/

/-- SPARES_RECORD_WRITE (R433): maps, in-service sets and worn marks reach the record. -/
def execSparesRecordWrite (s : State) : Out := if s.escOn ∧ s.rtpWrites then .next s.saveMaps else .next s

/-- WEAR_COUNTER_SAVE (R433): the wear counters reach the record, with the rest of it. -/
def execWearCounterSave (s : State) : Out := if s.escOn ∧ s.rtpWrites then .next s.saveSpares else .next s

/-! ### CORE_REMAP (R435) -/

/-- The lowest physical core of a physical cluster that is neither mapped nor worn, as its place in the cluster. -/
def State.spareCore (s : State) (p : Nat) : Option Nat :=
  (List.range 17).find? (fun i => (s.logicCore (17 * p + i)).isNone && !s.isWorn 0 (17 * p + i))

/-- A core whose threads are IDLE and whose engines have no command. -/
def State.coreQuiet (s : State) (k : Nat) : Bool :=
  (List.range 16).all (fun t => (s.thread (whoOf (16 * k + t))).st = .idle) &&
  (s.core k).mxeQ.isEmpty && (s.core k).rgeQ.isEmpty && (s.core k).mkxQ.isEmpty && (s.core k).dmaQ.isEmpty

/-- Pages that a map has left, with every word at its reset value but their trim windows (R430). -/
def State.leavePages (s : State) (ps : List Page) : State :=
  ps.foldl (fun (t : State) p => t.resetPage p (fun off => 0xC00 ≤ off)) s

/-- The switch of the map to place i: pages move with OWNER; the spare starts reset but for its Drawer; the old core is
worn and unmapped. -/
def State.moveCore (s : State) (k p i : Nat) (key : Option (List Byte)) : State :=
  let old := (s.physCore k).getD 0
  let owner := s.rd (s.corePage k 0) 0x028
  let s1 := s.leavePages ((List.range 4).map (fun j => s.corePage k j))
  let s2 := { s1 with
    spares := { s1.spares with coreMap := sput (fun k => some (k % 16)) s1.spares.coreMap k (some i)
                               coresUsed := s1.spares.coresUsed + 1 }
    threads := s1.threads.filter (fun e => e.1 / 16 ≠ k) }
  let s3 := s2.leavePages ((List.range 4).map (fun j => Page.core (17 * p + i) j))
  let s4 := (List.range 4).foldl (fun (t : State) j => t.wr (.core (17 * p + i) j) 0x028 owner) s3
  let s5 := s4.setCore k { CoreSt.reset with cycleBase := s.eng, srKey := key }
  ((s5.markWorn 0 old).peerCycle (endCore k) bitCore).spared

/-- CORE_REMAP (R435). -/
def bodyCoreRemap (q : Desc) (s : State) : RtpOut :=
  let k := q.n 16 2
  if 512 ≤ k ∨ (s.physCore k).isNone then .done s stMbox []
  else
    let p := (s.physCluster (clusterOfCore k)).getD 0
    match s.spareCore p with
    | none => .done s stSpareNone []
    | some i =>
      if ¬ s.coreQuiet k then .done s stSpareBusy []
      else
        let held := (s.coreOwner k).isSome
        let (s1, st, b) := if held then s.drawInternal 3 48 else (s, stOk, [])
        if st ≠ stOk then .done s1 stRngNotReady [] else .done (s1.moveCore k p i (if held then some b else none)) stOk []

/-- CORE_REMAP (R435). -/
def execCoreRemap (s : State) : Out :=
  .next (rtpRow { row := 0x51, host := true, part := false, alone := false, used := usedBytes 16 2 }
    (fun _ q s => bodyCoreRemap q s) s)

/-! ### CLUSTER_REMAP and LANE_SPARE (R436) -/

/-- The cores of a physical cluster that are not worn. -/
def State.goodCores (s : State) (p : Nat) : List Nat := (List.range 17).filter (fun i => !s.isWorn 0 (17 * p + i))

/-- The spare cluster of a die: not mapped, not worn, with 16 cores that are not worn; its place on the die. -/
def State.spareCluster (s : State) (d : Nat) : Option Nat :=
  (List.range 9).find? (fun i =>
    (s.logicCluster (9 * d + i)).isNone && !s.isWorn 1 (9 * d + i) && decide (16 ≤ (s.goodCores (9 * d + i)).length))

/-- The pages of a physical cluster and its cores. -/
def clusterPages (p : Nat) : List Page :=
  (List.range 4).map (fun j => Page.cluster p j) ++
  (List.range 17).flatMap (fun i => (List.range 4).map (fun j => Page.core (17 * p + i) j))

/-- The switch of a logical cluster to place i of its die. -/
def State.moveCluster (s : State) (c i : Nat) : State :=
  let d := dieOfCluster c
  let p := 9 * d + i
  let good := s.goodCores p
  let ks := (List.range 16).map (fun j => 16 * c + j)
  let s1 := ks.foldl (fun (t : State) k => t.coreCycle k) (s.clusterCycle c)
  let s2 := match s.physCluster c with
    | some o => (s1.leavePages (clusterPages o)).markWorn 1 o
    | none => s1
  let s3 := s2.leavePages (clusterPages p)
  let m := (List.range 16).foldl (fun (m : Sparse (Option Nat)) j =>
    sput (fun k => some (k % 16)) m (16 * c + j) (some (good.getD j 0))) s3.spares.coreMap
  ({ s3 with spares := { s3.spares with
      coreMap := m, clusterMap := sput (fun c => some (c % 8)) s3.spares.clusterMap c (some i) } }).spared

/-- CLUSTER_REMAP (R436). -/
def bodyClusterRemap (q : Desc) (s : State) : RtpOut :=
  let c := q.n 16 2
  if 32 ≤ c then .done s stMbox []
  else if (s.clusterOwner c).isSome then .done s stPartConflict []
  else match s.spareCluster (dieOfCluster c) with
    | none => .done s stSpareNone []
    | some i => .done (s.moveCluster c i) stOk []

/-- CLUSTER_REMAP (R436). -/
def execClusterRemap (s : State) : Out :=
  .next (rtpRow { row := 0x52, host := true, part := false, alone := false, used := usedBytes 16 2 }
    (fun _ q s => bodyClusterRemap q s) s)

/-- The spare lane takes the place of a lane in every mask that named it. -/
def State.replaceLane (s : State) (d lane spare : Nat) : State :=
  let masks := (s.die d).routes.filter (fun e => e.2.getLsbD lane)
  let s1 := if (s.link d lane).up then s.takeDown d lane else s
  let s2 := masks.foldl (fun (t : State) e =>
    let v := (t.routeMask d e.1 &&& ~~~((1 : BitVec 34) <<< lane)) ||| ((1 : BitVec 34) <<< spare)
    t.setDie d { t.die d with routes := sput (fun _ => (0 : BitVec 34)) (t.die d).routes e.1 v }) s1
  let s3 := s2.setLink d spare { JLink.reset with spare := true }
  { s3 with spares := { s3.spares with lanes := sput (fun _ => (0 : Nat)) s3.spares.lanes (34 * d + spare) (lane + 1) } }.spared

/-- LANE_SPARE (R436). -/
def bodyLaneSpare (q : Desc) (s : State) : RtpOut :=
  let d := q.n 16 1
  let lane := q.n 17 1
  let spare := if lane < 16 then 32 else 33
  if 4 ≤ d ∨ 32 ≤ lane then .done s stMbox []
  else if (s.link d spare).spare ∨ s.isWorn 2 (34 * d + spare) ∨ Config.spareReaches d spare ≠ (s.link d lane).dev then
    .done s stSpareNone []
  else .done (s.replaceLane d lane spare) stOk []

/-- LANE_SPARE (R436). -/
def execLaneSpare (s : State) : Out :=
  .next (rtpRow { row := 0x53, host := true, part := false, alone := false, used := usedBytes 16 2 }
    (fun _ q s => bodyLaneSpare q s) s)

/-! ### FAULT_LOG_READ (R442) -/

/-- What FAULT_LOG_READ comes to for its request. -/
def bodyFaultLogRead (r : RtpReq) (q : Desc) (s : State) : RtpOut :=
  let n := q.n 24 2
  if n = 0 ∨ 1024 < n then .done s stMbox []
  else
    let (s1, st) := s.reqWrite r (q.n 16 8) ((s.flash.log.reverse.take n).flatMap id)
    .done s1 st []

/-- FAULT_LOG_READ (R442): the newest records, newest first; where fewer stand, those (log 86). -/
def execFaultLogRead (s : State) : Out :=
  .next (rtpRow { row := 0x54, host := true, part := false, alone := true, used := usedBytes 16 10 }
    bodyFaultLogRead s)

end Sys2Proof.Machine
end

