-- ==== Sys2Proof/Machine/HostIf.lean ====
section
/-!
DEFINITION. The host interface (R445 to R453): the HBM aperture BAR2, PCIe resets and link, MCTP and firmware update over
SMBus, THERMTRIP and the test-access port.
-/

namespace Sys2Proof.Machine

/-- The host reaches the function's memory space: out of reset, configured, in D0 (R447, R379, log 87). -/
def State.hostReach (s : State) : Bool := s.pins.por && s.pins.perst && s.crossOpen endPcie && !s.host.rrs && !s.host.d3hot

/-- The result of the host's last read. -/
def State.hostRead (s : State) (v : Word) (bs : List Byte) (poisoned : Bool) : State :=
  { s with host := { s.host with read := v, bytes := bs, poisoned := poisoned } }

/-- Bytes of ones. -/
def allOnes (n : Nat) : List Byte := List.replicate n 0xFF

/-! ### BAR2 (R448) -/

/-- The device address of a BAR2 offset. -/
def State.bar2Addr (s : State) (off : Nat) : Nat := s.rd64 pciePage 0x108 + off

/-- What a BAR2 access meets: served, denied, or unmapped. -/
inductive Bar2 where
  | served
  | denied
  | unmapped
deriving DecidableEq, Repr

/-- The outcome of a BAR2 access to an address (R344, R448, Table 17.4). -/
def State.bar2Kind (s : State) (a : Nat) : Bar2 :=
  if 0x7800000000 ≤ a then .unmapped
  else match s.region (a / 0x200000) with
    | none => .unmapped
    | some r => match r.owner with
      | none => .served
      | some p => if (s.part p).conf ∨ s.failsafe then .denied else .served

/-- A denied access counts, and the PARTITION and PCIE pages raise their events (R344, R448, R458). -/
def State.bar2Deny (s : State) : State :=
  (((s.bump pciePage 0x110 1).raise pciePage 2).bump partPage 0x11C 1).raise partPage 1

/-- The host reaches HBM through BAR2: after start-up, and not in SLEEP (R456, R391, log 87). -/
def State.bar2Open (s : State) : Bool := s.hostReach && s.diesUp

/-- An access that BAR2 does not serve at all: during start-up and in LOCKED it is a refused access to data, and the PARTITION
page raises DEBUG_DENIED (R344, R456). -/
def State.bar2Shut (s : State) : State :=
  if s.hostReach ∧ (s.mode = 0 ∨ s.mode = 2) then (s.bump partPage 0x11C 1).raise partPage 1 else s

/-- A read of one piece: the state, whether it is poisoned, and the data. -/
def State.bar2ReadPiece (s : State) (a n : Nat) : State × Bool × List Byte :=
  match s.bar2Kind a with
  | .unmapped => (s.bump pciePage 0x114 1, false, allOnes n)
  | .denied => (s.bar2Deny, false, allOnes n)
  | .served =>
    let (s1, st, bs) := s.memRead (rtpAgent 0) a n
    if st = stOk then (s1, false, bs) else (s1, true, List.replicate n 0)

/-- BAR2_READ (R448, R396): by 4 KiB pieces, which lie in one region each; a poisoned completion carries no data. -/
def execBar2Read (off : BitVec 36) (len : Nat) (s : State) : Out :=
  if ¬ s.bar2Open then .next (if s.pins.por then s.bar2Shut.hostRead 0 (allOnes len) false else s)
  else
    let s1 := s.wakeDoze 4
    let r := (piecesOf 4096 (s1.bar2Addr off.toNat) len).foldl (fun (r : State × Bool × List Byte) p =>
      let x := r.1.bar2ReadPiece p.1 p.2
      (x.1, r.2.1 || x.2.1, r.2.2 ++ x.2.2)) (s1, false, [])
    .next (r.1.hostRead 0 r.2.2 r.2.1)

/-- A write of one 4 KiB piece, by blocks of 256 bytes. -/
def State.bar2WritePage (s : State) (a : Nat) (bs : List Byte) : State :=
  match s.bar2Kind a with
  | .unmapped => s.bump pciePage 0x114 1
  | .denied => s.bar2Deny
  | .served => (piecesOf 256 a bs.length).foldl (fun (t : State) p =>
      (t.blockWrite p.1 ((bs.drop (p.1 - a)).take p.2)).1) s

/-- A write touches a frozen range in memory that BAR2 serves (R174, R448). -/
def State.bar2Frozen (s : State) (a n : Nat) : Bool :=
  (List.range n).any (fun i => s.bar2Kind (a + i) = .served && s.frozenAt none (a + i))

/-- BAR2_WRITE (R448, R396): one that touches a frozen range is ignored whole and counted once. -/
def execBar2Write (off : BitVec 36) (data : List Byte) (s : State) : Out :=
  if ¬ s.bar2Open then .next s.bar2Shut
  else
    let s1 := s.wakeDoze 4
    let a := s1.bar2Addr off.toNat
    .next (if s1.bar2Frozen a data.length then s1.bar2Deny else (piecesOf 4096 a data.length).foldl (fun (t : State) p =>
      t.bar2WritePage p.1 ((data.drop (p.1 - a)).take p.2)) s1)

/-! ### The function (R445) -/

/-- What the PCIe function declares in its configuration space (R445): fixed. -/
structure PcieFunction where
  classCode   : BitVec 24
  deviceId    : BitVec 16
  gigatransfers : Nat
  widths      : List Nat
  maxPayload  : Nat
  maxReadRequest : Nat
  tagBits     : Nat
  msixVectors : Nat
  aer         : Bool
  d3hot       : Bool
  aspmL1      : Bool
  l2Wake      : Bool
deriving DecidableEq, Repr

/-- The function: a processing accelerator of PCIe 6.0 in FLIT mode, with power states D0 and D3hot, ASPM L1, and L2 with
`WAKE_N`; SR-IOV, ATS, PASID, L0s, IDE and TDISP it has not. -/
def pcieFunction : PcieFunction :=
  { classCode := 0x120000, deviceId := 0x0880, gigatransfers := 64, widths := [16, 8, 4, 2, 1], maxPayload := 512
    maxReadRequest := 4096, tagBits := 10, msixVectors := 64, aer := true, d3hot := true, aspmL1 := true, l2Wake := true }

/-! ### PCIe resets and link (R393, R447, Table 15.3) -/

/-- A place in host memory. -/
def Space.isHost : Space → Bool
  | .host _ => true
  | _ => false

/-- The PCIe controller and its configuration space go into reset; the rest of die E sees it (R389). Accesses under way to
host memory are abandoned (R390, R393), and the register writes that waited in the controller are gone. The registers of the
PCIE page stand: their reset is power-on reset. -/
def State.pcieReset (s : State) : State :=
  ({ s with host := { s.host with d3hot := false, bme := false, pmeEn := false, pme := false, inReset := true }
            journal := { s.journal with writes := [] } }.abandonAt Space.isHost).peerReset endPcie 4

/-- The link goes down (R458). -/
def State.pcieLinkDown (s : State) : State := if s.pcieUp then (s.wrN pciePage 0x100 0).raise pciePage 0 else s

/-- PCIE_RESET (R393): `PERST_N` falls, or a hot reset arrives; the link goes down. -/
def execPcieReset (kind : PcieResetKind) (s : State) : Out :=
  if ¬ s.pins.por then
    .next (if kind = .perst then { s with pins := { s.pins with perst := false } } else s)
  else
    let s1 := s.pcieReset.pcieLinkDown
    .next (if kind = .perst then { s1 with pins := { s1.pins with perst := false } }
      else if s1.pins.perst then s1.peerLeave endPcie else s1)

/-- FUNCTION_LEVEL_RESET (R393): a PCIe reset that keeps the link and clears the EVC's host-target enables. -/
def execFunctionLevelReset (s : State) : Out :=
  if ¬ s.pins.por ∨ ¬ s.pins.perst ∨ s.host.rrs then .next s
  else
    let s1 := s.pcieReset.peerLeave endPcie
    .next { s1 with evc := { s1.evc with
      tgts := (s1.evc.tgts.map (fun e => (e.1, { e.2 with enable := false }))).filter (fun e => e.2 ≠ Tgt.reset) } }

/-- PERST_RELEASE (R447): `PERST_N` rises; the controller leaves reset, and the link may train. -/
def execPerstRelease (s : State) : Out :=
  let s1 := if s.pins.perst ∨ s.crossOpen endPcie then s else s.peerLeave endPcie
  .next { s1 with pins := { s1.pins with perst := true } }

/-- PCIE_LINK_UP (R445, R447): the link has trained at a width and a speed. -/
def execPcieLinkUp (width : BitVec 6) (speed : BitVec 3) (s : State) : Out :=
  if ¬ s.escOn ∨ ¬ s.pins.perst ∨ s.pcieUp ∨ ¬ (pcieFunction.widths.contains width.toNat) ∨ speed.toNat = 0 ∨ speed.toNat = 7 then
    .next s
  else .next ((s.wrN pciePage 0x100 (65536 + width.toNat * 16 + speed.toNat)).raise pciePage 1)

/-- PCIE_LINK_DOWN (R458). -/
def execPcieLinkDown (s : State) : Out := if s.pins.por then .next s.pcieLinkDown else .next s

/-! ### Management (R451, R452) -/

/-- The bytes of a firmware bank. -/
def fwBankLen : Nat := 0x1000000

/-- The RTP firmware runs: stage 5 is complete, die E is awake, and the firmware is not halted (Table 18.2, R440). In a LOCKED
reached before stage 5 no firmware runs, so the address is not acknowledged (R451). -/
def State.firmwareOn (s : State) : Bool :=
  s.escOn && (s.mode = 1 || s.mode = 3 || decide (5 ≤ s.fld escPage 0x100 0 4)) && !s.rtpHalted

/-- What the endpoint's sensors read (R451). -/
def State.readings (s : State) : Readings :=
  { watts := s.rdN ledgerPage 0x108, temp := BitVec.ofNat 8 (s.fld ledgerPage 0x118 0 8)
    power := BitVec.ofNat 2 s.power, mode := BitVec.ofNat 4 s.mode }

/-- MCTP_MESSAGE (R451): the endpoint answers from its sensors and its firmware; partitions have no part in it. -/
def execMctpMessage (msg : List Byte) (s : State) : Out :=
  if ¬ s.firmwareOn then .next s
  else
    let r := s.readings
    .next ({ s with fresh := s.fresh + 1 }.emit (.mctp r
      (Config.mctpReply s.fresh r.watts r.temp.toNat r.power.toNat r.mode.toNat msg)))

/-- The flash offset and the size of a firmware bank (R452). -/
def fwOffset (bank : Nat) : Nat := bank * fwBankLen

/-- PLDM_FIRMWARE_UPDATE (R452): the bank that did not boot takes the image; one that a bank cannot hold is not written. It is used
from the next power-on reset on. -/
def execPldmFirmwareUpdate (img : FwImage) (s : State) : Out :=
  if ¬ s.firmwareOn ∨ fwBankLen < img.body.length then .next s
  else if s.rtp.bank1 then .next { s with flash := { s.flash with fw0 := some img } }
  else .next { s with flash := { s.flash with fw1 := some img } }

/-! ### Pins and test access (R345, R468, R469) -/

/-- The outputs of Table 19.4 beside the control pins of State.pins. -/
inductive Outputs where
  | tdo
  | regulatorBus
  | serdes
  | pcie
deriving DecidableEq, Repr

/-- How the device holds outputs (Table 19.4): not driven, no output, electrically idle, training, active, in L1 or L2, or as
IEEE 1149.1 says. -/
inductive Drive where
  | released
  | off
  | idle
  | training
  | active
  | lowPower
  | scan
deriving DecidableEq, Repr

/-- Table 19.4 for the outputs that the state of the device decides; the regulators' bus is driven while stage 7 of start-up
is under way (R462), and within the commands that enter and leave SLEEP. -/
def State.drives (s : State) (o : Outputs) : Drive :=
  let asleep : Bool := s.mode = 1 && s.power = 2
  match o with
  | .tdo => if s.pins.por then .scan else .released
  | .regulatorBus => if s.pins.por ∧ s.mode = 0 ∧ s.fld escPage 0x100 0 4 = 6 then .active else .released
  | .serdes => if ¬ s.pins.por ∨ s.mode = 0 ∨ s.mode = 2 ∨ asleep then .off else if s.mode = 3 then .idle else .active
  | .pcie =>
    if ¬ s.pins.por ∨ (s.mode = 0 ∧ ¬ s.pins.perst) then .off
    else if s.mode = 0 then .training else if asleep then .lowPower else .active

/-- THERMTRIP (R469): a junction reaches 130 °C; the pin stays low until power-on reset. While `POR_N` is low the pin is released
(Table 19.4). -/
def execThermtrip (s : State) : Out :=
  if s.pins.por then .next { s with pins := { s.pins with thermN := false } } else .next s

/-- TEST_ACCESS_UNLOCK (R344, R345): refused during start-up, and with DEBUG_ACTIVE while a CONFIDENTIAL partition exists. -/
def execTestAccessUnlock (s : State) : Out :=
  if ¬ s.pins.por ∨ s.mode = 0 ∨ s.mode = 2 then .next s
  else if s.confExists then .next (s.emit (.testRefused stDebug))
  else .next { s with rtp := { s.rtp with testOpen := true } }

end Sys2Proof.Machine
end

