-- ==== Sys2Proof/Machine/Boot.lean ====
section
/-!
DEFINITION. Power-on reset and the start-up stages (R453 to R456, Tables 18.2 and 18.3), the vote of the root fuses (R307),
and Bramble's alarms (R314, R328 to R330).
-/

namespace Sys2Proof.Machine

/-! ### Power-on reset (Table 15.3) -/

/-- The machine under power-on reset: fuses, flash and HBM cells stay; so do host memory, `PERST_N`, the model's queue, its
record of what left the package and its counts of free values. Wear since the last write of the spares record is lost. -/
def State.porState (s : State) (cause : Nat) : State :=
  let r := State.reset
  { r with
    pending := s.pending
    regs := if cause = 0 then [] else [(regKey clocksPage 0x118, BitVec.ofNat 32 (cause * 256))]
    mem := s.mem.filter (fun e => e.1 < 0x8000000000)
    v0 := s.v0, macErr := s.macErr, hbm := s.hbm
    fuses := s.fuses, flash := s.flash, spares := s.flash.record.spares
    host := { r.host with mem := s.host.mem, read := s.host.read, bytes := s.host.bytes, poisoned := s.host.poisoned }
    pins := { r.pins with perst := s.pins.perst }
    out := s.out, fresh := s.fresh }

/-- POR_ASSERT (Table 15.3): by `POR_N` (0) or by the loss of VAON (1). -/
def execPorAssert (cause : BitVec 4) (s : State) : Out :=
  if 2 ≤ cause.toNat then .next s else .next (s.porState cause.toNat)

/-! ### Stages 0 to 3: the ROM -/

/-- A stage either goes on or stops in LOCKED. -/
abbrev Stage := Except State State

/-- BOOT.STAGE: the last stage completed. -/
def State.stageDone (s : State) (n : Nat) : State := s.setFld escPage 0x100 0 4 n

/-- A stop in LOCKED with a reason (Table 18.3). -/
def lockedAt (s : State) (reason detail : Nat) : Stage := .error (s.lock reason detail)

/-- BRAMBLE.COUNT follows the fuses. -/
def State.showFuses (s : State) : State :=
  s.wrN bramPage 0x118 (s.fuses.count.toNat + if s.fuses.perm then 256 else 0)

/-- A further bit of the fuse counter, which saturates at 15 (R329). -/
def State.blowCount (s : State) : State :=
  { s with fuses := { s.fuses with count := if s.fuses.count = 15 then 15 else s.fuses.count + 1 } }.showFuses

/-- Stage 2: the fuses but for the root; the bit of a SLEEP alarm is blown. -/
def stage2 (s : State) : Stage :=
  let s1 := if s.fuses.pendAlarm then { s with fuses := { s.fuses with pendAlarm := false } }.blowCount else s.showFuses
  .ok ((s1.wrN escPage 0x114 s1.fuses.fwMin.toNat).stageDone 2)

/-- An image's hybrid signature verifies under the key whose digest the fuses hold (R452). -/
def Fuses.signedBy (f : Fuses) (x : FwImage) : Bool := x.signer = f.fwKey && x.mldsa && x.ecdsa

/-- A bank can boot: it holds an image whose signature verifies and whose security version reaches the minimum (R453). -/
def Fuses.fwOk (f : Fuses) (b : Option FwImage) : Bool :=
  match b with
  | some x => f.signedBy x && f.fwMin ≤ x.security
  | none => false

/-- The detail of reason 0x05 for a bank b: bit b, it failed its signature, as an empty one does; bit 8 + b, it lies below the
minimum. -/
def Fuses.fwDetail (f : Fuses) (b : Option FwImage) : Nat :=
  match b with
  | some x => (if f.signedBy x then 0 else 1) + (if f.fwMin ≤ x.security then 0 else 256)
  | none => 1

/-- The version of a bank. -/
def fwVer (b : Option FwImage) : Nat := (b.map (fun f => f.version.toNat)).getD 0

/-- Stage 3: the bank of the higher version among those that can boot; then PERM's policy, before the root is read (R329). -/
def stage3 (s : State) : Stage :=
  let f := s.flash
  let u := s.fuses
  let a : Bool := u.fwOk f.fw0
  let b : Bool := u.fwOk f.fw1
  if ¬ a ∧ ¬ b then lockedAt s 0x05 (u.fwDetail f.fw0 + 2 * u.fwDetail f.fw1)
  else
    let bank := if a ∧ (¬ b ∨ fwVer f.fw1 ≤ fwVer f.fw0) then 0 else 1
    let s1 := (({ s with rtp := { s.rtp with bank1 := bank = 1 } }.setFld escPage 0x100 8 1 bank).wrN escPage 0x110 (if bank = 0 then fwVer f.fw0 else fwVer f.fw1)).stageDone 3
    let n := s.fuses.count.toNat
    if s.fuses.perm ∧ 3 ≤ n then lockedAt s1 0x03 n else .ok s1

/-- `POR_N` is released: Seedbed starts, and the stages follow one by one, with what they will meet kept (R361, R454,
log 88). -/
def State.bootStart (s : State) (env : BootEnv) : State :=
  { s with pins := { s.pins with por := true }, start := some env }.seedRestart

/-! ### Stage 4: the root -/

/-- The vote of the three fuse copies, and the positions at which they do not all agree (R307). -/
def fuseVote (f : Fuses) : BitVec 288 × Nat :=
  let a := f.copy0
  let b := f.copy1
  let c := f.copy2
  let d := (a ^^^ b) ||| (a ^^^ c)
  ((a &&& b) ||| (a &&& c) ||| (b &&& c), ((List.range 288).filter (fun i => d.getLsbD i)).length)

/-- The output queue generated full (Table 13.2): one request for each 4 KiB of its 64 KiB. -/
def State.seedFill (s : State) : State :=
  (List.range 16).foldl (fun (t : State) _ => if t.mayGenerate then t.generate else t) s

/-- Stage 4: the root into slot 0 under a mask from Seedbed's first output (R307, Table 13.1). -/
def stage4 (s : State) : Stage :=
  let (v, dis) := fuseVote s.fuses
  let root : BitVec 256 := v.extractLsb' 32 256
  let s1 := s.setFld vaultPage 0x148 0 9 dis
  if fuseCopy root ≠ v ∨ 24 < dis then lockedAt s1 0x02 dis
  else
    let (s2, m) := s1.handOut maskLen
    .ok (((s2.putKey 0 { KeySlot.reset with origin := 1, dev := true } (Crypto.beBytes 32 root.toNat)
      (BitVec.ofNat 512 (Crypto.leNat m))).setFld vaultPage 0x148 30 1 1).stageDone 4)

/-! ### Stages 5 to 10: the firmware -/

/-- Stage 5: Trim records, and the end of Request Retry Status (R429, R447). -/
def stage5 (s : State) : State :=
  let s1 := s.trimLoad
  { s1 with host := { s1.host with rrs := false } }.stageDone 5

/-- The device nodes of Table 11.6, by number. -/
def State.deviceNodes (s : State) : List Node :=
  let ak := (Crypto.sha384 (s.fwDigest false ++ s.fwDigest true)).take 20
  [devNode none 1 1 "W880 ID" [] 256, devNode (some 0) 1 2 "W880 ID MLDSA65" [] 256,
   devNode (some 0) 1 2 "W880 ID P384" [] 384,
   devNode none 2 1 "W880 AK" [] 256, devNode (some 3) 2 2 "W880 AK MLDSA65" ak 256,
   devNode (some 3) 2 2 "W880 AK P384" ak 384,
   devNode none 6 1 "W880 BUNDLE" [] 256, devNode (some 6) 6 2 "W880 BUNDLE MLKEM1024" [] 512,
   devNode (some 6) 6 2 "W880 BUNDLE P384" [] 384]

/-- Slots 1 to 8 (Table 11.2). -/
def State.deviceSlots (s : State) : State :=
  let (s1, _, b) := s.drawInternal 4 64
  let k := { KeySlot.reset with origin := 3, mask := 1, dev := true }
  let s2 := (s1.fillSlot 1 k (b.take 32)).fillSlot 2 k (b.drop 32)
  let s3 := s2.deviceNodes.zipIdx.foldl (fun (t : State) e => t.setNode e.2 (some e.1)) s2
  [(3, 1, 0x20), (4, 2, 0x20), (5, 4, 0x20), (6, 5, 0x20), (7, 7, 0x80), (8, 8, 0x80)].foldl
    (fun (t : State) (e : Nat × Nat × Nat) => t.slotFromNode (BitVec.ofNat 8 e.1) e.2.1 (BitVec.ofNat 16 e.2.2)) s3

/-- The standby PLL of a die takes the role of a worn one, unless it already holds a role or is worn (R387, R437). -/
def State.standbyPll (s : State) (die : Nat) : State :=
  match [0, 1].find? (fun p => s.isWorn 4 (pllKey die p)) with
  | none => s
  | some p =>
    if s.standbyFor die 0 ∨ s.standbyFor die 1 ∨ s.isWorn 4 (pllKey die 2) then s
    else { s with spares := { s.spares with standby := sput (fun _ => false) s.spares.standby (pllKey die p) true } }.spared

/-- The spares record applied (R433): thresholds, spare lanes, standby PLLs; and the boot count. -/
def State.applySpares (s : State) : State :=
  let x := s.flash.record
  let s1 := { s with thresh := factoryThresholds, flash := s.flash.putRecord { x with boots := x.boots + 1 } }
  let s2 := s1.spares.lanes.foldl (fun (t : State) e => t.setLink (e.1 / 34) (e.1 % 34) { JLink.reset with spare := true }) s1
  (List.range 5).foldl (fun (t : State) d => t.standbyPll d) s2

/-- Stage 6. -/
def stage6 (s : State) : State := (s.deviceSlots.applySpares).stageDone 6

/-- Stage 7: each compute die in turn; the first that fails stops start-up. -/
def stage7 (env : BootEnv) (s : State) : Stage :=
  match env.dieFail with
  | some d =>
    lockedAt ((List.range (d.toNat + 1)).foldl (fun (t : State) i => t.powerOn i) s) 0x07 d.toNat
  | none => .ok ((s.regulators true).stageDone 7)

/-- The retries of a stack's training (R455). -/
def trainRetries : Nat := 3

/-- Stage 8: the training of the stacks; one that fails at the first try and at each retry stops start-up. -/
def stage8 (env : BootEnv) (s : State) : Stage :=
  match env.stackFails.find? (fun e => decide (trainRetries < e.2)) with
  | some e => lockedAt s 0x06 e.1.toNat
  | none => .ok (s.stageDone 8)

/-- A stack after the boot scrub: its page map and failure counts from the spares record, every epoch and version zero
(R231, R433). Pool pages are used in rising order; of them and the remapped pages, those no longer mapped are retired. -/
def scrubbedStack (m fails : Sparse Nat) : StackSt :=
  let used := m.foldl (fun (n : Nat) e => max n (e.2 + 1 - 15360)) 0
  let gone := m.map (fun e => e.1) ++ ((List.range used).map (fun i => 15360 + i)).filter (fun p => !m.any (fun e => e.2 = p))
  { StackSt.reset with map := m, fails := fails, retired := gone }

/-- Stage 9: the boot scrub of every stack, whose key is drawn and destroyed with it (R229 to R231). -/
def State.bootScrub (s : State) : State :=
  let (s1, _, _) := s.drawInternal 4 32
  let s2 := { s1 with mem := [], v0 := [], macErr := [], badLines := []
                      hbm := s1.flash.record.pageMaps.map (fun e => (e.1, scrubbedStack e.2.1 e.2.2)) }
  (List.range 16).foldl (fun (t : State) n =>
    let r := (t.stack n).retired.length
    (t.wrN (hbmcPage n) 0x110 ((256 - r) * 65536 + r)).raise (hbmcPage n) 3) s2

/-- Stage 10: READY; the fuse minimum rises to the firmware's security version (R453). -/
def stage10 (s : State) : State :=
  let f := if s.rtp.bank1 then s.flash.fw1 else s.flash.fw0
  let v := min 32 ((f.map (fun x => x.security.toNat)).getD 0)
  let s1 := { s with fuses := { s.fuses with fwMin := BitVec.ofNat 6 (max s.fuses.fwMin.toNat v) } }
  ((s1.stageDone 10).wr64 escPage 0x108 s1.time.toNat).wrN mboxPage 0x114 1

/-- The stage that follows BOOT.STAGE (Table 18.2); stage 4 waits for Seedbed's start-up (R361, R454). -/
def nextStage (env : BootEnv) (s : State) : Stage :=
  match s.fld escPage 0x100 0 4 with
  | 0 => .ok (s.stageDone 1)
  | 1 => stage2 s
  | 2 => stage3 s
  | 3 => if s.seed.inst then stage4 s.seedFill else .ok s
  | 4 => .ok (stage5 s)
  | 5 => .ok (stage6 s)
  | 6 => stage7 env s
  | 7 => stage8 env s
  | 8 => .ok (s.bootScrub.stageDone 9)
  | 9 => .ok (stage10 { s with start := none })
  | _ => .ok s

/-- One AON cycle of start-up: the next stage, up to READY or LOCKED (log 88). -/
def State.bootTick (s : State) : State :=
  match s.start with
  | none => s
  | some env =>
    if s.mode ≠ 0 then s
    else match nextStage env s with
      | .ok t => t
      | .error t => t

/-- POR_RELEASE (R454, R455): start-up begins. -/
def execPorRelease (env : BootEnv) (s : State) : Out := if s.pins.por then .next s else .next (s.bootStart env)

/-- SEED_CONDITIONED (R354, R359, R361): the oldest seed in conditioning is ready. -/
def execSeedConditioned (s : State) : Out := .next s.seedConditioned

/-! ### Bramble (R328 to R330) -/

/-- LAST.STATE at an alarm. -/
def State.alarmState (s : State) : Nat := if s.mode = 0 ∨ s.mode = 2 then 0 else s.power + 1

/-- LATCHED, LAST and TIME, and the ALARM event: written before the response begins. -/
def State.latchAlarm (s : State) (sensor : Nat) (keyop : Bool) : State :=
  (((s.wrN bramPage 0x104 (s.rdN bramPage 0x104 ||| 2 ^ sensor)).wrN bramPage 0x108
    (sensor + 256 * s.alarmState + if keyop then 2048 else 0)).wr64 bramPage 0x110 s.time.toNat).raise bramPage 0

/-- The slot that the RTP's running request would fill. -/
def targetSlot (q : Desc) : Option (BitVec 8) :=
  let c := q.n 0 2
  if c = 0x10 then some (q.slotAt 18)
  else if [0x13, 0x14, 0x18, 0x19, 0x1A, 0x20].contains c then some (q.slotAt 16) else none

/-- A command whose request uses keys: all but GET_INFO, OPEN_REGION, the Trim and spares commands and POWER_SET. -/
def keyRow (row : Nat) : Bool :=
  [0x10, 0x11, 0x12, 0x13, 0x14, 0x18, 0x19, 0x1A, 0x20, 0x30, 0x31, 0x33, 0x35].contains row

/-- The key-operation row of Table 11.8: the key request under way completes ROOT_BLOCKED, the slot that it may fill is
EMPTY, and root use is blocked. -/
def State.abortKeyOp (s : State) : State :=
  match s.rtp.queue with
  | [] => s.blockRoot
  | r :: rest =>
    let (s1, _, q) := s.rtpRead r
    if ¬ keyRow (rowOf q) then s.blockRoot
    else
      let s2 := { s1 with rtp := { s1.rtp with queue := rest } }.blockRoot
      let s3 := match targetSlot q with
        | some n => if s2.rtpTag r q ∧ (s2.slotUser r n).isSome then s2.destroySlot n else s2
        | none => s2
      if s.rtpHalted then s3 else s3.respond r (q.n 8 8) stRootBlocked []

/-- An alarm in SLEEP: a key operation aborts, every retained slot and node is zeroised, and the device reboots; LATCHED, LAST
and TIME come through (R328, R329, R402). -/
def State.sleepAlarm (s0 : State) (keyop : Bool) : State :=
  let s := if keyop then s0.abortKeyOp else s0
  let s1 := { s with keys := [], nodes := [], fuses := { s.fuses with pendAlarm := true } }
  let t := ({ s1 with fresh := s1.fresh + 1 }.porState 2).bootStart (Config.rebootEnv s1.fresh)
  ((t.wrN bramPage 0x104 (s.rdN bramPage 0x104)).wrN bramPage 0x108 (s.rdN bramPage 0x108)).wr64 bramPage 0x110
    (s.rd64 bramPage 0x110)

/-- A Bramble alarm (Table 11.8). -/
def State.alarm (s : State) (sensor : Nat) (keyop : Bool) : State :=
  let s1 := s.latchAlarm sensor keyop
  if s.mode = 1 ∧ s.power = 2 then s1.sleepAlarm keyop
  else
    let s2 := s1.blowCount
    let s3 := if keyop then s2.abortKeyOp else s2
    let s4 := s3.failCause fsTamper sensor
    if s.mode = 0 then (s4.emptySlot 0).setFld vaultPage 0x148 30 1 0
    else if s.mode = 1 then s4.blockRoot else s4

/-- The windows of the RAIL sensor in millivolts (R463): VCORE_0 to VCORE_3, VCORE_E, VAON. -/
def railWindow (r : Nat) : Nat × Nat := if r < 4 then (600, 850) else if r = 4 then (690, 810) else (740, 860)

/-- A rail's window applies: while `POR_N` is high, and that of VCORE_d only while its regulator is on (R463). -/
def State.railWatched (s : State) (r : Nat) : Bool := s.pins.por && (decide (4 ≤ r) || s.railOn r)

/-- A watched rail lies outside its window: what the RAIL sensor gives (R463). -/
def State.railOut (s : State) : Bool :=
  (List.range 6).any (fun r =>
    let v := Config.railMillivolts r s.time.toNat
    s.railWatched r && (decide (v < (railWindow r).1) || decide ((railWindow r).2 < v)))

/-- BRAMBLE.SENSE (R330, R463): the present output of the sensors, RAIL (1) by its windows. -/
def State.sense (s : State) : Nat :=
  (Config.sensors s.fresh s.time.toNat).toNat / 2 * 4 + (if s.railOut then 2 else 0)

/-- BRAMBLE_ALARM (R328): a sensor fires. That of RAIL is a rail whose window applies: VAON's and VCORE_E's always do (R463). -/
def execBrambleAlarm (sensor : BitVec 3) (keyop : Bool) (s : State) : Out :=
  if ¬ s.pins.por ∨ sensor = 0 ∨ sensor = 7 then .next s else .next (s.alarm sensor.toNat keyop)

/-- REMASK_AGE_LIMIT (R314): AGE reaches 256, and Bramble raises its REMASK alarm, once until a sweep completes. -/
def execRemaskAgeLimit (s : State) : Out :=
  if ¬ s.pins.por ∨ s.fld vaultPage 0x114 0 16 < 256 ∨ s.seed.ageAlarm then .next s
  else .next ({ s with seed := { s.seed with ageAlarm := true } }.alarm 6 false)

end Sys2Proof.Machine
end

