-- ==== Sys2Proof/Machine/PageRead.lean ====
section
/-!
DEFINITION. What the words of the register pages read (R415, R416, and the register tables of the chapters): the common
header, the words that a page stores, and the words that report state held elsewhere or selected by another register.
-/

namespace Sys2Proof.Machine

/-! ### What a page is -/

/-- PAGE_CAP.EVT_BITS of a type: the bits that its chapter names (R475). -/
def evtBits (ty : Nat) : Nat :=
  if ty = tyCore then 2 else if ty = tyMbox then 1 else if ty = tyBramble then 1 else if ty = tyHbmc then 4
  else if ty = tyJoist then 3 else if ty = tyPartition then 2 else if ty = tySeedbed then 4 else if ty = tyClocks then 3
  else if ty = tyLedger then 3 else if ty = tySpares then 2 else if ty = tyPcie then 3 else if ty = tyGauge then 1
  else if ty = tyTrim then 2 else if ty = tyMitre then 1 else 0

/-- PAGE_CAP.DISABLE: the types of Table 16.3. -/
def capDisable (ty : Nat) : Bool :=
  [tyCore, tyMxe, tyRge, tyMkx, tyNsu, tyRouter, tyMitre, tyDresser, tyJoist, tyWicket].contains ty

/-- PAGE_CAP.LOCK: the types with a LOCK register. -/
def capLock (ty : Nat) : Bool := [tyVault, tyLedger, tySpares].contains ty

/-- PAGE_CAP (Table 16.2). -/
def pageCap (ty : Nat) : Nat :=
  evtBits ty * 256 + (if capLock ty then 16 else 0) + (if Config.capTrim ty then 8 else 0) +
  (if Config.capSoftReset ty then 4 else 0) + (if capDisable ty then 2 else 0) + (if Config.capShadow ty then 1 else 0)

/-- PAGE_ID (Table 16.2). -/
def pageId (p : Page) : Nat := p.type * 65536 + p.inst * 256 + 1

/-- The logical core that a core page serves. -/
def State.coreOf (s : State) (p : Page) : Option Nat :=
  match p with
  | .core q _ => s.logicCore q
  | _ => none

/-- The logical cluster that a cluster page serves. -/
def State.clusterOf (s : State) (p : Page) : Option Nat :=
  match p with
  | .cluster c _ => s.logicCluster c
  | _ => none

/-- The commands that an engine's page, or the CORE page for all four engines, answers for. -/
def CoreSt.pageQ (c : CoreSt) (ty : Nat) : List EngEntry :=
  if ty = tyMxe then c.mxeQ else if ty = tyRge then c.rgeQ else if ty = tyMkx then c.mkxQ
  else c.mxeQ ++ c.rgeQ ++ c.mkxQ ++ c.dmaQ

/-- A send of a partition whose queues lie on a die is in progress; `sealed` asks for those under a release only. -/
def State.sendsOn (s : State) (d : Nat) (sealed : Bool) : Bool :=
  s.handles.any (fun h => match s.peer h with
    | some p => s.ctrlDie p.pid = d && p.sends.any (fun o => !sealed || o.rel.isSome)
    | none => false)

/-- A requester port lies on a compute die: of a cluster (0 to 31), or of the die's Mitre (32 to 35) or links (36 to 39). -/
def portOnDie (port d : Nat) : Bool := if port < 32 then port / 8 = d else (port - 32) % 4 = d && port < 40

/-- STATUS.BUSY: work in flight (Table 16.3); the JOIST page's is what a thread, a command or a unit of the die awaits from
another device (R418). -/
def State.busy (s : State) (p : Page) : Bool :=
  let d := (p.dieNo).getD 0
  match s.coreOf p, s.clusterOf p with
  | some k, _ => !((s.core k).pageQ p.type).isEmpty
  | _, some c =>
    let x := s.cluster c
    if p.type = tyNsu then !x.nsuQ.isEmpty || x.nsuRun.isSome
    else if p.type = tyRouter then !x.rtrQ.isEmpty || x.rtrRun.isSome else false
  | none, none =>
    if p.type = tyMitre then s.sendsOn d false
    else if p.type = tyJoist then !(s.die d).pend.isEmpty || s.remote.any (fun o => portOnDie o.port d)
    else if p.type = tyWicket then s.sendsOn d true else false

/-! ### The words of a core's pages -/

/-- THR_STATE.STATE (Table 3.1). -/
def TState.code : TState → Nat
  | .idle => 0
  | .ready => 1
  | .waitCount => 2
  | .waitPark => 3
  | .waitNext => 4
  | .waitBar => 5
  | .faulted => 6
  | .draining => 7

/-- THR_STATE (Table 3.10). -/
def Thread.stateWord (t : Thread) : Nat :=
  t.outstanding * 65536 + (if t.st = .faulted then t.cause.toNat * 256 else 0) + t.st.code

/-- The half of a 64-bit value at an offset from its LO. -/
def half (v off : Nat) : Nat := if off = 0 then v % 2 ^ 32 else v / 2 ^ 32

/-- A word of the CORE page; the host reads FAULT_PC and FAULT_ADDR of a CONFIDENTIAL core as zero (R101). -/
def State.coreWord (s : State) (host : Bool) (p : Page) (k off : Nat) : Nat :=
  if 0x200 ≤ off ∧ off < 0x400 then
    let t := s.thread (whoOf (16 * k + (off - 0x200) / 0x20))
    let o := off % 0x20
    let hide : Bool := host && s.pageConf p
    if o = 4 then t.stateWord
    else if o = 0x10 ∨ o = 0x14 then (if hide then 0 else half t.faultPc.toNat (o - 0x10))
    else if o = 0x18 ∨ o = 0x1C then (if hide then 0 else half t.faultAddr.toNat (o - 0x18))
    else s.rdN p off
  else s.rdN p off

/-- A command of a queue has run and has not completed. -/
def running (q : List EngEntry) (f : Nat → Bool) : Bool := q.any (fun x => x.status.isSome && f x.op.toNat)

/-- The entries that an engine has not taken, as a count of eight bits shows them (Table 3.9, log 102). -/
def queued (q : List EngEntry) : Nat := min 255 (q.filter (fun x => x.status.isNone)).length

/-- A flag as a bit. -/
def bitIf (b : Bool) (n : Nat) : Nat := if b then 2 ^ n else 0

/-- MXE.SLOT_INFO of the selected unit (Table 4.7). -/
def CoreSt.slotInfo (c : CoreSt) (u : Nat) : Nat :=
  match c.slotBase u with
  | none => 0
  | some b => match c.slot b with
    | none => 0
    | some x => 2 ^ 31 + bitIf x.poisoned 30 + bitIf x.sat 29 + x.mode.toNat * 2 ^ 24 + (u - b) * 2 ^ 20 +
        (if x.mode = 3 then (x.w % 512).toNat else 0)

/-- A word of the MXE page. -/
def State.mxeWord (s : State) (p : Page) (k off : Nat) : Nat :=
  let c := s.core k
  if off = 0x100 then
    bitIf c.srKey.isSome 10 + bitIf (running c.mxeQ mxeDrain) 9 + bitIf (running c.mxeQ mxeArray) 8 + queued c.mxeQ
  else if off = 0x10C then c.slotInfo (s.fld p 0x108 0 7)
  else if off = 0x114 then ((List.range 128).filter (fun u => (c.slotBase u).isSome)).length
  else s.rdN p off

/-- A word of the RGE page; the host reads RPS_TAG of a CONFIDENTIAL core as zero (R158). -/
def State.rgeWord (s : State) (host : Bool) (p : Page) (k off : Nat) : Nat :=
  let c := s.core k
  let r := sget (fun _ => none) c.rps (s.fld p 0x108 0 4)
  if off = 0x100 then bitIf (running c.rgeQ (fun o => o = 0x30)) 10 + bitIf (running c.rgeQ (fun _ => true)) 8 + queued c.rgeQ
  else if off = 0x10C then
    match r with
    | some x => 2 ^ 31 + x.scheme.toNat * 2 ^ 24 + x.np * 2 ^ 16 + x.nq * 2 ^ 8 + x.logn
    | none => 0
  else if off = 0x110 ∨ off = 0x114 then
    match r with
    | some x => if host && s.pageConf p then 0 else half x.tag.toNat (off - 0x110)
    | none => 0
  else s.rdN p off

/-- A word of the MKX page. -/
def State.mkxWord (s : State) (p : Page) (k off : Nat) : Nat :=
  let c := s.core k
  if off = 0x100 then
    bitIf (c.rgeQ.any (fun x => x.status.isSome && x.claim.isSome)) 9 + bitIf (running c.mkxQ (fun _ => true)) 8 +
      queued c.mkxQ
  else if off = 0x110 then ((s.die (dieOfCore k)).seeds.filter (fun e => e.2.seed.isSome)).length
  else s.rdN p off

/-! ### The words of a cluster's and a compute die's pages -/

/-- A word of the NSU page. -/
def State.nsuWord (s : State) (p : Page) (c off : Nat) : Nat :=
  let x := s.cluster c
  if off = 0x108 then bitIf x.nsuKey.isSome 10 + bitIf x.nsuRun.isSome 8 + x.nsuQ.length else s.rdN p off

/-- A word of the ROUTER page. -/
def State.routerWord (s : State) (p : Page) (c off : Nat) : Nat :=
  let x := s.cluster c
  if off = 0x108 then bitIf x.gate.isSome 9 + bitIf x.rtrRun.isSome 8 + x.rtrQ.length else s.rdN p off

/-- A word of the PRESS page; the host reads POISON_ADDR of a CONFIDENTIAL cluster as zero (R234). -/
def State.pressWord (s : State) (host : Bool) (p : Page) (off : Nat) : Nat :=
  if (off = 0x110 ∨ off = 0x114) ∧ host ∧ s.pageConf p then 0 else s.rdN p off

/-- An HBM address lies in a CONFIDENTIAL partition's memory. -/
def State.confHbm (s : State) (a : Nat) : Bool :=
  match (s.region (a / 0x200000)).bind Region.owner with
  | some o => (s.part o).conf
  | none => false

/-- A word of the HBMC page; the host reads a POISON_ADDR that lies in CONFIDENTIAL memory as zero (R234). -/
def State.hbmcWord (s : State) (host : Bool) (p : Page) (off : Nat) : Nat :=
  if (off = 0x108 ∨ off = 0x10C) ∧ host ∧ s.confHbm (s.rd64 p 0x108) then 0 else s.rdN p off

/-- A word of the MITRE page. -/
def State.mitreWord (s : State) (p : Page) (d off : Nat) : Nat :=
  if off = 0x110 then (s.mit d).cache.length
  else if off = 0x114 then (s.mit d).miss.length
  else if off = 0x14C then ((s.mit d).cache.filter (fun h => ((s.peer h).map Peer.pinned).getD false)).length
  else s.rdN p off

/-- The entries that an engine queue holds, by its number among a die's (R280). -/
def State.engDepth (s : State) (d n : Nat) : Nat :=
  let c := s.core (128 * d + n / 4)
  (match n % 4 with
    | 0 => c.mxeQ
    | 1 => c.rgeQ
    | 2 => c.mkxQ
    | _ => c.dmaQ).length

/-- The forwarded packets of a class that stand in a lane's receive buffer until their link takes them (R289). -/
def State.heldForward (s : State) (d lane cls : Nat) : Nat :=
  ((List.range 4).flatMap (fun e => (s.die e).links.flatMap (fun l => l.2.queued.filter (fun x =>
    x.2.2 = some (BitVec.ofNat 2 d, BitVec.ofNat 6 lane) && x.2.1.cls.toNat = cls)))).length

/-- DRESSER.QSTAT.DEPTH of a queue (R280). -/
def State.depthOf (s : State) (d q : Nat) : Nat :=
  if q < 3072 then (s.queue d (BitVec.ofNat 12 q)).entries.length
  else if q < 3584 then s.engDepth d (q - 3072)
  else if q < 3720 then
    ((s.die d).vcHeld.filter (fun e => e.1.toNat = (q - 3584) / 4 && e.2.2.cls.toNat = q % 4)).length +
      s.heldForward d ((q - 3584) / 4) (q % 4)
  else 0

/-- A word of the DRESSER page. -/
def State.dresserWord (s : State) (p : Page) (d off : Nat) : Nat :=
  let q := s.fld p 0x104 0 12
  if off = 0x110 then
    bitIf (s.queueOff d (BitVec.ofNat 12 q)) 31 + (s.queue d (BitVec.ofNat 12 q)).last.toNat * 65536 +
      min 0xFFFF (s.depthOf d q)
  else if off = 0x108 then s.qcfgWord d (BitVec.ofNat 12 q)
  else if off = 0x124 then s.hostCredits d (BitVec.ofNat 12 (s.fld p 0x120 0 12))
  else s.rdN p off

/-- VC_STATE of a class on the selected lane (Table 10.6). -/
def State.vcState (s : State) (d lane cls : Nat) : Nat :=
  let l := s.link d lane
  if cls = 3 ∧ 32 ≤ sget (fun _ => (0 : Nat)) (s.die d).c3 l.dev.toNat then 0x10
  else if l.queued.any (fun x => x.2.1.cls.toNat = cls) then 0x11 else 0

/-- A word of the JOIST page. -/
def State.joistWord (s : State) (p : Page) (d off : Nat) : Nat :=
  let lane := s.fld p 0x110 0 6
  let l := s.link d lane
  if off = 0x108 ∨ off = 0x10C then half (s.routeMask d (s.fld p 0x104 0 6)).toNat (off - 0x108)
  else if off = 0x114 then
    if l.up then l.lane.toNat * 65536 + l.dev.toNat * 256 + bitIf l.spare 1 + 1 else bitIf l.spare 1
  else if off = 0x118 then
    (List.range 4).foldl (fun (a : Nat) c => a + s.vcState d lane c * 256 ^ c) 0
  else s.rdN p off

/-- A word of the WICKET page. -/
def State.wicketWord (s : State) (p : Page) (off : Nat) : Nat := if off = 0x114 then s.frozenUsed else s.rdN p off

/-! ### The words of die E's pages -/

/-- A word of the PARTITION page, for the selected partition. -/
def State.partitionWord (s : State) (p : Page) (off : Nat) : Nat :=
  let pid : BitVec 5 := BitVec.ofNat 5 (s.fld p 0x100 0 5)
  let x := s.part pid
  if off = 0x104 then bitIf x.conf 8 + x.st.toNat
  else if off = 0x108 then x.pgen.toNat
  else if off = 0x10C then x.clusters.toNat
  else if off = 0x110 then (s.regionsOf pid).length
  else if off = 0x114 then x.bundles.length
  else s.rdN p off

/-- A word of the KEY_VAULT page: the selected slot's attributes; the key words are WO. DEVICE says that the RTP holds the
slot's key, and an allotted slot names its partition whether it is EMPTY or not (log 62). -/
def State.vaultWord (s : State) (p : Page) (off : Nat) : Nat :=
  let k := s.key (BitVec.ofNat 8 (s.fld p 0x100 0 8))
  if off = 0x104 then
    bitIf (k.st = .valid) 31 + bitIf (k.st = .stale) 30 + bitIf k.pend.isSome 29 + k.origin.toNat * 2 ^ 25 +
      k.branch.toNat * 2 ^ 21 + k.depth.toNat * 2 ^ 17 + k.mask.toNat
  else if off = 0x108 then
    bitIf (k.dev && k.st ≠ .empty) 31 + (match k.allot with
      | some q => q.toNat * 2 ^ 24 + (s.part q).pgen.toNat
      | none => k.pid.toNat * 2 ^ 24 + k.pgen.toNat)
  else if off = 0x10C then k.gen.toNat * 65536 + k.node.toNat
  else if off = 0x14C then s.nodesUsed
  else if 0x120 ≤ off ∧ off < 0x140 then 0
  else s.rdN p off

/-- EvState as SRC_STATE.STATE. -/
def EvState.code : EvState → Nat
  | .idle => 0
  | .pending => 1
  | .held => 2
  | .active => 3
  | .activePending => 4

/-- TGT_CFG of a target (Table 14.4). -/
def Tgt.cfg (t : Tgt) : Nat :=
  bitIf t.enable 31 + t.log2n.toNat * 65536 + t.bypass.toNat * 4096 + t.modCount.toNat

/-- A word of the EVC page: the selected source, group and target, and the arrays. -/
def State.evcWord (s : State) (p : Page) (off : Nat) : Nat :=
  let e := s.src (s.fld p 0x108 0 12)
  let g := s.group (s.fld p 0x120 0 4)
  let t := s.tgt (s.fld p 0x134 0 6)
  if off = 0x10C then e.cls.toNat * 65536 + e.group.toNat * 256 + e.prio.toNat * 16 + e.sense.toNat
  else if off = 0x110 then e.target.toNat * 65536 + bitIf e.line 8 + e.st.code
  else if off = 0x128 ∨ off = 0x12C then half (g.toNat % 2 ^ 64) (off - 0x128)
  else if off = 0x130 then bitIf (g.getLsbD 64) 0
  else if off = 0x138 ∨ off = 0x13C then half t.ring.toNat (off - 0x138)
  else if off = 0x140 then t.cfg
  else if off = 0x144 then t.modTime.toNat
  else if off = 0x148 then t.wr.toNat
  else if off = 0x14C then bitIf t.owed 17 + bitIf t.armed 16 + t.staged.length
  else if 0x200 ≤ off ∧ off < 0x300 then (s.tgt ((off - 0x200) / 4)).prio.toNat
  else if 0x300 ≤ off ∧ off < 0x400 then (s.tgt ((off - 0x300) / 4)).rd.toNat
  else if 0x400 ≤ off ∧ off < 0x800 then s.readEnpend ((off - 0x400) / 4)
  else s.rdN p off

/-- The nominal frequency of a domain in MHz, by its row of Table 15.1; the recovered and external clocks are free. -/
def State.domMhz (s : State) (die n : Nat) : Nat :=
  if n = 9 ∨ n = 11 ∨ n = 17 then Config.measuredMhz die n s.time.toNat % 65536
  else [100, 25, 1600, 800, 1067, 800, 3200, 2000, 1250, 0, 1600, 0, 1000, 1000, 500, 200, 250].getD n 0

/-- A domain of a die runs: the power states in which Table 15.1 stops it, and the dies that have it. -/
def State.domRunning (s : State) (die n : Nat) : Bool :=
  let e : Bool := die = 4
  let up : Bool := s.diesUp && die < 4
  if n = 0 then s.pins.por && die ≤ 4
  else if n = 1 then e && s.pins.por
  else if n = 2 ∨ n = 3 ∨ n = 6 then up && s.power = 0
  else if n = 7 then (up || (e && s.escOn))
  else if n = 9 then up && (List.range 2).any (fun i => (s.rd (.die die tyEth i) 0x100).getLsbD 0)
  else if n = 11 then up && (s.die die).links.any (fun l => l.2.up)
  else if n = 4 ∨ n = 5 ∨ n = 8 ∨ n = 10 then up
  else if 12 ≤ n ∧ n ≤ 16 then e && s.escOn
  else if n = 17 then e && s.rtp.testOpen
  else false

/-- A word of the CLOCKS page. -/
def State.clocksWord (s : State) (p : Page) (off : Nat) : Nat :=
  if off = 0x104 then
    let d := s.fld p 0x100 4 3
    let n := s.fld p 0x100 0 2
    if 5 ≤ d ∨ n = 3 then 0
    else
      let lost : Nat := sget (fun _ => (0 : Nat)) s.pllLoss (pllKey d n)
      let use := s.pllInUse d n
      let role := if n = 2 then (if s.standbyFor d 0 then 0 else if s.standbyFor d 1 then 1 else 2)
        else if s.standbyFor d n then 2 else n
      lost * 65536 + role * 16 + bitIf use 1 + bitIf (use && lost = 0) 0
  else if off = 0x10C then
    let d := s.fld p 0x108 8 3
    let n := s.fld p 0x108 0 5
    if s.domRunning d n then s.domMhz d n * 65536 + 1 else 0
  else if off = 0x118 then
    s.fld p 0x118 8 4 * 256 + (if s.diesUp then 0 else 15) + bitIf (!s.pins.perst || (s.host.inReset && (s.crossing endPcie).barred.isSome)) 4
  else s.rdN p off

/-- SPARES.MAP of the selected logical unit (Table 17.5). -/
def State.mapWord (s : State) (p : Page) : Nat :=
  let i := s.fld p 0x100 0 9
  if s.fld p 0x100 12 1 = 1 then
    if 32 ≤ i then 2 ^ 31
    else match s.physCluster i with
      | some c => c % 9 * 256
      | none => 2 ^ 31
  else match s.physCore i with
    | some q => q / 17 % 9 * 256 + q % 17
    | none => 2 ^ 31

/-- SPARES.USED (Table 17.5). -/
def State.usedWord (s : State) : Nat :=
  let (co, cl, la, so, pl, se) := s.spareUse
  co * 2 ^ 24 + cl * 2 ^ 16 + la * 2 ^ 12 + so * 2 ^ 8 + pl * 2 ^ 4 + min 15 se

/-- A word of the SPARES page: the selected map entry, wear counters and thresholds. -/
def State.sparesWord (s : State) (p : Page) (off : Nat) : Nat :=
  let kind := s.fld p 0x108 12 3
  let unit := s.fld p 0x108 0 10
  if off = 0x104 then s.mapWord p
  else if off = 0x10C then s.wearCount kind unit 0
  else if off = 0x110 then s.wearCount kind unit 1
  else if off = 0x114 then s.wearCount kind unit 2
  else if off = 0x118 then bitIf (s.isWorn kind unit) 0
  else if off = 0x11C ∨ off = 0x120 ∨ off = 0x124 then s.threshold kind ((off - 0x11C) / 4)
  else if off = 0x128 then s.usedWord
  else s.rdN p off

/-! ### Any word -/

/-- A block register (0x100 upward) that reports state held elsewhere, or the stored word. -/
def State.blockWord (s : State) (host : Bool) (p : Page) (off : Nat) : Nat :=
  match p with
  | .core _ _ =>
    match s.coreOf p with
    | none => 0
    | some k =>
      if p.type = tyCore then s.coreWord host p k off else if p.type = tyMxe then s.mxeWord p k off
      else if p.type = tyRge then s.rgeWord host p k off else s.mkxWord p k off
  | .cluster _ _ =>
    match s.clusterOf p with
    | none => 0
    | some c =>
      if p.type = tyNsu then s.nsuWord p c off else if p.type = tyRouter then s.routerWord p c off
      else if p.type = tyPress then s.pressWord host p off else s.rdN p off
  | .die d ty _ =>
    if ty = tyHbmc then s.hbmcWord host p off else if ty = tyMitre then s.mitreWord p d off
    else if ty = tyDresser then s.dresserWord p d off else if ty = tyJoist then s.joistWord p d off
    else if ty = tyWicket then s.wicketWord p off else s.rdN p off
  | .dieE ty =>
    if ty = tyPartition then s.partitionWord p off else if ty = tyVault then s.vaultWord p off
    else if ty = tyEvc then s.evcWord p off else if ty = tyClocks then s.clocksWord p off
    else if ty = tySpares then s.sparesWord p off
    else if ty = tyMbox ∧ off = 0x110 then s.pqDepth
    else if ty = tyJournal ∧ off = 0x13C then s.journalLevel
    else if ty = tySeedbed ∧ off = 0x104 then s.seedLevel
    else if ty = tyBramble ∧ off = 0x100 then s.sense
    else if ty = tySeedbed ∧ (off = 0x148 ∨ off = 0x14C ∨ off = 0x800 ∨ off = 0x804) then 0
    else s.rdN p off

/-- A 32-bit word of a page as the host, or an agent of the device, reads it (Table 16.2). -/
def State.pageWord (s : State) (host : Bool) (p : Page) (off : Nat) : Nat :=
  if off = 0x000 then pageId p
  else if off = 0x004 then pageCap p.type
  else if off = 0x008 then (if s.enabled p then 1 else 0) + s.fld p 0x008 1 1 * 2
  else if off = 0x00C then bitIf s.failsafe 3 + s.fld p 0x00C 1 2 * 2 + bitIf (s.busy p) 0
  else if off = 0x01C then 0
  else if 0x030 ≤ off ∧ off < 0x040 then 0
  else if off < 0x100 then s.rdN p off
  else if 0xC00 ≤ off ∧ ¬ Config.capTrim p.type then 0
  else if 0xC00 ≤ off then s.rdN p off
  else s.blockWord host p off

/-- WO registers, and those whose reads have effects: they latch as zero (R421). Their words are never stored, so they
read zero as well. -/
def woOff (ty off : Nat) : Bool :=
  (ty = tySeedbed && (off = 0x148 || off = 0x14C)) ||
  ((ty = tyNsu || ty = tyRouter) && (off = 0x100 || off = 0x104)) ||
  (ty = tyMbox && (off = 0x108 || off = 0x10C)) || (ty = tyDresser && (off = 0x128 || off = 0x12C))

end Sys2Proof.Machine
end

