-- ==== Sys2Proof/Machine/PageWrite.lean ====
section
/-!
DEFINITION. What an accepted write of a register does (R416, R418, R419, and the register tables of the chapters): words
that are stored under a mask, words with a rule of their own, 64-bit registers, and the disable, resume and soft reset of
a page.
-/

namespace Sys2Proof.Machine

/-! ### Enabling and disabling (R418, R419) -/

/-- What a disable does to the work that waits (Table 16.3). -/
def State.stopPage (s : State) (p : Page) : State :=
  match s.coreOf p, s.clusterOf p, p with
  | some k, _, _ =>
    let es : List Engine := if p.type = tyMxe then [.mxe] else if p.type = tyRge then [.rge]
      else if p.type = tyMkx then [.mkx] else [.mxe, .rge, .mkx, .dma]
    es.foldl (fun (t : State) e => State.haltEngine (fun x => x.status.isNone) stDisabled k t e) s
  | _, some c, _ =>
    if p.type = tyNsu then s.stopUnit c pgNsu stDisabled
    else if p.type = tyRouter then s.stopUnit c pgRouter stDisabled else s
  | _, _, .die d _ _ =>
    if p.type = tyMitre then
      (s.mit d).queues.foldl (fun (t : State) e => t.flushQueue d (BitVec.ofNat 12 e.1) stDisabled) s
    else if p.type = tyDresser then
      (s.die d).queues.foldl (fun (t : State) e =>
        if e.2.kind = 0 then t else t.flushQueue d (BitVec.ofNat 12 e.1) stDisabled) s
    else s
  | _, _, _ => s

/-- CTRL.DISABLE_REQ written 1 (R418): new work is refused from now on, DISABLING is set, waiting work stops. -/
def State.disablePage (s : State) (p : Page) : State :=
  if capDisable p.type ∧ s.enabled p ∧ ¬ s.disabling p then
    ((s.setFld p 0x008 1 1 1).setFld p 0x00C 1 1 1).stopPage p
  else s

/-- The end of a disable (R418): ENABLE and DISABLE_REQ clear together once BUSY is clear. -/
def State.endDisable (s : State) (p : Page) : State :=
  if s.disabling p ∧ ¬ s.busy p then (s.wrN p 0x008 0).setFld p 0x00C 1 1 0 else s

/-- CTRL.ENABLE written 1 (R418): a disabled block resumes, but in the fail-safe state. -/
def State.resumePage (s : State) (p : Page) : State :=
  if ¬ s.disabling p ∧ ¬ s.failsafe then s.setFld p 0x008 0 1 1 else s

/-- Words through a soft reset: those that only power-on reset clears (JOURNAL.HASH and COUNT, R425; BRAMBLE's, R330; LOCK,
Tables 11.5, 15.6 and 17.5), and those that show the present state of what a soft reset of the page does not reach: RTP_STATE
and MB_STATE, POWER and RESET_STATE, ROOT_STATUS and REMASK_STAT, STATE of Seedbed and its L, the free cells and the page pool,
the PCIe link (log 94). -/
def standing (ty off : Nat) : Bool :=
  ty = tyBramble || (ty = tyJournal && off < 0x138) ||
  (ty = tyMbox && (off = 0x104 || off = 0x114)) || (ty = tyClocks && (off = 0x118 || off = 0x11C)) ||
  (ty = tySpares && off = 0x140) || (ty = tySeedbed && (off = 0x100 || off = 0x108)) ||
  (ty = tyVault && (off = 0x114 || off = 0x148 || off = 0x150)) || (ty = tyPartition && off = 0x118) ||
  (ty = tyDresser && off = 0x100) || (ty = tyHbmc && off = 0x110) || (ty = tyPcie && off = 0x100) ||
  (ty = tyLedger && off = 0x120)

/-- CTRL.SOFT_RESET (R419): the block registers, EVT_RAW and EVT_PENDING at their reset values; the trim window
rewritten. -/
def State.softReset (s : State) (p : Page) : State :=
  if ¬ Config.capSoftReset p.type ∨ s.enabled p ∨ s.busy p then s
  else
    let s1 := s.resetPage p (fun off =>
      (off < 0x100 && off ≠ 0x00C && off ≠ 0x010 && off ≠ 0x018) || (0x100 ≤ off && standing p.type off))
    let s2 := match p with
      | .die d ty _ => if ty = tyJoist then s1.setDie d { s1.die d with routes := [] } else s1
      | .dieE ty =>
        if ty = tyEvc then { s1 with evc := State.reset.evc }
        else if ty = tySpares then { s1 with thresh := [] }
        else if ty = tyClocks then { s1 with pllLoss := [] } else s1
      | _ => s1
    let s3 := match s.coreOf p with
      | some k => if p.type = tyCore then s2.faultEvent k else s2
      | none => s2
    s3.trimReload p

/-- CTRL written: a disable, else a resume; then a soft reset. -/
def State.writeCtrl (s : State) (p : Page) (v : Nat) : State :=
  let s1 := if field v 1 1 = 1 then s.disablePage p else if field v 0 1 = 1 then s.resumePage p else s
  if field v 2 1 = 1 then s1.softReset p else s1

/-! ### Events (R416) -/

/-- EVT_RAW bits of a page that read a present state, not an occurrence. -/
def conditionBits (ty : Nat) : Reg32 := if ty = tyCore then 2 else 0

/-- EVT_PENDING written: each 1 clears its bit, and an occurrence bit with it. -/
def State.clearEvents (s : State) (p : Page) (v : Reg32) : State :=
  (s.wr p 0x018 (s.rd p 0x018 &&& ~~~v)).wr p 0x010 (s.rd p 0x010 &&& (~~~v ||| conditionBits p.type))

/-- EVT_SET written: each 1 sets its EVT_PENDING bit. -/
def State.setEvents (s : State) (p : Page) (v : Reg32) : State := s.wr p 0x018 (s.rd p 0x018 ||| v)

/-! ### Words stored under a mask -/

/-- The bits of a word that a write stores, for words without a rule of their own. -/
def rwMask (ty off : Nat) : Nat :=
  if ty = tyMxe ∧ off = 0x108 then 0x7F
  else if ty = tyRge ∧ off = 0x108 then 0xF
  else if ty = tyMitre then
    (if off = 0x100 then 0x1FFFF else if off = 0x108 then 0xFF else if off = 0x10C then 0x3F3F3F3F else 0)
  else if ty = tyEth ∧ 0x120 ≤ off ∧ off < 0x160 then 0xFFFFFFFF
  else if ty = tyDresser then (if off = 0x108 then 0x13700FF else if off = 0x120 then 0xFFF else 0)
  else if ty = tyJoist then
    (if off = 0x100 then 0x13F else if off = 0x104 ∨ off = 0x110 then 0x3F else 0)
  else if ty = tyMbox ∧ 0x400 ≤ off ∧ off < 0x500 then 0xFFFFFFFF
  else if ty = tyVault then
    (if off = 0x100 then 0xFF else if 0x120 ≤ off ∧ off < 0x140 then 0xFFFFFFFF else 0)
  else if ty = tyEvc then
    (if off = 0x108 then 0xFFF else if off = 0x120 then 0xF else if off = 0x134 then 0x3F else 0)
  else if ty = tyGauge ∧ off = 0x108 then 0xFFF
  else if ty = tyPcie ∧ 0x400 ≤ off ∧ off < 0x808 then 0xFFFFFFFF
  else if ty = tyClocks then
    (if off = 0x100 then 0x73 else if off = 0x108 then 0x71F else if off = 0x120 then 3 else 0)
  else if ty = tyPartition ∧ off = 0x100 then 0x1F
  else if ty = tySpares then (if off = 0x100 then 0x11FF else if off = 0x108 then 0x73FF else 0)
  else 0

/-- A word stored under its mask; a word without one is read-only or has a rule of its own. -/
def State.store (s : State) (p : Page) (off v : Nat) : State :=
  if rwMask p.type off = 0 then s else s.wrN p off (v &&& rwMask p.type off)

/-- LOCK.LOCK of a page (Tables 11.8, 15.6 and 17.5). -/
def State.locked (s : State) (p : Page) : Bool :=
  if p.type = tyVault then (s.rd p 0x150).getLsbD 0
  else if p.type = tyLedger then (s.rd p 0x120).getLsbD 0 else (s.rd p 0x140).getLsbD 0

/-! ### Words with rules of their own -/

/-- MITRE.CFG (Table 9.9): a field out of its range keeps its value. -/
def mitreCfg (old v : Nat) : Nat :=
  let keep := fun (ok : Bool) (lo n : Nat) => if ok then field v lo n else field old lo n
  field v 28 2 * 2 ^ 28 + keep (field v 24 4 ≠ 0) 24 4 * 2 ^ 24 +
  keep (16 ≤ field v 16 8 && field v 16 8 ≤ 250) 16 8 * 2 ^ 16 + keep (field v 0 8 ≠ 0) 0 8

/-- LEDGER.THERM (Table 15.6): a field out of its range keeps its value. -/
def thermWord (old v : Nat) : Nat :=
  let t := if 70 ≤ field v 0 8 ∧ field v 0 8 ≤ 110 then field v 0 8 else field old 0 8
  let o := if t + 1 ≤ field v 8 8 ∧ field v 8 8 ≤ 115 then field v 8 8 else field old 8 8
  o * 256 + t

/-- GAUGE.CFG (Table 16.5): a LEAD below 4 is ignored. -/
def gaugeCfg (old v : Nat) : Nat :=
  field v 16 4 * 65536 + (if 4 ≤ field v 0 8 then field v 0 8 else field old 0 8)

/-- QCMD of the selected queue (R283, R284, R478): the host's commands to a CONFIDENTIAL partition's queue are refused
(R300), and none acts in the fail-safe state. -/
def State.queueCmd (s : State) (d cmd : Nat) : State :=
  let q : BitVec 12 := BitVec.ofNat 12 (s.fld (dresserPage d) 0x104 0 12)
  let x := s.queue d q
  if s.failsafe then s
  else if cmd = 1 then s.configure d q (s.qcfgWord d q) (fun t st => t.flushQueue d q st)
  else if x.pid.isNone ∨ 3072 ≤ q.toNat then s
  else if cmd = 2 then s.flushQueue d q stFlushed
  else if cmd = 3 then
    let s1 := s.setQueue d q { x with disabled := true }
    s1.flushQueue d q stDisabled
  else if cmd = 4 then s.setQueue d q { x with disabled := false }
  else s

/-- The queue in DRESSER.QSEL belongs to a CONFIDENTIAL partition (R300). -/
def State.selConf (s : State) (d : Nat) : Bool :=
  match (s.queue d (BitVec.ofNat 12 (s.fld (dresserPage d) 0x104 0 12))).pid with
  | some p => (s.part p).conf
  | none => false

/-- A write of a word of a DRESSER page. -/
def State.writeDresser (s : State) (d off v : Nat) : State :=
  let p := dresserPage d
  if off = 0x104 then
    (s.wrN p 0x104 (v % 4096)).stageCfg d none
  else if (off = 0x108 ∨ off = 0x10C) ∧ s.selConf d then s
  else if off = 0x108 then s.stageCfg d (some (BitVec.ofNat 32 (v &&& rwMask p.type 0x108)))
  else if off = 0x10C then s.queueCmd d (v % 8)
  else s.store p off v

/-- A write of a word of a CORE page. -/
def State.writeCore (s : State) (k off v : Nat) : State :=
  if off = 0x100 then (if v % 2 = 1 then s.dropIbuf k else s)
  else if 0x200 ≤ off ∧ off < 0x400 ∧ off % 0x20 = 0 then
    let w := whoOf (16 * k + (off - 0x200) / 0x20)
    if field v 1 1 = 1 then s.stopThread w else if field v 0 1 = 1 then s.startThread w else s
  else s

/-- A group word written (Table 14.4); group 15 holds no targets (R371). -/
def State.writeGroup (s : State) (f : BitVec 65 → BitVec 65) : State :=
  let g := s.fld evcPage 0x120 0 4
  if g = 15 then s else s.setGroup g (f (s.group g))

/-- A write of a word of the EVC page. -/
def State.writeEvc (s : State) (off v : Nat) : State :=
  let t := s.fld evcPage 0x134 0 6
  if off = 0x100 then s.writeEvcCfg v
  else if off = 0x104 then s.writeHold (v % 2 = 1)
  else if off = 0x10C then s.writeSrcCfg (s.fld evcPage 0x108 0 12) v
  else if off = 0x114 then s.writeEn (v % 4096) true
  else if off = 0x118 then s.writeEn (v % 4096) false
  else if off = 0x11C then s.evcComplete (v % 4096)
  else if off = 0x130 then s.writeGroup (fun m => BitVec.ofNat 65 (m.toNat % 2 ^ 64 + v % 2 * 2 ^ 64))
  else if off = 0x140 then s.writeTgtCfg t v
  else if off = 0x144 then
    (if v % 65536 = 0 then s else s.setTgt t { s.tgt t with modTime := BitVec.ofNat 16 v })
  else if 0x200 ≤ off ∧ off < 0x300 then
    s.setTgt ((off - 0x200) / 4) { s.tgt ((off - 0x200) / 4) with prio := BitVec.ofNat 4 v }
  else if 0x300 ≤ off ∧ off < 0x400 then s.writeRd ((off - 0x300) / 4) (BitVec.ofNat 32 v)
  else if 0x400 ≤ off ∧ off < 0x800 then s.writeEnpend ((off - 0x400) / 4) v
  else s.store evcPage off v

/-- A write of a word of the KEY_VAULT page. -/
def State.writeVault (s : State) (off v : Nat) : State :=
  if off = 0x110 then
    (if s.locked vaultPage ∨ field v 0 6 = 0 ∨ 32 < field v 0 6 then s else s.wrN vaultPage 0x110 (field v 0 6))
  else if off = 0x140 then
    (if field v 31 1 = 1 then s.keyLoad (BitVec.ofNat 8 (field v 16 8)) (BitVec.ofNat 16 v) else s)
  else if off = 0x150 then (if v % 2 = 1 then s.wrN vaultPage 0x150 1 else s)
  else s.store vaultPage off v

/-- A write of a word of the LEDGER page. -/
def State.writeLedger (s : State) (off v : Nat) : State :=
  let p := ledgerPage
  let w := field v 0 12
  if off = 0x120 then (if v % 2 = 1 then s.wrN p 0x120 1 else s)
  else if s.locked p then s
  else if off = 0x100 then (if 600 ≤ w ∧ w ≤ 1800 then s.wrN p off w else s)
  else if off = 0x104 then (if s.fld p 0x100 0 12 ≤ w ∧ w ≤ 2050 then s.wrN p off w else s)
  else if off = 0x11C then (s.wrN p off (thermWord (s.rdN p off) v)).thermal
  else s

/-- A write of a word of the SPARES page. -/
def State.writeSpares (s : State) (off v : Nat) : State :=
  let p := sparesPage
  if off = 0x11C ∨ off = 0x120 ∨ off = 0x124 then
    (if s.locked p then s
     else { s with thresh := sput (fun _ => (0 : Nat)) s.thresh (4 * s.fld p 0x108 12 3 + (off - 0x11C) / 4) (v % 2 ^ 32) })
  else if off = 0x140 then (if v % 2 = 1 then s.wrN p 0x140 1 else s)
  else s.store p off v

/-- A write of a word of the RTP_MBOX page. -/
def State.writeMbox (s : State) (off v : Nat) : State :=
  if off = 0x100 then (if v % 2 = 1 then s.doorbell else s)
  else if off = 0x104 then s.wr mboxPage 0x104 (s.rd mboxPage 0x104 &&& ~~~ (BitVec.ofNat 32 v &&& 6))
  else s.store mboxPage off v

/-- A block register written as a 32-bit word, for registers no wider. -/
def State.writeBlock (s : State) (p : Page) (off v : Nat) : State :=
  match s.coreOf p, p with
  | some k, .core _ 0 => s.writeCore k off v
  | _, .die d ty _ =>
    if ty = tyDresser then s.writeDresser d off v
    else if ty = tyMitre ∧ off = 0x104 then s.wrN p off (mitreCfg (s.rdN p off) v)
    else s.store p off v
  | _, .dieE ty =>
    if ty = tyEvc then s.writeEvc off v else if ty = tyVault then s.writeVault off v
    else if ty = tyLedger then s.writeLedger off v else if ty = tySpares then s.writeSpares off v
    else if ty = tyMbox then s.writeMbox off v
    else if ty = tySeedbed ∧ off = 0x140 then s.writeTest v
    else if ty = tyGauge ∧ off = 0x100 then (if v % 2 = 1 then s.gaugeTrigger 1 s.time.toNat else s)
    else if ty = tyGauge ∧ off = 0x104 then s.wrN p off (gaugeCfg (s.rdN p off) v)
    else if ty = tyJournal ∧ off = 0x138 then (if v % 2 = 1 then s.journalCapture else s)
    else if ty = tyClocks ∧ off = 0x110 then s.wr p off (s.rd p off &&& ~~~ (BitVec.ofNat 32 v &&& 0x7F))
    else s.store p off v
  | _, _ => s.store p off v

/-- An accepted write of a 32-bit word (Table 16.2 and the chapters' tables). -/
def State.writeWord (s : State) (p : Page) (off v : Nat) : State :=
  if off = 0x008 then s.writeCtrl p v
  else if off = 0x014 then s.wrN p off v
  else if off = 0x018 then s.clearEvents p (BitVec.ofNat 32 v)
  else if off = 0x01C then s.setEvents p (BitVec.ofNat 32 v)
  else if off = 0x020 then s.setFld p 0x020 0 2 v
  else if off < 0x100 then s
  else if 0xC00 ≤ off then (if Config.capTrim p.type then s.wrN p off v else s)
  else s.writeBlock p off v

/-! ### 64-bit registers (R414) -/

/-- The offset is the LO of a 64-bit register. -/
def is64 (ty off : Nat) : Bool :=
  if ty = tyEth then off = 0x108 || off = 0x110
  else if ty = tyDresser then off = 0x128
  else if ty = tyJoist ∨ ty = tyMbox ∨ ty = tyMkx ∨ ty = tyWicket ∨ ty = tyHbmc ∨ ty = tyEsc then off = 0x108
  else if ty = tyNsu ∨ ty = tyRouter then off = 0x100 || off = 0x110
  else if ty = tyEvc then off = 0x128 || off = 0x138
  else if ty = tyPcie then off = 0x108 || (0x140 ≤ off && off < 0x180 && off % 8 = 0)
  else if ty = tyCore then 0x200 ≤ off && off < 0x400 && (off % 32 = 8 || off % 32 = 16 || off % 32 = 24)
  else if ty = tyPress ∨ ty = tyRge ∨ ty = tyGauge ∨ ty = tyBramble then off = 0x110
  else if ty = tyMitre then off = 0x150 || off = 0x158
  else if ty = tySeedbed then off = 0x120 || off = 0x128
  else if ty = tyJournal then off = 0x130 || off = 0x1B0
  else if ty = tySpares then off = 0x138
  else false

/-- The partition that a requester acts for at a page: the thread's own, or for the host the page's owner. -/
def State.reqPid (s : State) (r : Req) (p : Page) : Option (BitVec 5) :=
  match r with
  | .host => s.pageOwner p
  | .thread w => s.coreOwner w.core.toNat

/-- The core of a requester. -/
def reqCore : Req → Option (BitVec 9)
  | .host => none
  | .thread w => some w.core

/-- SUBMIT of a cluster's unit; without a submitting partition no address passes (R169, log 47). -/
def State.writeSubmit (s : State) (r : Req) (p : Page) (c u v : Nat) : State :=
  match s.reqPid r p with
  | some pid => s.unitSubmit c u { addr := v, pid := pid, core := reqCore r }
  | none => s.unitErr c u 0 (if v % 64 ≠ 0 then stUnmapped else stBound)

/-- An accepted write of a whole 64-bit register. -/
def State.write64 (s : State) (r : Req) (p : Page) (off v : Nat) : State :=
  match s.clusterOf p, p with
  | some c, _ =>
    if off ≠ 0x100 then s
    else if p.type = tyNsu then s.writeSubmit r p c pgNsu v
    else if p.type = tyRouter then s.writeSubmit r p c pgRouter v else s
  | _, .core _ j => if j = 0 ∧ off % 32 = 8 then s.wr64 p off (v / 4 * 4) else s
  | _, .die d ty _ =>
    if ty = tyEth then s.wr64 p off (v % 2 ^ 48)
    else if ty = tyDresser then s.hostPost d (BitVec.ofNat 64 v)
    else if ty = tyJoist then
      s.setDie d { s.die d with
        routes := sput (fun _ => 0) (s.die d).routes (s.fld p 0x104 0 6) (BitVec.ofNat 34 v) }
    else s
  | _, .dieE ty =>
    if ty = tyMbox then
      match s.reqPid r p with
      | some pid => s.psubmit pid v
      | none => s
    else if ty = tyEvc then
      if off = 0x128 then s.writeGroup (fun m => BitVec.ofNat 65 (m.toNat / 2 ^ 64 * 2 ^ 64 + v % 2 ^ 64))
      else
        let t := s.fld evcPage 0x134 0 6
        s.setTgt t { s.tgt t with ring := BitVec.ofNat 64 (v / 4096 * 4096) }
    else if ty = tyPcie then
      if off = 0x108 then s.wr64 p off (v % 2 ^ 40 / 2 ^ 21 * 2 ^ 21)
      else s.wr64 p off (v / 2 ^ 30 * 2 ^ 30 + v % 2)
    else s
  | _, _ => s

end Sys2Proof.Machine
end

