-- ==== Sys2Proof/Machine/Pages.lean ====
section
/-!
DEFINITION. Reading and writing the register pages as their requesters do (R413, R414, R417, R391, R456): sizes, the two
words of 64-bit registers, who may write, the Journal (R424 to R426); and the latch of a Gauge snapshot (R421, R422).
-/

namespace Sys2Proof.Machine

/-! ### Accesses of a page (R414) -/

/-- The number of a requester. -/
def reqNo : Req → Nat
  | .host => 0
  | .thread w => whoKey w + 1

/-- The key under which a requester's captured HI, or last LO, of a 64-bit register is kept. -/
def capKey (r : Req) (p : Page) (lo : Nat) : Nat := reqNo r * 2 ^ 30 + regKey p lo

/-- The access is the host's. -/
def reqHost : Req → Bool
  | .host => true
  | .thread _ => false

/-- The captured HI of a register for a requester replaced. -/
def State.setCap (s : State) (r : Req) (p : Page) (lo : Nat) (v : Option (BitVec 32)) : State :=
  { s with host := { s.host with hiCap := sput (fun _ => none) s.host.hiCap (capKey r p lo) v } }

/-- The last LO that a requester wrote to a register replaced. -/
def State.setLo (s : State) (r : Req) (p : Page) (lo : Nat) (v : Option (BitVec 32)) : State :=
  { s with host := { s.host with loWr := sput (fun _ => none) s.host.loWr (capKey r p lo) v } }

/-- The size and alignment that registers take. -/
def sizeOk (off size : Nat) : Bool := (size = 4 || size = 8) && off % size = 0

/-- A register read by a requester: the state after it, and the value; RAND and RAW are read as 64 bits only (R358,
R363). -/
def State.readReg (s : State) (r : Req) (p : Page) (off size : Nat) : State × Nat :=
  let h := reqHost r
  if ¬ sizeOk off size then (s, 0)
  else if p = .dieE tySeedbed ∧ off = 0x800 ∧ size = 8 then s.readRand
  else if p = .dieE tySeedbed ∧ off = 0x148 ∧ size = 8 then s.readRaw
  else if size = 8 then (s, s.pageWord h p off + 2 ^ 32 * s.pageWord h p (off + 4))
  else if is64 p.type off then
    (s.setCap r p off (some (BitVec.ofNat 32 (s.pageWord h p (off + 4)))), s.pageWord h p off)
  else if 4 ≤ off ∧ is64 p.type (off - 4) then
    match sget (fun _ => none) s.host.hiCap (capKey r p (off - 4)) with
    | some v => (s.setCap r p (off - 4) none, v.toNat)
    | none => (s, s.pageWord h p off)
  else (s, s.pageWord h p off)

/-- The LO that a write of HI takes (R414). -/
def State.loFor (s : State) (r : Req) (p : Page) (lo : Nat) : Nat :=
  match sget (fun _ => none) s.host.loWr (capKey r p lo) with
  | some v => v.toNat
  | none => if woOff p.type lo then 0 else s.pageWord false p lo

/-- What an accepted write of a page does. -/
def State.applyWrite (s : State) (r : Req) (p : Page) (off size val : Nat) : State :=
  if size = 8 then
    if is64 p.type off then (s.setLo r p off none).write64 r p off val
    else (s.writeWord p off (val % 2 ^ 32)).writeWord p (off + 4) (val / 2 ^ 32 % 2 ^ 32)
  else if is64 p.type off then s.setLo r p off (some (BitVec.ofNat 32 val))
  else if 4 ≤ off ∧ is64 p.type (off - 4) then
    (s.setLo r p (off - 4) none).write64 r p (off - 4) (s.loFor r p (off - 4) + 2 ^ 32 * (val % 2 ^ 32))
  else s.writeWord p off (val % 2 ^ 32)

/-! ### The host (R391, R413, R417, R447, R456) -/

/-- The page at a device address that BAR0 shows (Table 18.1). -/
def barPage (addr : Nat) : Option Page :=
  if regBase ≤ addr ∧ addr < regBase + 0x20000000 then pageAt ((addr - regBase) / 4096) else none

/-- During start-up, LOCKED included, three pages answer reads (R456, R344). -/
def State.answersRead (s : State) (p : Page) : Bool :=
  s.mode = 1 || s.mode = 3 || p = .dieE tyEsc || p = .dieE tyMbox || p = .dieE tyPcie

/-- During start-up, LOCKED included, REQ, DOORBELL and the MSI-X structures take writes (R456). -/
def State.answersWrite (s : State) (p : Page) (off : Nat) : Bool :=
  s.mode = 1 || s.mode = 3 || (p = .dieE tyMbox && ((0x400 ≤ off && off < 0x500) || off = 0x100)) ||
  (p = .dieE tyPcie && 0x400 ≤ off && off < 0x808)

/-- An access of the host to a compute-die page, or a host post, ends DOZE (R396). -/
def State.hostWakes (s : State) (p : Page) (cause : Nat) : State :=
  if p.dieNo.isSome ∧ s.power = 1 ∧ s.mode = 1 then
    (List.range 4).foldl (fun (t : State) d => t.drainHeld d) (s.wakeDoze cause)
  else s

/-- Ones of a size. -/
def onesOf (size : Nat) : Nat := 2 ^ (8 * min size 8) - 1

/-- A register read by the host; what does not answer reads all ones. -/
def State.hostReadReg (s : State) (addr size : Nat) : State :=
  let ones := s.hostRead (BitVec.ofNat 64 (onesOf size)) [] false
  match barPage addr with
  | none => ones
  | some p =>
    if ¬ s.hostReach ∨ ¬ s.pageLive p ∨ ¬ s.answersRead p then ones
    else
      let (s1, v) := (s.hostWakes p 4).readReg .host p (addr % 4096) size
      s1.hostRead (BitVec.ofNat 64 v) [] false

/-- A write that does not extend the Journal (R424). -/
def unjournalled (ty off : Nat) : Bool :=
  off = 0x018 || ty = tyMbox || (ty = tyGauge && off = 0x100) || (ty = tyJournal && off = 0x138) ||
  (ty = tyEvc && (off = 0x11C || (0x300 ≤ off && off < 0x400))) ||
  (ty = tyDresser && (off = 0x120 || off = 0x128 || off = 0x12C))

/-- The words of a write that extend the Journal: offset and value, LO first (R425). -/
def journalWords (ty off size val : Nat) : List (Nat × Nat) :=
  ((List.range (size / 4)).map (fun i => (off + 4 * i, val / 2 ^ (32 * i) % 2 ^ 32))).filter (fun x => !unjournalled ty x.1)

/-- The entries of a write queued, and the page's JOURNAL_TAG (R424 to R426). -/
def State.journalWrite (s : State) (p : Page) (ws : List (Nat × Nat)) : State :=
  ws.foldl (fun (t : State) x =>
    let t1 := t.journalPush (p.num * 4096) x.1 x.2
    t1.wrN p 0x02C t1.journal.accepted) s

/-- A register write of the host waits in the PCIe controller: behind others, or for room in the Journal's queue (R426). -/
def State.writeWaits (s : State) (x : HostWrite) : Bool :=
  match barPage x.addr with
  | none => false
  | some p =>
    s.hostReach && s.pageLive p && s.answersWrite p (x.addr % 4096) && sizeOk (x.addr % 4096) x.size && !s.pageConf p &&
    decide (64 < s.journalLevel + (journalWords p.type (x.addr % 4096) x.size x.val).length)

/-- A register write of the host reaches its page, its entry queued first (R424, R426). -/
def State.hostPut (s : State) (addr size val : Nat) : State :=
  match barPage addr with
  | none => s
  | some p =>
    let off := addr % 4096
    let post : Bool := p.type = tyDresser && (off = 0x12C || (off = 0x128 && size = 8))
    if ¬ s.hostReach ∨ ¬ s.pageLive p ∨ ¬ s.answersWrite p off then s
    else
      let s1 := s.hostWakes p (if post then 5 else 4)
      if ¬ sizeOk off size then s1
      else if s1.pageConf p then s1.bump journalPage 0x140 1
      else (s1.journalWrite p (journalWords p.type off size val)).applyWrite .host p off size val

/-- A register written by the host, in the order in which the PCIe controller receives the writes (R426). -/
def State.hostWriteReg (s : State) (addr size val : Nat) : State :=
  let x : HostWrite := { addr := addr, size := size, val := val }
  if s.journal.writes ≠ [] ∨ s.writeWaits x then { s with journal := { s.journal with writes := s.journal.writes ++ [x] } }
  else s.hostPut addr size val

/-- The writes that wait in the PCIe controller go on, oldest first, as far as the Journal's queue has room (R426). -/
def drainWrites (s : State) : List HostWrite → State
  | [] => { s with journal := { s.journal with writes := [] } }
  | x :: rest =>
    if s.writeWaits x then { s with journal := { s.journal with writes := x :: rest } }
    else drainWrites (s.hostPut x.addr x.size x.val) rest

/-- JOURNAL_ENTRY_ABSORBED (R425, R426): the oldest entry extends the hash, captures that waited for it run, and register
writes that waited for room go on. -/
def execJournalEntryAbsorbed (s : State) : Out :=
  if ¬ s.pins.por then .next s
  else
    let s1 := s.absorb
    .next (drainWrites s1 s1.journal.writes)

/-! ### Gauge snapshots (R421, R422) -/

/-- The word that a page latches: WO registers, and registers whose reads have effects, as zero. -/
def State.shadowWord (s : State) (p : Page) (off : Nat) : Nat :=
  if woOff p.type off then 0 else s.pageWord true p off

/-- The pages of die E that the AON clock serves, which no power state stops (Table 15.1; their blocks are the model's
reading: log 107). -/
def aonPage (ty : Nat) : Bool := ty = tyGauge || ty = tyClocks || ty = tyBramble || ty = tySpares || ty = tyTrim

/-- The page's clock is stopped at the latch (Table 15.1): cluster and core pages in DOZE, and die E's pages outside AON while
die E is in retention in SLEEP. -/
def State.clockStopped (s : State) (p : Page) : Bool :=
  match p with
  | .cluster _ _ => s.power = 1
  | .core _ _ => s.power = 1
  | .dieE ty => s.power = 2 && !s.escOn && !aonPage ty
  | _ => false

/-- Data-bearing fields of the page latch as zero (R422). -/
def State.maskedPage (s : State) (p : Page) : Bool :=
  s.pageConf p || (p.type = tyHbmc && s.confHbm (s.rd64 p 0x108))

/-- The latch of a page. -/
def State.latch (s : State) (p : Page) : State :=
  let s1 := (List.range 48).foldl (fun (t : State) i =>
    t.wrN p (0x040 + 4 * i) (s.shadowWord p (0x100 + 4 * i))) s
  (s1.wrN p 0x020 (s.fld p 0x020 0 2 + bitIf (s.clockStopped p) 8 + bitIf (s.maskedPage p) 9)).wrN p 0x024
    (s.rdN gaugePage 0x10C)

/-- SNAPSHOT_LATCH of a page (R421): at or after T, where the page takes part, is armed and not held, and has not latched
this snapshot. -/
def execSnapshotLatch (page : BitVec 18) (s : State) : Out :=
  match pageAt page.toNat with
  | none => .next s
  | some p =>
    if ¬ s.pageLive p ∨ ¬ Config.capShadow p.type ∨ s.fld p 0x020 0 2 ≠ 1 ∨ s.rdN gaugePage 0x10C = 0 ∨
        s.rdN p 0x024 = s.rdN gaugePage 0x10C ∨ s.time.toNat < s.rd64 gaugePage 0x110 then .next s
    else .next (s.latch p)

end Sys2Proof.Machine
end

