-- ==== Sys2Proof/Machine/Access.lean ====
section
/-!
DEFINITION. The acceptance of a thread's outstanding accesses at the memory, device or page they address, in the order
that R29 to R39 require; PARK, its poll and its timeout (R94, R95).
-/

namespace Sys2Proof.Machine

/-! ### Order (R30, R33, R37 to R39) -/

/-- An access is on its way. -/
def Access.isSent (x : Access) : Bool := match x.stage with
  | .sent _ => true
  | _ => false

/-- Two accesses of a thread on a die touch a byte in common. -/
def State.touches (s : State) (d : Nat) (x y : Access) : Bool := s.overlap d (x.addr, x.size) (y.addr, y.size)

/-- The device an access goes to. -/
def State.accDev (s : State) (d : Nat) (x : Access) : Option Nat :=
  match s.place d x.addr with
  | .remote dev _ => some dev
  | _ => none

/-- An access into the host memory window. -/
def State.accHost (s : State) (d : Nat) (x : Access) : Bool :=
  match s.place d x.addr with
  | .host _ => true
  | _ => false

/-- An earlier access y of the thread holds back a later one x: they overlap (R30); y acquires or x releases (R33, R79);
both go to register pages (R39); both are stores into the host window (R38) or to one other device, and y has not left
(R37). -/
def State.holdsBack (s : State) (d : Nat) (y x : Access) : Bool :=
  !y.performed &&
  (s.touches d y x || (x.size = 20 && s.overlap d (y.addr, y.size) (x.src, 24)) || y.acq || x.rel ||
   (s.accReg d y && s.accReg d x) ||
   (y.stores && x.stores && s.accHost d y && s.accHost d x) ||
   (y.stores && x.stores && !y.isSent && (s.accDev d y).isSome && s.accDev d y = s.accDev d x))

/-! ### Acceptance (R20, R32, R80, R81, R291, R474) -/

/-- A load accepted at a memory here, or in the host window. -/
def State.acceptLoad (s : State) (w : Who) (idx : Nat) (x : Access) : State :=
  let g := s.agentOf w 1
  let chk := (List.range x.size).foldl (fun st i => joinCheck st (s.checkPlace g.pid false none (s.place g.die (x.addr + i)))) stOk
  if chk ≠ stOk then s.failAccess w idx chk
  else
    let (s1, st, v) := s.readNum g x.addr x.size
    if st ≠ stOk then s1.failAccess w idx st else s1.gotAccess w idx v

/-- A store accepted at a memory here, or by the PCIe controller. -/
def State.acceptStore (s : State) (w : Who) (idx : Nat) (x : Access) : State :=
  let (s1, st) := s.memWrite (s.agentOf w 1) false none x.addr (Crypto.leBytes x.size x.data.toNat)
  if st ≠ stOk then s1.failAccess w idx st else s1.gotAccess w idx 0

/-- The source partial of an LFADD: three naturally aligned 8-byte reads (R81), each checked by the memory that it is
accepted at (R20). -/
def State.lfaddSource (s : State) (g : Agent) (src : Nat) : MemResult :=
  [src, src + 8, src + 16].foldl (fun (r : MemResult) a =>
    if r.2.1 ≠ stOk ∧ r.1.run.asks.isEmpty then r
    else
      let st := (List.range 8).foldl (fun st i => joinCheck st (r.1.checkPlace g.pid false none (r.1.placeOf g (a + i)))) stOk
      if st ≠ stOk then (r.1, st, [])
      else
        let x := r.1.memRead g a 8
        (x.1, if r.2.1 ≠ stOk then r.2.1 else x.2.1, r.2.2 ++ x.2.2)) (s, stOk, [])

/-- An LFADD whose source is refused or fails: held as any refused atomic, with the source's address (R292, R474). -/
def State.failSource' (s : State) (w : Who) (idx : Nat) (x : Access) (st : Status) : State :=
  let t := s.thread w
  (s.setThread w { t with accs := t.accs.set idx { x with addr := x.src } }).failAccess w idx st

/-- An atomic accepted at the memory that holds its address. -/
def State.acceptAtom (s : State) (w : Who) (idx : Nat) (x : Access) (op : Nat) : State :=
  let g := s.agentOf w 1
  if op = 4 then
    let (s1, st, sb) := s.lfaddSource g x.src
    s.settle (.thread w) (
      if st ≠ stOk then s1.failSource' w idx x st
      else
        let (s2, st2, v) := s1.lfaddAt g x.addr x.src sb
        if st2 ≠ stOk then s2.failAccess w idx st2 else s2.gotAccess w idx v)
  else
    let (s1, st, v) := s.atomicAt g op x.addr x.size x.data.toNat x.cmp.toNat
    if st ≠ stOk then s1.failAccess w idx st else s1.gotAccess w idx v

/-- A register access accepted at its page (R20, R22); a write of a size that registers do not take is ignored (R414), and a
thread's write never extends the Journal (R424). -/
def State.acceptReg (s : State) (w : Who) (idx : Nat) (x : Access) (a : Nat) : State :=
  let st := s.checkReg (s.agentOf w 1).pid x.stores a
  match pageOfAddr a with
  | none => s.failAccess w idx stUnmapped
  | some p =>
    if st ≠ stOk then s.failAccess w idx st
    else if x.stores then
      let s1 := s.gotAccess w idx 0
      if sizeOk (a % 4096) x.size then s1.applyWrite (.thread w) p (a % 4096) x.size (x.data.toNat % 2 ^ (8 * x.size)) else s1
    else
      let (s1, v) := s.readReg (.thread w) p (a % 4096) x.size
      s1.gotAccess w idx v

/-- The function byte of an atomic (Table 3.7): ORDER, SIZE and OP. -/
def Access.func (x : Access) (op : Nat) : Nat := bitIf x.rel 6 + bitIf x.acq 5 + bitIf (x.size = 8) 4 + op

/-- An access sent to another device as RD_REQ, WR or ATOM; it awaits its response under the TAG (R291). An LFADD whose
source is misaligned is a format fault (R81): it reads the destination's flag byte and sends no ATOM (log 60). -/
def State.sendAccess (s : State) (w : Who) (idx : Nat) (x : Access) (dev l : Nat) : State :=
  let g := s.agentOf w 1
  let tag := s.nextTag g.die
  let send := fun (s : State) (ty : BitVec 4) (n : Nat) (op : Nat) (bs : List Byte) =>
    let s1 := s.sendRemote g ty (s.remotePkt g dev l n (BitVec.ofNat 8 op) false bs)
    let y := s1.die g.die
    let s2 := s1.setDie g.die { y with pend := y.pend ++ [{ tag := tag, dst := BitVec.ofNat 6 dev, who := w }] }
    let t := s2.thread w
    s2.setThread w { t with accs := t.accs.set idx { x with stage := .sent tag } }
  let num := fun (v : Word) => Crypto.leBytes x.size v.toNat
  match x.kind with
  | .load _ => send s 1 x.size 0 []
  | .store => send s 3 x.size 0 (num x.data)
  | .atom op =>
    if op = 4 then
      let (s1, st, sb) := s.lfaddSource g x.src
      s.settle (.thread w) (
        if st ≠ stOk then s1.failSource' w idx x st
        else if x.src % 32 ≠ 0 then
          let (s2, st2, fl) := s1.memRead g (x.addr + 19) 1
          if st2 ≠ stOk then s2.failAccess w idx st2
          else s2.gotAccess w idx (stFormat.toNat + 256 * Crypto.leNat fl)
        else send s1 4 20 (x.func 4) (sb.take 20))
    else
      let bs := num x.data ++ (if op = 2 then num x.cmp else [])
      send s 4 bs.length (x.func op.toNat) bs

/-- The acceptance of an outstanding access of a thread, where no earlier one holds it back. In the fail-safe state
nothing leaves for another device (R296). -/
def State.accept (s : State) (w : Who) (idx : Nat) : State :=
  let t := s.thread w
  let d := dieOfCore w.core.toNat
  match t.accs[idx]? with
  | none => s
  | some x =>
    if x.stage ≠ .issued ∨ ¬ s.diesUp ∨ (s.failsafe ∧ (s.accDev d x).isSome) ∨ (t.accs.take idx).any (fun y => s.holdsBack d y x) then s
    else match s.place d x.addr with
      | .reg a => s.acceptReg w idx x a
      | .remote dev l => s.sendAccess w idx x dev l
      | .unmapped => s.failAccess w idx stUnmapped
      | .segment => s.failAccess w idx stSegment
      | _ => match x.kind with
        | .load _ => s.acceptLoad w idx x
        | .store => s.acceptStore w idx x
        | .atom op => s.acceptAtom w idx x op.toNat

/-- ACCESS_ACCEPTANCE (R20, R474). -/
def execAccessAcceptance (w : Who) (idx : Nat) (s : State) : Out := .next (s.accept w idx)

/-- The thread's outstanding access that matches a size, an address and, for a store, a value is accepted. -/
def State.acceptMatch (s : State) (w : Who) (addr size : Nat) (val : Option Nat) : State :=
  let d := dieOfCore w.core.toNat
  let hit := fun (x : Access) =>
    x.stage = .issued && x.size = size &&
    (match s.place d x.addr with
      | .reg a => a = addr
      | _ => false) &&
    (match val with
      | some v => x.stores && x.data.toNat % 2 ^ (8 * size) = v % 2 ^ (8 * size)
      | none => !x.stores)
  match (s.thread w).accs.findIdx? hit with
  | some i => s.accept w i
  | none => s

/-! ### PARK (R94, R95) -/

/-- The 8 bytes that PARK reads: of memory or, from a register page, as the thread reads it. -/
def State.parkRead (s : State) (w : Who) (a : Nat) : State × Status × Nat :=
  let g := s.agentOf w 1
  let chk := s.checkThread w false a 8
  if chk ≠ stOk then (s, chk, 0)
  else match s.place g.die a with
    | .reg l =>
      match pageOfAddr l with
      | some p =>
        let (s1, v) := s.readReg (.thread w) p (l % 4096) 8
        (s1, stOk, v)
      | none => (s, stUnmapped, 0)
    | _ => s.readNum g a 8

/-- PARK (R78, R94): the word is read after the thread's earlier accesses to it; where it differs from rb the thread goes
on with it in rd (log 30), else it sleeps. A word of another device is asked for first, and the thread is passed over
until it comes. -/
def execPark (w : Who) (gp : BitVec 3) (rd ra rb : BitVec 5) (t : BitVec 6) (s0 : State) : Out :=
  .next (threadExec (.park w gp rd ra rb t) w gp [ra, rb] (fun th s =>
    let a := (th.reg ra).toNat
    let d := dieOfCore w.core.toNat
    if a % 8 ≠ 0 then s.faultHere w fcMisaligned a
    else if th.accs.any (fun y => !y.performed && (y.acq || s.overlap d (y.addr, y.size) (a, 8) || s.accReg d y)) then s0
    else
      let (s1, st, v) := s.parkRead w a
      s0.settle (.thread w) (
        if st ≠ stOk then s1.accessFault w st a
        else
          let th1 := s1.thread w
          if v ≠ (th.reg rb).toNat then s1.setThread w (th1.putReg rd (BitVec.ofNat 64 v)).step
          else s1.setThread w { th1.step with st := .waitPark, wait := .park a (th.reg rb) rd t })) s0)

/-- A parked thread wakes with a word in rd; a read that fails faults it at its PARK. -/
def State.unpark (s : State) (w : Who) (a : Nat) (st : Status) (v : Nat) : State :=
  let t := s.thread w
  match t.wait with
  | .park _ _ rd _ =>
    if st ≠ stOk then (s.countSegment st).threadFault w (causeOf st) (t.pc - 4) (BitVec.ofNat 64 a)
    else s.setThread w { t.putReg rd (BitVec.ofNat 64 v) with st := .ready, wait := .none }
  | _ => s

/-- PARK_POLL (R95): an address without a monitor is read again; a changed word wakes the thread. -/
def execParkPoll (w : Who) (s : State) : Out :=
  let t := s.thread w
  match t.st, t.wait with
  | .waitPark, .park a v _ _ =>
    if ¬ s.engOn ∨ s.monitored w a then .next s
    else
      let (s1, st, n) := s.parkRead w a
      .next (s.settle (.thread w) (if st = stOk ∧ n = v.toNat then s1 else s1.unpark w a st n))
  | _, _ => .next s

/-- PARK_TIMEOUT (R94): the timeout of a PARK that set one ends its wait. -/
def execParkTimeout (w : Who) (s : State) : Out :=
  let t := s.thread w
  match t.st, t.wait with
  | .waitPark, .park a _ _ e =>
    if ¬ s.engOn ∨ e = 0 then .next s
    else
      let (s1, st, n) := s.parkRead w a
      .next (s.settle (.thread w) (s1.unpark w a st n))
  | _, _ => .next s

end Sys2Proof.Machine
end

