-- ==== Sys2Proof/Machine/RegRows.lean ====
section
/-!
DEFINITION. The commands that are accesses of registers (R414): a read or write of any register, and the writes that the
table lists as commands of their own. The host's are performed at once; a thread's are the acceptance of the load or
store it has outstanding.
-/

namespace Sys2Proof.Machine

/-- The device address of an offset of a page. -/
def pageAddr (p : Page) (off : Nat) : Nat := regBase + p.num * 4096 + off

/-- A register write of a requester. -/
def State.writeBy (s : State) (r : Req) (addr size val : Nat) : State :=
  match r with
  | .host => s.hostWriteReg addr size val
  | .thread w => s.acceptMatch w addr size (some val)

/-- A register read of a requester. -/
def State.readBy (s : State) (r : Req) (addr size : Nat) : State :=
  match r with
  | .host => s.hostReadReg addr size
  | .thread w => s.acceptMatch w addr size none

/-- REGISTER_READ (R414). -/
def execRegisterRead (r : Req) (addr : Word) (size : Nat) (s : State) : Out := .next (s.readBy r addr.toNat size)

/-- REGISTER_WRITE (R414). -/
def execRegisterWrite (r : Req) (addr : Word) (size : Nat) (val : Word) (s : State) : Out :=
  .next (s.writeBy r addr.toNat size val.toNat)

/-! ### Cores and clusters -/

/-- START: THR_CTRL.START of a thread (R98, R99). -/
def execStart (r : Req) (w : Who) (s : State) : Out :=
  .next (s.writeBy r (pageAddr (s.corePage w.core.toNat 0) (thrOff w)) 4 1)

/-- STOP: THR_CTRL.STOP of a thread (R98, R99). -/
def execStop (r : Req) (w : Who) (s : State) : Out :=
  .next (s.writeBy r (pageAddr (s.corePage w.core.toNat 0) (thrOff w)) 4 2)

/-- IBUF_INVALIDATE: IBUF_CTRL.INVALIDATE of a core (R83, R98). -/
def execIbufInvalidate (r : Req) (core : BitVec 9) (s : State) : Out :=
  .next (s.writeBy r (pageAddr (s.corePage core.toNat 0) 0x100) 4 1)

/-- NSU_SUBMIT: NSU.SUBMIT of a cluster (R169). -/
def execNsuSubmit (r : Req) (cluster : BitVec 5) (addr : Word) (s : State) : Out :=
  .next (s.writeBy r (pageAddr (s.clusterPage cluster.toNat pgNsu) 0x100) 8 addr.toNat)

/-- ROUTER_SUBMIT: ROUTER.SUBMIT of a cluster (R190). -/
def execRouterSubmit (r : Req) (cluster : BitVec 5) (addr : Word) (s : State) : Out :=
  .next (s.writeBy r (pageAddr (s.clusterPage cluster.toNat pgRouter) 0x100) 8 addr.toNat)

/-! ### Dresser -/

/-- QSEL_WRITE (R478). -/
def execQselWrite (r : Req) (die : BitVec 2) (q : BitVec 12) (s : State) : Out :=
  .next (s.writeBy r (pageAddr (dresserPage die.toNat) 0x104) 4 q.toNat)

/-- QCMD CONFIGURE (R278, R478). -/
def execQcmdConfigure (r : Req) (die : BitVec 2) (s : State) : Out :=
  .next (s.writeBy r (pageAddr (dresserPage die.toNat) 0x10C) 4 1)

/-- QCMD FLUSH (R283). -/
def execQcmdFlush (r : Req) (die : BitVec 2) (s : State) : Out :=
  .next (s.writeBy r (pageAddr (dresserPage die.toNat) 0x10C) 4 2)

/-- QCMD DISABLE (R284). -/
def execQcmdDisable (r : Req) (die : BitVec 2) (s : State) : Out :=
  .next (s.writeBy r (pageAddr (dresserPage die.toNat) 0x10C) 4 3)

/-- QCMD ENABLE (R284). -/
def execQcmdEnable (r : Req) (die : BitVec 2) (s : State) : Out :=
  .next (s.writeBy r (pageAddr (dresserPage die.toNat) 0x10C) 4 4)

/-- HOST_POST: POST_ITEM of a die (R282). -/
def execHostPost (die : BitVec 2) (item : Word) (s : State) : Out :=
  .next (s.writeBy .host (pageAddr (dresserPage die.toNat) 0x128) 8 item.toNat)

/-! ### Root of trust and Seedbed -/

/-- DOORBELL (R303). -/
def execDoorbell (s : State) : Out := .next (s.writeBy .host (pageAddr mboxPage 0x100) 4 1)

/-- PSUBMIT (R304). -/
def execPsubmit (w : Who) (addr : Word) (s : State) : Out :=
  .next (s.writeBy (.thread w) (pageAddr mboxPage 0x108) 8 addr.toNat)

/-- KEY_LOAD: KEY_LOAD_CTRL.GO (R316). -/
def execKeyLoad (slot : BitVec 8) (mask : BitVec 16) (s : State) : Out :=
  .next (s.writeBy .host (pageAddr vaultPage 0x140) 4 (2 ^ 31 + slot.toNat * 65536 + mask.toNat))

/-- RAND_READ (R358). -/
def execRandRead (r : Req) (s : State) : Out := .next (s.readBy r (pageAddr seedPage 0x800) 8)

/-- RAW_READ (R363). -/
def execRawRead (r : Req) (s : State) : Out := .next (s.readBy r (pageAddr seedPage 0x148) 8)

/-- RAW_MODE_ENTER: TEST with RAW_REQ set (R362). -/
def execRawModeEnter (src : BitVec 4) (s : State) : Out :=
  .next (s.writeBy .host (pageAddr seedPage 0x140) 4 (src.toNat * 256 + 1))

/-- RAW_MODE_EXIT: TEST with RAW_REQ clear (R362). -/
def execRawModeExit (s : State) : Out := .next (s.writeBy .host (pageAddr seedPage 0x140) 4 (s.rawSrc * 256))

/-! ### Event Controller -/

/-- COMPLETE (R370). -/
def execComplete (src : BitVec 12) (s : State) : Out := .next (s.writeBy .host (pageAddr evcPage 0x11C) 4 src.toNat)

/-- TGT_RD_WRITE (R375). -/
def execTgtRdWrite (t : BitVec 6) (count : BitVec 32) (s : State) : Out :=
  .next (s.writeBy .host (pageAddr evcPage (0x300 + 4 * t.toNat)) 4 count.toNat)

/-- TGT_ENABLE: TGT_CFG of the selected target (Table 14.4, R375). -/
def execTgtEnable (cfg : BitVec 32) (s : State) : Out := .next (s.writeBy .host (pageAddr evcPage 0x140) 4 cfg.toNat)

/-- EN_SET (R381). -/
def execEnSet (src : BitVec 12) (s : State) : Out := .next (s.writeBy .host (pageAddr evcPage 0x114) 4 src.toNat)

/-- EN_CLR (R380, R381). -/
def execEnClr (src : BitVec 12) (s : State) : Out := .next (s.writeBy .host (pageAddr evcPage 0x118) 4 src.toNat)

/-- ENPEND_WRITE (R382). -/
def execEnpendWrite (n : BitVec 8) (val : BitVec 32) (s : State) : Out :=
  .next (s.writeBy .host (pageAddr evcPage (0x400 + 4 * n.toNat)) 4 val.toNat)

/-- GATE_HOLD_WRITE (R381). -/
def execGateHoldWrite (hold : Bool) (s : State) : Out := .next (s.writeBy .host (pageAddr evcPage 0x104) 4 (bitIf hold 0))

/-! ### Gauge, Journal and the common header -/

/-- GAUGE_TRIG: TRIG.GO (R420). -/
def execGaugeTrig (s : State) : Out := .next (s.writeBy .host (pageAddr gaugePage 0x100) 4 1)

/-- JOURNAL_CAPTURE: CAPTURE.GO (R427). -/
def execJournalCapture (s : State) : Out := .next (s.writeBy .host (pageAddr journalPage 0x138) 4 1)

/-- The address of a word of a page by its number. -/
def numAddr (page : BitVec 18) (off : Nat) : Nat := regBase + page.toNat * 4096 + off

/-- DISABLE_REQ (R418). -/
def execDisableReq (r : Req) (page : BitVec 18) (s : State) : Out := .next (s.writeBy r (numAddr page 0x008) 4 2)

/-- DISABLE_COMPLETE (R418): BUSY is clear, and ENABLE and DISABLE_REQ clear together. -/
def execDisableComplete (page : BitVec 18) (s : State) : Out :=
  match pageAt page.toNat with
  | some p => .next (if s.pageLive p then s.endDisable p else s)
  | none => .next s

/-- ENABLE_RESUME (R418). -/
def execEnableResume (r : Req) (page : BitVec 18) (s : State) : Out := .next (s.writeBy r (numAddr page 0x008) 4 1)

/-- SOFT_RESET (R419). -/
def execSoftReset (r : Req) (page : BitVec 18) (s : State) : Out := .next (s.writeBy r (numAddr page 0x008) 4 4)

/-- EVT_SET (R416). -/
def execEvtSet (r : Req) (page : BitVec 18) (val : BitVec 32) (s : State) : Out :=
  .next (s.writeBy r (numAddr page 0x01C) 4 val.toNat)

/-- EVT_PENDING_CLEAR (R416). -/
def execEvtPendingClear (r : Req) (page : BitVec 18) (val : BitVec 32) (s : State) : Out :=
  .next (s.writeBy r (numAddr page 0x018) 4 val.toNat)

end Sys2Proof.Machine
end

