-- ==== Sys2Proof/Machine/Dispatch.lean ====
section
/-!
DEFINITION. The meaning of every command: one arm for each constructor of Instr, each a direct call.
-/

namespace Sys2Proof.Machine

/-- The effect of a command on everything but the queue. -/
def exec (i : Instr) (s : State) : Host.Outcome State Fault Refusal :=
  match i with
  | .add w gp rd ra rb => Sys2Proof.Machine.execAdd w gp rd ra rb s
  | .sub w gp rd ra rb => Sys2Proof.Machine.execSub w gp rd ra rb s
  | .and w gp rd ra rb => Sys2Proof.Machine.execAnd w gp rd ra rb s
  | .or w gp rd ra rb => Sys2Proof.Machine.execOr w gp rd ra rb s
  | .xor w gp rd ra rb => Sys2Proof.Machine.execXor w gp rd ra rb s
  | .shl w gp rd ra rb => Sys2Proof.Machine.execShl w gp rd ra rb s
  | .shr w gp rd ra rb => Sys2Proof.Machine.execShr w gp rd ra rb s
  | .sra w gp rd ra rb => Sys2Proof.Machine.execSra w gp rd ra rb s
  | .mul w gp rd ra rb => Sys2Proof.Machine.execMul w gp rd ra rb s
  | .mulhu w gp rd ra rb => Sys2Proof.Machine.execMulhu w gp rd ra rb s
  | .min w gp rd ra rb => Sys2Proof.Machine.execMin w gp rd ra rb s
  | .max w gp rd ra rb => Sys2Proof.Machine.execMax w gp rd ra rb s
  | .addi w gp rd ra imm => Sys2Proof.Machine.execAddi w gp rd ra imm s
  | .andi w gp rd ra imm => Sys2Proof.Machine.execAndi w gp rd ra imm s
  | .ori w gp rd ra imm => Sys2Proof.Machine.execOri w gp rd ra imm s
  | .xori w gp rd ra imm => Sys2Proof.Machine.execXori w gp rd ra imm s
  | .shli w gp rd ra sh => Sys2Proof.Machine.execShli w gp rd ra sh s
  | .shri w gp rd ra sh => Sys2Proof.Machine.execShri w gp rd ra sh s
  | .srai w gp rd ra sh => Sys2Proof.Machine.execSrai w gp rd ra sh s
  | .movz w gp rd hw imm => Sys2Proof.Machine.execMovz w gp rd hw imm s
  | .movk w gp rd hw imm => Sys2Proof.Machine.execMovk w gp rd hw imm s
  | .cmp w gp pd pe ra rb cond => Sys2Proof.Machine.execCmp w gp pd pe ra rb cond s
  | .cmpi w gp pd pe ra cond imm => Sys2Proof.Machine.execCmpi w gp pd pe ra cond imm s
  | .plog w gp pd pa pb op => Sys2Proof.Machine.execPlog w gp pd pa pb op s
  | .ld8 w gp rd ra imm => Sys2Proof.Machine.execLd8 w gp rd ra imm s
  | .ld16 w gp rd ra imm => Sys2Proof.Machine.execLd16 w gp rd ra imm s
  | .ld32 w gp rd ra imm => Sys2Proof.Machine.execLd32 w gp rd ra imm s
  | .ld64 w gp rd ra imm => Sys2Proof.Machine.execLd64 w gp rd ra imm s
  | .lds8 w gp rd ra imm => Sys2Proof.Machine.execLds8 w gp rd ra imm s
  | .lds16 w gp rd ra imm => Sys2Proof.Machine.execLds16 w gp rd ra imm s
  | .lds32 w gp rd ra imm => Sys2Proof.Machine.execLds32 w gp rd ra imm s
  | .st8 w gp rs ra imm => Sys2Proof.Machine.execSt8 w gp rs ra imm s
  | .st16 w gp rs ra imm => Sys2Proof.Machine.execSt16 w gp rs ra imm s
  | .st32 w gp rs ra imm => Sys2Proof.Machine.execSt32 w gp rs ra imm s
  | .st64 w gp rs ra imm => Sys2Proof.Machine.execSt64 w gp rs ra imm s
  | .lda w gp rd ra size sext => Sys2Proof.Machine.execLda w gp rd ra size sext s
  | .stl w gp rs ra size => Sys2Proof.Machine.execStl w gp rs ra size s
  | .fadd w gp rd ra rb order is64 => Sys2Proof.Machine.execFadd w gp rd ra rb order is64 s
  | .swap w gp rd ra rb order is64 => Sys2Proof.Machine.execSwap w gp rd ra rb order is64 s
  | .cas w gp rd ra rb order is64 => Sys2Proof.Machine.execCas w gp rd ra rb order is64 s
  | .atomMax w gp rd ra rb order is64 => Sys2Proof.Machine.execAtomMax w gp rd ra rb order is64 s
  | .atomLfadd w gp rd ra rb order => Sys2Proof.Machine.execAtomLfadd w gp rd ra rb order s
  | .br w gp off => Sys2Proof.Machine.execBr w gp off s
  | .call w gp off => Sys2Proof.Machine.execCall w gp off s
  | .jalr w gp rd ra => Sys2Proof.Machine.execJalr w gp rd ra s
  | .beq w gp ra rb off => Sys2Proof.Machine.execBeq w gp ra rb off s
  | .bne w gp ra rb off => Sys2Proof.Machine.execBne w gp ra rb off s
  | .blt w gp ra rb off => Sys2Proof.Machine.execBlt w gp ra rb off s
  | .bge w gp ra rb off => Sys2Proof.Machine.execBge w gp ra rb off s
  | .fenceAcq w gp => Sys2Proof.Machine.execFenceAcq w gp s
  | .fenceRel w gp => Sys2Proof.Machine.execFenceRel w gp s
  | .fenceFull w gp => Sys2Proof.Machine.execFenceFull w gp s
  | .ifence w gp => Sys2Proof.Machine.execIfence w gp s
  | .barSync w gp ra rb => Sys2Proof.Machine.execBarSync w gp ra rb s
  | .barArrive w gp ra rb => Sys2Proof.Machine.execBarArrive w gp ra rb s
  | .issue w gp ra rb remote => Sys2Proof.Machine.execIssue w gp ra rb remote s
  | .waitc w gp cnt ra imm => Sys2Proof.Machine.execWaitc w gp cnt ra imm s
  | .park w gp rd ra rb t => Sys2Proof.Machine.execPark w gp rd ra rb t s
  | .parkTimeout w => Sys2Proof.Machine.execParkTimeout w s
  | .parkPoll w => Sys2Proof.Machine.execParkPoll w s
  | .next w gp rd ra pd nowait => Sys2Proof.Machine.execNext w gp rd ra pd nowait s
  | .put w gp ra rb => Sys2Proof.Machine.execPut w gp ra rb s
  | .mfs w gp rd sr => Sys2Proof.Machine.execMfs w gp rd sr s
  | .mts w gp sr ra => Sys2Proof.Machine.execMts w gp sr ra s
  | .halt w gp => Sys2Proof.Machine.execHalt w gp s
  | .loadReturn w idx => Sys2Proof.Machine.execLoadReturn w idx s
  | .fetchLineReturn w => Sys2Proof.Machine.execFetchLineReturn w s
  | .start r w => Sys2Proof.Machine.execStart r w s
  | .stop r w => Sys2Proof.Machine.execStop r w s
  | .ibufInvalidate r core => Sys2Proof.Machine.execIbufInvalidate r core s
  | .engineCompletion core eng waits => Sys2Proof.Machine.execEngineCompletion core eng waits s
  | .opn core => Sys2Proof.Machine.execOpn core s
  | .mma core => Sys2Proof.Machine.execMma core s
  | .smma core => Sys2Proof.Machine.execSmma core s
  | .exportSlot core => Sys2Proof.Machine.execExportSlot core s
  | .importSlot core => Sys2Proof.Machine.execImportSlot core s
  | .drain core => Sys2Proof.Machine.execDrain core s
  | .loadRps core => Sys2Proof.Machine.execLoadRps core s
  | .dropRps core => Sys2Proof.Machine.execDropRps core s
  | .vadd core => Sys2Proof.Machine.execVadd core s
  | .vsub core => Sys2Proof.Machine.execVsub core s
  | .vmul core => Sys2Proof.Machine.execVmul core s
  | .vconv core => Sys2Proof.Machine.execVconv core s
  | .ntt core => Sys2Proof.Machine.execNtt core s
  | .intt core => Sys2Proof.Machine.execIntt core s
  | .auto core => Sys2Proof.Machine.execAuto core s
  | .basext core => Sys2Proof.Machine.execBasext core s
  | .decomp core => Sys2Proof.Machine.execDecomp core s
  | .cadd core => Sys2Proof.Machine.execCadd core s
  | .csub core => Sys2Proof.Machine.execCsub core s
  | .cmul core => Sys2Proof.Machine.execCmul core s
  | .padd core => Sys2Proof.Machine.execPadd core s
  | .pmul core => Sys2Proof.Machine.execPmul core s
  | .cauto core => Sys2Proof.Machine.execCauto core s
  | .cntt core => Sys2Proof.Machine.execCntt core s
  | .moddown core => Sys2Proof.Machine.execModdown core s
  | .keyswitch core => Sys2Proof.Machine.execKeyswitch core s
  | .macc core => Sys2Proof.Machine.execMacc core s
  | .scatterAdd core => Sys2Proof.Machine.execScatterAdd core s
  | .lagrange core => Sys2Proof.Machine.execLagrange core s
  | .lfadd core => Sys2Proof.Machine.execLfadd core s
  | .seedLoad core => Sys2Proof.Machine.execSeedLoad core s
  | .seedClear core => Sys2Proof.Machine.execSeedClear core s
  | .expand core => Sys2Proof.Machine.execExpand core s
  | .sampleCount core => Sys2Proof.Machine.execSampleCount core s
  | .sampleIndex core => Sys2Proof.Machine.execSampleIndex core s
  | .copy core => Sys2Proof.Machine.execCopy core s
  | .fill core => Sys2Proof.Machine.execFill core s
  | .nsuSubmit r cluster addr => Sys2Proof.Machine.execNsuSubmit r cluster addr s
  | .addNoise cluster => Sys2Proof.Machine.execAddNoise cluster s
  | .unfreeze cluster => Sys2Proof.Machine.execUnfreeze cluster s
  | .unfreezeComplete cluster => Sys2Proof.Machine.execUnfreezeComplete cluster s
  | .sample cluster => Sys2Proof.Machine.execSample cluster s
  | .nsuCompletion cluster waits => Sys2Proof.Machine.execNsuCompletion cluster waits s
  | .nsuReseed cluster => Sys2Proof.Machine.execNsuReseed cluster s
  | .routerSubmit r cluster addr => Sys2Proof.Machine.execRouterSubmit r cluster addr s
  | .gateLoad cluster => Sys2Proof.Machine.execGateLoad cluster s
  | .route cluster => Sys2Proof.Machine.execRoute cluster s
  | .routerItemDispatch cluster => Sys2Proof.Machine.execRouterItemDispatch cluster s
  | .routerCompletion cluster => Sys2Proof.Machine.execRouterCompletion cluster s
  | .accessAcceptance w idx => Sys2Proof.Machine.execAccessAcceptance w idx s
  | .pageReencrypt addr => Sys2Proof.Machine.execPageReencrypt addr s
  | .pageRetire stack lpage => Sys2Proof.Machine.execPageRetire stack lpage s
  | .eccWriteback addr => Sys2Proof.Machine.execEccWriteback addr s
  | .scrubComplete idx => Sys2Proof.Machine.execScrubComplete idx s
  | .send die q => Sys2Proof.Machine.execSend die q s
  | .waitCount die q => Sys2Proof.Machine.execWaitCount die q s
  | .queueSetup die q => Sys2Proof.Machine.execQueueSetup die q s
  | .peerSetup die q => Sys2Proof.Machine.execPeerSetup die q s
  | .peerCmdRekey die q => Sys2Proof.Machine.execPeerCmdRekey die q s
  | .peerCmdReset die q => Sys2Proof.Machine.execPeerCmdReset die q s
  | .peerCmdRemove die q => Sys2Proof.Machine.execPeerCmdRemove die q s
  | .peerCmdQuery die q => Sys2Proof.Machine.execPeerCmdQuery die q s
  | .recv die q => Sys2Proof.Machine.execRecv die q s
  | .sendPacketTransmit peer => Sys2Proof.Machine.execSendPacketTransmit peer s
  | .mitreData f => Sys2Proof.Machine.execMitreData f s
  | .mitreZero f => Sys2Proof.Machine.execMitreZero f s
  | .mitreAck f => Sys2Proof.Machine.execMitreAck f s
  | .creditReq f => Sys2Proof.Machine.execCreditReq f s
  | .nonMitreFrame f => Sys2Proof.Machine.execNonMitreFrame f s
  | .pctFetchComplete peer => Sys2Proof.Machine.execPctFetchComplete peer s
  | .ackDelayExpiry peer => Sys2Proof.Machine.execAckDelayExpiry peer s
  | .retransmitTimeout peer => Sys2Proof.Machine.execRetransmitTimeout peer s
  | .messageAbandon peer msn => Sys2Proof.Machine.execMessageAbandon peer msn s
  | .rxKeyRelease peer => Sys2Proof.Machine.execRxKeyRelease peer s
  | .rekeyDue peer => Sys2Proof.Machine.execRekeyDue peer s
  | .keyExhausted peer => Sys2Proof.Machine.execKeyExhausted peer s
  | .cqSpaceResume die cq => Sys2Proof.Machine.execCqSpaceResume die cq s
  | .portUp port status => Sys2Proof.Machine.execPortUp port status s
  | .portDown port status => Sys2Proof.Machine.execPortDown port status s
  | .qselWrite r die q => Sys2Proof.Machine.execQselWrite r die q s
  | .qcmdConfigure r die => Sys2Proof.Machine.execQcmdConfigure r die s
  | .qcmdFlush r die => Sys2Proof.Machine.execQcmdFlush r die s
  | .qcmdDisable r die => Sys2Proof.Machine.execQcmdDisable r die s
  | .qcmdEnable r die => Sys2Proof.Machine.execQcmdEnable r die s
  | .hostPost die item => Sys2Proof.Machine.execHostPost die item s
  | .rdReq die lane p => Sys2Proof.Machine.execRdReq die lane p s
  | .rdResp die lane p => Sys2Proof.Machine.execRdResp die lane p s
  | .wr die lane p => Sys2Proof.Machine.execWr die lane p s
  | .joistAtom die lane p => Sys2Proof.Machine.execJoistAtom die lane p s
  | .wrAck die lane p => Sys2Proof.Machine.execWrAck die lane p s
  | .linkReplay die lane => Sys2Proof.Machine.execLinkReplay die lane s
  | .linkDown die lane => Sys2Proof.Machine.execLinkDown die lane s
  | .linkUp die lane dev partnerLane => Sys2Proof.Machine.execLinkUp die lane dev partnerLane s
  | .doorbell => Sys2Proof.Machine.execDoorbell s
  | .psubmit w addr => Sys2Proof.Machine.execPsubmit w addr s
  | .getInfo => Sys2Proof.Machine.execGetInfo s
  | .derive => Sys2Proof.Machine.execDerive s
  | .invalidate => Sys2Proof.Machine.execInvalidate s
  | .invalidateComplete => Sys2Proof.Machine.execInvalidateComplete s
  | .rearm => Sys2Proof.Machine.execRearm s
  | .slotDestroy => Sys2Proof.Machine.execSlotDestroy s
  | .keyToSeed => Sys2Proof.Machine.execKeyToSeed s
  | .ownerReplace => Sys2Proof.Machine.execOwnerReplace s
  | .ownerConfirm => Sys2Proof.Machine.execOwnerConfirm s
  | .ownerWindowEnd slot => Sys2Proof.Machine.execOwnerWindowEnd slot s
  | .wrapToOwner => Sys2Proof.Machine.execWrapToOwner s
  | .chalresp => Sys2Proof.Machine.execChalresp s
  | .partCreate => Sys2Proof.Machine.execPartCreate s
  | .partTeardown => Sys2Proof.Machine.execPartTeardown s
  | .bundleLoad => Sys2Proof.Machine.execBundleLoad s
  | .attest => Sys2Proof.Machine.execAttest s
  | .openRegion => Sys2Proof.Machine.execOpenRegion s
  | .trimRead => Sys2Proof.Machine.execTrimRead s
  | .trimWrite => Sys2Proof.Machine.execTrimWrite s
  | .coreRemap => Sys2Proof.Machine.execCoreRemap s
  | .clusterRemap => Sys2Proof.Machine.execClusterRemap s
  | .laneSpare => Sys2Proof.Machine.execLaneSpare s
  | .faultLogRead => Sys2Proof.Machine.execFaultLogRead s
  | .powerSetActive => Sys2Proof.Machine.execPowerSetActive s
  | .powerSetDoze => Sys2Proof.Machine.execPowerSetDoze s
  | .powerSetSleep => Sys2Proof.Machine.execPowerSetSleep s
  | .dieERetentionReturn => Sys2Proof.Machine.execDieERetentionReturn s
  | .keyLoad slot mask => Sys2Proof.Machine.execKeyLoad slot mask s
  | .remaskSweep => Sys2Proof.Machine.execRemaskSweep s
  | .remaskAgeLimit => Sys2Proof.Machine.execRemaskAgeLimit s
  | .brambleAlarm sensor keyop => Sys2Proof.Machine.execBrambleAlarm sensor keyop s
  | .sourceBlockEnd samples => Sys2Proof.Machine.execSourceBlockEnd samples s
  | .healthTestFail src samples => Sys2Proof.Machine.execHealthTestFail src samples s
  | .sourceStartupPass src => Sys2Proof.Machine.execSourceStartupPass src s
  | .seedConditioned => Sys2Proof.Machine.execSeedConditioned s
  | .drbgReseed => Sys2Proof.Machine.execDrbgReseed s
  | .randRead r => Sys2Proof.Machine.execRandRead r s
  | .rawRead r => Sys2Proof.Machine.execRawRead r s
  | .rawModeEnter src => Sys2Proof.Machine.execRawModeEnter src s
  | .rawModeExit => Sys2Proof.Machine.execRawModeExit s
  | .eventLineSample src => Sys2Proof.Machine.execEventLineSample src s
  | .eventRoute => Sys2Proof.Machine.execEventRoute s
  | .moderationTimeout t => Sys2Proof.Machine.execModerationTimeout t s
  | .complete src => Sys2Proof.Machine.execComplete src s
  | .tgtRdWrite t count => Sys2Proof.Machine.execTgtRdWrite t count s
  | .tgtEnable cfg => Sys2Proof.Machine.execTgtEnable cfg s
  | .enSet src => Sys2Proof.Machine.execEnSet src s
  | .enClr src => Sys2Proof.Machine.execEnClr src s
  | .enpendWrite n val => Sys2Proof.Machine.execEnpendWrite n val s
  | .gateHoldWrite hold => Sys2Proof.Machine.execGateHoldWrite hold s
  | .hostD3hot => Sys2Proof.Machine.execHostD3hot s
  | .busMasterResume => Sys2Proof.Machine.execBusMasterResume s
  | .gaugeTrig => Sys2Proof.Machine.execGaugeTrig s
  | .gaugeInEdge => Sys2Proof.Machine.execGaugeInEdge s
  | .snapshotLatch page => Sys2Proof.Machine.execSnapshotLatch page s
  | .gaugeDone => Sys2Proof.Machine.execGaugeDone s
  | .registerWrite r addr size val => Sys2Proof.Machine.execRegisterWrite r addr size val s
  | .journalCapture => Sys2Proof.Machine.execJournalCapture s
  | .disableReq r page => Sys2Proof.Machine.execDisableReq r page s
  | .disableComplete page => Sys2Proof.Machine.execDisableComplete page s
  | .enableResume r page => Sys2Proof.Machine.execEnableResume r page s
  | .softReset r page => Sys2Proof.Machine.execSoftReset r page s
  | .evtSet r page val => Sys2Proof.Machine.execEvtSet r page val s
  | .evtPendingClear r page val => Sys2Proof.Machine.execEvtPendingClear r page val s
  | .bar2Read off len => Sys2Proof.Machine.execBar2Read off len s
  | .bar2Write off data => Sys2Proof.Machine.execBar2Write off data s
  | .mctpMessage msg => Sys2Proof.Machine.execMctpMessage msg s
  | .pldmFirmwareUpdate img => Sys2Proof.Machine.execPldmFirmwareUpdate img s
  | .wearThreshold kind unit => Sys2Proof.Machine.execWearThreshold kind unit s
  | .wearHotTick kind unit celsius => Sys2Proof.Machine.execWearHotTick kind unit celsius s
  | .sparesRecordWrite => Sys2Proof.Machine.execSparesRecordWrite s
  | .wearCounterSave => Sys2Proof.Machine.execWearCounterSave s
  | .ledgerEpoch d => Sys2Proof.Machine.execLedgerEpoch d s
  | .tempReading celsius => Sys2Proof.Machine.execTempReading celsius s
  | .pllLockLoss die pll => Sys2Proof.Machine.execPllLockLoss die pll s
  | .controlUe pageId => Sys2Proof.Machine.execControlUe pageId s
  | .rtpFirmwareException code => Sys2Proof.Machine.execRtpFirmwareException code s
  | .rtpWatchdogExpiry code => Sys2Proof.Machine.execRtpWatchdogExpiry code s
  | .thermtrip => Sys2Proof.Machine.execThermtrip s
  | .porAssert cause => Sys2Proof.Machine.execPorAssert cause s
  | .porRelease env => Sys2Proof.Machine.execPorRelease env s
  | .pcieReset kind => Sys2Proof.Machine.execPcieReset kind s
  | .functionLevelReset => Sys2Proof.Machine.execFunctionLevelReset s
  | .pcieLinkUp width speed => Sys2Proof.Machine.execPcieLinkUp width speed s
  | .pcieLinkDown => Sys2Proof.Machine.execPcieLinkDown s
  | .perstRelease => Sys2Proof.Machine.execPerstRelease s
  | .busMasterDisable => Sys2Proof.Machine.execBusMasterDisable s
  | .vcCreditGrant die lane cls cells => Sys2Proof.Machine.execVcCreditGrant die lane cls cells s
  | .teardownLimit => Sys2Proof.Machine.execTeardownLimit s
  | .journalEntryAbsorbed => Sys2Proof.Machine.execJournalEntryAbsorbed s
  | .failureLeavesWindow => Sys2Proof.Machine.execFailureLeavesWindow s
  | .drbgGenerate => Sys2Proof.Machine.execDrbgGenerate s
  | .testAccessUnlock => Sys2Proof.Machine.execTestAccessUnlock s
  | .registerRead r addr size => Sys2Proof.Machine.execRegisterRead r addr size s

end Sys2Proof.Machine
end

