-- ==== Sys2Proof/Machine/Step.lean ====
section
/-!
DEFINITION. One step of the block: the command at the front of the queue runs on the state whose queue is the
rest; on an empty queue one AON cycle passes (log 1).
-/

namespace Sys2Proof.Machine

/-- REMASK_STAT.AGE counts whole 0.25 ms since the last complete sweep while die E is awake, saturating (R314, R402). -/
def State.ageTick (s : State) : State :=
  if s.escOn then
    let n := s.seed.ageCycles + 1
    { s with seed := { s.seed with ageCycles := n } }.setFld vaultPage 0x114 0 16 (min 0xFFFF (n / 6250))
  else s

/-- The threads whose last result had still to come can issue again (R70, log 2). -/
def State.latTick (s : State) : State :=
  (s.threads.filter (fun e => e.2.lat)).foldl (fun (t : State) e => t.setThread (whoOf e.1) { e.2 with lat := false }) s

/-- TIME lies within the four AON cycles from a T (R423). -/
def State.pulse (s : State) (t : Nat) : Bool := t ≤ s.time.toNat && s.time.toNat < t + 4

/-- `GAUGE_OUT` is high for four AON cycles from each T, where CFG.OUT_EN is set (R423, Table 19.4). -/
def State.pinTick (s : State) : State :=
  let last := s.rdN gaugePage 0x10C ≠ 0 && s.pulse (s.rd64 gaugePage 0x110)
  let prev := (s.pins.gaugePrev.map (fun t => s.pulse t.toNat)).getD false
  { s with pins := { s.pins with gaugeOut :=
      ((s.mode = 1 && s.power ≠ 2) || s.mode = 3) && (s.rd gaugePage 0x104).getLsbD 18 && (last || prev) } }

/-- One AON cycle without a command (log 1): TIME counts one, start-up takes its next stage (R454), ENG its 64 cycles while it runs, what DOZE held arrives once
ENG runs again (R396), and what befalls the device from outside its logic happens (log 104). -/
def tick (s : State) : State :=
  if s.pins.por then
    let s1 := { s with time := s.time + 1, eng := if s.engOn then s.eng + 64 else s.eng }
    let s2 := if s1.engOn then ((List.range 4).foldl (fun (t : State) d => t.drainHeld d) s1).latTick.admitTick else s1
    (s2.ageTick.bootTick.pinTick).upset (Config.upset s.fresh s.time.toNat)
  else s

/-- Take the command at the front of the queue and run it; with none waiting, let an AON cycle pass. -/
def step (s : State) : Host.Outcome State Fault Refusal :=
  match s.pending with
  | [] => .next (tick s)
  | c :: rest => exec c { s with pending := rest }

/-- The state with the command that a table word spells at the front of its queue; the table gives its rows no
bits, so no word spells one (decodeTableWord). -/
def State.withFetchWord (s : State) (nbits w : Nat) : State :=
  match decodeTableWord nbits w with
  | some c => { s with pending := c :: s.pending }
  | none => s

end Sys2Proof.Machine
end

