-- ==== Sys2Proof/Safety.lean ====
section
/-!
DEFINITION. What a safe run of the block is, in the terms of the claims: a step that answers a next state, and the
canonical form of the block's memories.
-/

namespace Sys2Proof.Machine

/-- The outcome of a step is a next state. -/
def Safe (o : Host.Outcome State Fault Refusal) : Prop := ∃ t, o = .next t

/-- Device memory in canonical form: rising addresses, no byte listed that reads as an unlisted one does. -/
abbrev Memory.wf (m : List Host.Cell) : Prop := Sparse.wf (fun _ => (0 : Byte)) m

/-- Host memory in canonical form. -/
abbrev Memory.hostWf (m : Sparse Byte) : Prop := Sparse.wf Config.hostByte m

end Sys2Proof.Machine
end

