-- ==== Sys2Proof/WellFormed.lean ====
section
/-!
DEFINITION. Which commands can be given: the operands that name a unit, a lane, a source, a page frame or a code must name
one that the spec gives the device, and the fields of an instruction must be ones that R77 allows.
-/

namespace Sys2Proof

/-- A comparison's fields (R77): a condition of Table 3.5, and two predicates that differ or are both p0. -/
def cmpWf (pd pe : BitVec 3) (cond : BitVec 4) : Bool := cond ≤ 9 && (pd ≠ pe || pd = 0)

/-- The number of units of a wear kind (Table 17.2): cores, clusters, Joist lanes, entropy sources, PLLs, sensors. -/
def wearUnits (kind : Nat) : Nat := [612, 36, 136, 10, 15, 36].getD kind 0

/-- An entropy source: 0 to 9 (R351). -/
def sourceWf (src : BitVec 4) : Bool := src.toNat < 10

/-- A Joist lane: 0 to 33. -/
def laneWf (lane : BitVec 6) : Bool := lane.toNat < 34

/-- A command is well formed. -/
def Instr.wf : Instr → Bool
  | .cmp _ _ pd pe _ _ cond => cmpWf pd pe cond
  | .cmpi _ _ pd pe _ cond _ => cmpWf pd pe cond
  | .park _ _ _ _ _ t => t.toNat ≤ 40
  | .loadReturn _ idx => idx < 12
  | .accessAcceptance _ idx => idx < 12
  | .pageRetire _ lpage => lpage < 15360
  | .rdReq _ lane _ => laneWf lane
  | .rdResp _ lane _ => laneWf lane
  | .wr _ lane _ => laneWf lane
  | .joistAtom _ lane _ => laneWf lane
  | .wrAck _ lane _ => laneWf lane
  | .linkReplay _ lane => laneWf lane
  | .linkDown _ lane => laneWf lane
  | .linkUp _ lane _ partnerLane => laneWf lane && laneWf partnerLane
  | .vcCreditGrant _ lane _ _ => laneWf lane
  | .sourceBlockEnd samples => samples.all (fun x => sourceWf x.1)
  | .healthTestFail src _ => sourceWf src
  | .sourceStartupPass src => sourceWf src
  | .rawModeEnter src => sourceWf src
  | .brambleAlarm sensor _ => sensor ≠ 0 && sensor ≠ 7
  | .wearThreshold kind unit => unit.toNat < wearUnits kind.toNat
  | .wearHotTick kind unit _ => unit.toNat < wearUnits kind.toNat
  | .pllLockLoss die pll => die.toNat ≤ 4 && pll.toNat ≤ 2
  | .porAssert cause => cause.toNat ≤ 2
  | .pcieLinkUp width speed =>
    [1, 2, 4, 8, 16].contains width.toNat && 1 ≤ speed.toNat && speed.toNat ≤ 6
  | .bar2Read _ len => 0 < len
  | .bar2Write _ data => !data.isEmpty
  | _ => true

end Sys2Proof
end

