-- ==== Sys2Proof/Certificates/Slice0/Tables.lean ====
section
/-!
DEFINITION. Tables that the statements read: for the instructions of the threads, what the tables of chapter 03 say of
each, written in numbers and integers beside the machine's own definitions.
-/

namespace Sys2Proof.Spec

open Sys2Proof.Machine

/-- The canonical form of device memory, which makes equal memories equal data. -/
def MemoryInv (s : State) : Prop := Memory.wf s.mem

/-! ### Power-on reset -/

/-- The words that the registers' tables reset to a value other than 0: the page type, or none for every page, the offset and
the value (the common header, Table 16.2; CFG and CFG2 of Mitre; the page pool; the free cells; REMASK_CFG; SESSION; RESEED; Gauge's CFG;
the limits, admissions and thresholds of the Ledger; WAKE_MASK). -/
def resetRows : List (Option Nat × Nat × Nat) :=
  [(none, 0x008, 1), (none, 0x020, 1), (some 0x20, 0x104, 0x37190008), (some 0x20, 0x108, 64), (some 0x18, 0x110, 256 * 65536),
   (some 0x23, 0x100, 40704), (some 0x03, 0x110, 4), (some 0x30, 0x118, 1), (some 0x04, 0x108, 20),
   (some 0x06, 0x104, 2 ^ 19 + 8), (some 0x0B, 0x100, 1800), (some 0x0B, 0x104, 2050),
   (some 0x0B, 0x110, 16 * 65536 + 16 * 256 + 16), (some 0x0B, 0x11C, 110 * 256 + 100), (some 0x0A, 0x120, 3)]

/-- The reset value of a register word, as the tables of chapters 03 to 18 give it. -/
def resetWord (ty off : Nat) : Nat :=
  ((resetRows.find? (fun r => (r.1.isNone || r.1 = some ty) && r.2.1 = off)).map (fun r => r.2.2)).getD 0

/-! ### Thread instructions -/

/-- The thread and the guard of a command that an instruction word spells (Table 3.5). -/
def threadRow : Instr → Option (Who × BitVec 3)
  | .add w gp _ _ _ => some (w, gp)
  | .sub w gp _ _ _ => some (w, gp)
  | .and w gp _ _ _ => some (w, gp)
  | .or w gp _ _ _ => some (w, gp)
  | .xor w gp _ _ _ => some (w, gp)
  | .shl w gp _ _ _ => some (w, gp)
  | .shr w gp _ _ _ => some (w, gp)
  | .sra w gp _ _ _ => some (w, gp)
  | .mul w gp _ _ _ => some (w, gp)
  | .mulhu w gp _ _ _ => some (w, gp)
  | .min w gp _ _ _ => some (w, gp)
  | .max w gp _ _ _ => some (w, gp)
  | .addi w gp _ _ _ => some (w, gp)
  | .andi w gp _ _ _ => some (w, gp)
  | .ori w gp _ _ _ => some (w, gp)
  | .xori w gp _ _ _ => some (w, gp)
  | .shli w gp _ _ _ => some (w, gp)
  | .shri w gp _ _ _ => some (w, gp)
  | .srai w gp _ _ _ => some (w, gp)
  | .movz w gp _ _ _ => some (w, gp)
  | .movk w gp _ _ _ => some (w, gp)
  | .cmp w gp _ _ _ _ _ => some (w, gp)
  | .cmpi w gp _ _ _ _ _ => some (w, gp)
  | .plog w gp _ _ _ _ => some (w, gp)
  | .ld8 w gp _ _ _ => some (w, gp)
  | .ld16 w gp _ _ _ => some (w, gp)
  | .ld32 w gp _ _ _ => some (w, gp)
  | .ld64 w gp _ _ _ => some (w, gp)
  | .lds8 w gp _ _ _ => some (w, gp)
  | .lds16 w gp _ _ _ => some (w, gp)
  | .lds32 w gp _ _ _ => some (w, gp)
  | .st8 w gp _ _ _ => some (w, gp)
  | .st16 w gp _ _ _ => some (w, gp)
  | .st32 w gp _ _ _ => some (w, gp)
  | .st64 w gp _ _ _ => some (w, gp)
  | .lda w gp _ _ _ _ => some (w, gp)
  | .stl w gp _ _ _ => some (w, gp)
  | .fadd w gp _ _ _ _ _ => some (w, gp)
  | .swap w gp _ _ _ _ _ => some (w, gp)
  | .cas w gp _ _ _ _ _ => some (w, gp)
  | .atomMax w gp _ _ _ _ _ => some (w, gp)
  | .atomLfadd w gp _ _ _ _ => some (w, gp)
  | .br w gp _ => some (w, gp)
  | .call w gp _ => some (w, gp)
  | .jalr w gp _ _ => some (w, gp)
  | .beq w gp _ _ _ => some (w, gp)
  | .bne w gp _ _ _ => some (w, gp)
  | .blt w gp _ _ _ => some (w, gp)
  | .bge w gp _ _ _ => some (w, gp)
  | .fenceAcq w gp => some (w, gp)
  | .fenceRel w gp => some (w, gp)
  | .fenceFull w gp => some (w, gp)
  | .ifence w gp => some (w, gp)
  | .barSync w gp _ _ => some (w, gp)
  | .barArrive w gp _ _ => some (w, gp)
  | .issue w gp _ _ _ => some (w, gp)
  | .waitc w gp _ _ _ => some (w, gp)
  | .park w gp _ _ _ _ => some (w, gp)
  | .next w gp _ _ _ _ => some (w, gp)
  | .put w gp _ _ => some (w, gp)
  | .mfs w gp _ _ => some (w, gp)
  | .mts w gp _ _ => some (w, gp)
  | .halt w gp => some (w, gp)
  | _ => none

/-- An instruction that writes one register: its thread, guard, the registers it reads, the register it writes, and the
number, modulo 2^64, that it writes there, of the numbers that registers hold (unsigned, signed). -/
structure RegRow where
  who   : Who
  gp    : BitVec 3
  reads : List (BitVec 5)
  rd    : BitVec 5
  value : (BitVec 5 → Nat) → (BitVec 5 → Int) → Int

/-- Tables 3.5 and 3.6: the results of the ALU functions, the immediate forms and the moves. -/
def resultRow : Instr → Option RegRow
  | .add w gp rd ra rb => some ⟨w, gp, [ra, rb], rd, fun u _ => (u ra : Int) + (u rb : Int)⟩
  | .sub w gp rd ra rb => some ⟨w, gp, [ra, rb], rd, fun u _ => (u ra : Int) - (u rb : Int)⟩
  | .and w gp rd ra rb => some ⟨w, gp, [ra, rb], rd, fun u _ => (u ra &&& u rb : Nat)⟩
  | .or w gp rd ra rb => some ⟨w, gp, [ra, rb], rd, fun u _ => (u ra ||| u rb : Nat)⟩
  | .xor w gp rd ra rb => some ⟨w, gp, [ra, rb], rd, fun u _ => (u ra ^^^ u rb : Nat)⟩
  | .shl w gp rd ra rb => some ⟨w, gp, [ra, rb], rd, fun u _ => (u ra * 2 ^ (u rb % 64) : Nat)⟩
  | .shr w gp rd ra rb => some ⟨w, gp, [ra, rb], rd, fun u _ => (u ra / 2 ^ (u rb % 64) : Nat)⟩
  | .sra w gp rd ra rb => some ⟨w, gp, [ra, rb], rd, fun u i => i ra / 2 ^ (u rb % 64)⟩
  | .mul w gp rd ra rb => some ⟨w, gp, [ra, rb], rd, fun u _ => (u ra : Int) * (u rb : Int)⟩
  | .mulhu w gp rd ra rb => some ⟨w, gp, [ra, rb], rd, fun u _ => (u ra * u rb / 2 ^ 64 : Nat)⟩
  | .min w gp rd ra rb => some ⟨w, gp, [ra, rb], rd, fun _ i => min (i ra) (i rb)⟩
  | .max w gp rd ra rb => some ⟨w, gp, [ra, rb], rd, fun _ i => max (i ra) (i rb)⟩
  | .addi w gp rd ra imm => some ⟨w, gp, [ra], rd, fun _ i => i ra + imm.toInt⟩
  | .andi w gp rd ra imm => some ⟨w, gp, [ra], rd, fun u _ => (u ra &&& (imm.toInt % 2 ^ 64).toNat : Nat)⟩
  | .ori w gp rd ra imm => some ⟨w, gp, [ra], rd, fun u _ => (u ra ||| (imm.toInt % 2 ^ 64).toNat : Nat)⟩
  | .xori w gp rd ra imm => some ⟨w, gp, [ra], rd, fun u _ => (u ra ^^^ (imm.toInt % 2 ^ 64).toNat : Nat)⟩
  | .shli w gp rd ra sh => some ⟨w, gp, [ra], rd, fun u _ => (u ra * 2 ^ sh.toNat : Nat)⟩
  | .shri w gp rd ra sh => some ⟨w, gp, [ra], rd, fun u _ => (u ra / 2 ^ sh.toNat : Nat)⟩
  | .srai w gp rd ra sh => some ⟨w, gp, [ra], rd, fun _ i => i ra / 2 ^ sh.toNat⟩
  | .movz w gp rd hw imm => some ⟨w, gp, [], rd, fun _ _ => (imm.toNat * 2 ^ (16 * hw.toNat) : Nat)⟩
  | .movk w gp rd hw imm => some ⟨w, gp, [rd], rd, fun u _ =>
      (u rd % 2 ^ (16 * hw.toNat) + imm.toNat * 2 ^ (16 * hw.toNat) +
        u rd / 2 ^ (16 * hw.toNat + 16) * 2 ^ (16 * hw.toNat + 16) : Nat)⟩
  | _ => none

/-- Two lists of accesses are the same but for the registers that their data goes to. -/
def sameAccesses (a b : List Access) : Prop :=
  a.map (fun x => { x with rd := 0 }) = b.map (fun x => { x with rd := 0 })

/-- A thread is another one but for its general registers, its PC, its latency, and the registers that its accesses write. -/
def sameButRegs (x y : Thread) : Prop :=
  x.st = y.st ∧ x.p = y.p ∧ x.cc = y.cc ∧ x.out = y.out ∧ x.wait = y.wait ∧ x.cause = y.cause ∧
  x.faultPc = y.faultPc ∧ x.faultAddr = y.faultAddr ∧ x.held = y.held ∧ sameAccesses x.accs y.accs

/-- The state in which a thread has issued an instruction and goes on as another thread: it is the last issuer of its core,
and nothing else changes (R70). -/
def issuedAs (s : State) (w : Who) (i : Instr) (x : Thread) : State := (s.took w (slowInstr i)).setThread w x

/-- The state in which a thread has passed an instruction whose guard is false (R76). -/
def passedBy (s : State) (w : Who) : State :=
  (s.took w false).setThread w { s.thread w with pc := (s.thread w).pc + 4, lat := false }

/-- A run that needed no data of another device stands: the answers of its doer are used up (R291). -/
def settled (doer : Doer) (t : State) : State :=
  { t with remote := t.remote.filter (fun o => !(o.read && o.doer = doer)), run := RunSt.reset }

/-- What a register holds after another one took a value: g0 always reads zero. -/
def regAfter (t : Thread) (rd : BitVec 5) (v : Word) (g : BitVec 5) : Word :=
  if g = rd ∧ g ≠ 0 then v else t.reg g

/-- The condition codes of Table 3.6's note: signed, or unsigned with U. -/
def condition (c : Nat) (ua ub : Nat) (ia ib : Int) : Bool :=
  if c = 0 then ua = ub else if c = 1 then ua ≠ ub
  else if c = 2 then ia < ib else if c = 3 then ib ≤ ia
  else if c = 4 then ua < ub else if c = 5 then ub ≤ ua
  else if c = 6 then ia ≤ ib else if c = 7 then ib < ia
  else if c = 8 then ua ≤ ub else ub < ua

/-- An instruction that writes predicates: its thread, guard, the registers it reads, and what p1 to p7 then hold, of what
the registers and the predicates held. -/
structure PredRow where
  who   : Who
  gp    : BitVec 3
  reads : List (BitVec 5)
  value : Thread → BitVec 3 → Bool

/-- CMP, CMPI and PLOG of Table 3.5. -/
def predRow : Instr → Option PredRow
  | .cmp w gp pd pe ra rb c => some ⟨w, gp, [ra, rb], fun t q =>
      let v := condition c.toNat (t.reg ra).toNat (t.reg rb).toNat (t.reg ra).toInt (t.reg rb).toInt
      if q = pd then v else if q = pe then !v else t.pred q⟩
  | .cmpi w gp pd pe ra c imm => some ⟨w, gp, [ra], fun t q =>
      let v := condition c.toNat (t.reg ra).toNat (imm.toInt % 2 ^ 64).toNat (t.reg ra).toInt imm.toInt
      if q = pd then v else if q = pe then !v else t.pred q⟩
  | .plog w gp pd pa pb op => some ⟨w, gp, [], fun t q =>
      let a := t.pred pa
      let b := t.pred pb
      let v := if op = 0 then a && b else if op = 1 then a || b else if op = 2 then a != b else a && !b
      if q = pd then v else t.pred q⟩
  | _ => none

/-- A branch: its thread, guard, the registers it reads, the register that takes the return address, and its target: the
PC of a thread, from its own PC and its registers. -/
structure BranchRow where
  who   : Who
  gp    : BitVec 3
  reads : List (BitVec 5)
  link  : BitVec 5
  dest  : Thread → Word

/-- An address some words away (R75). -/
def wordsFrom (pc : Word) (off : Int) : Word := BitVec.ofInt 64 (pc.toNat + 4 * off)

/-- The branches of Table 3.5; g0 takes no return address. -/
def branchRow : Instr → Option BranchRow
  | .br w gp off => some ⟨w, gp, [], 0, fun t => wordsFrom t.pc off.toInt⟩
  | .call w gp off => some ⟨w, gp, [], 31, fun t => wordsFrom t.pc off.toInt⟩
  | .jalr w gp rd ra => some ⟨w, gp, [ra], rd, fun t => t.reg ra⟩
  | .beq w gp ra rb off => some ⟨w, gp, [ra, rb], 0, fun t =>
      wordsFrom t.pc (if (t.reg ra).toNat = (t.reg rb).toNat then off.toInt else 1)⟩
  | .bne w gp ra rb off => some ⟨w, gp, [ra, rb], 0, fun t =>
      wordsFrom t.pc (if (t.reg ra).toNat = (t.reg rb).toNat then 1 else off.toInt)⟩
  | .blt w gp ra rb off => some ⟨w, gp, [ra, rb], 0, fun t =>
      wordsFrom t.pc (if (t.reg ra).toInt < (t.reg rb).toInt then off.toInt else 1)⟩
  | .bge w gp ra rb off => some ⟨w, gp, [ra, rb], 0, fun t =>
      wordsFrom t.pc (if (t.reg ra).toInt < (t.reg rb).toInt then 1 else off.toInt)⟩
  | _ => none

/-- The special registers of Table 3.3 that MFS reads. -/
def specialValue (s : State) (w : Who) (sr : Nat) : Nat :=
  let k := w.core.toNat
  let p := (s.coreOwner k).getD 0
  if sr = 0 then w.thr.toNat else if sr = 1 then k else if sr = 2 then k / 16 else if sr = 3 then k / 128
  else if sr = 4 then p.toNat else if sr = 5 then s.time.toNat
  else if sr = 6 then s.eng - (s.core k).cycleBase
  else if sr = 7 then (s.part p).pgen.toNat
  else if sr < 12 then ((s.thread w).counter (sr - 8)).toNat
  else (s.thread w).outOn (sr - 12)

/-! ### Accesses of memory -/

/-- An instruction that makes an access: its thread, guard, the registers it reads, and the access. -/
structure AccRow where
  who   : Who
  gp    : BitVec 3
  reads : List (BitVec 5)
  acc   : Thread → Access

/-- A load of n bytes. -/
def loadOf (t : Thread) (rd ra : BitVec 5) (off : Int) (n : Nat) (sext acq : Bool) : Access :=
  { kind := .load sext, addr := (((t.reg ra).toNat + off) % 2 ^ 64).toNat, size := n, rd := rd, data := 0, cmp := 0,
    src := 0, acq := acq, rel := false, pc := t.pc, stage := .issued }

/-- A store of n bytes. -/
def storeOf (t : Thread) (rs ra : BitVec 5) (off : Int) (n : Nat) (rel : Bool) : Access :=
  { kind := .store, addr := (((t.reg ra).toNat + off) % 2 ^ 64).toNat, size := n, rd := 0, data := t.reg rs, cmp := 0,
    src := 0, acq := false, rel := rel, pc := t.pc, stage := .issued }

/-- An atomic of 4 or 8 bytes. -/
def atomOf (t : Thread) (rd ra rb : BitVec 5) (order : BitVec 2) (is64 : Bool) (op : BitVec 4) : Access :=
  { kind := .atom op, addr := (t.reg ra).toNat, size := if is64 then 8 else 4, rd := rd, data := t.reg rb,
    cmp := t.reg rd, src := 0, acq := order.toNat % 2 = 1, rel := 2 ≤ order.toNat, pc := t.pc, stage := .issued }

/-- The loads, stores and atomics of Tables 3.5 and 3.7, but LFADD. -/
def accRow : Instr → Option AccRow
  | .ld8 w gp rd ra imm => some ⟨w, gp, [ra], fun t => loadOf t rd ra imm.toInt 1 false false⟩
  | .ld16 w gp rd ra imm => some ⟨w, gp, [ra], fun t => loadOf t rd ra imm.toInt 2 false false⟩
  | .ld32 w gp rd ra imm => some ⟨w, gp, [ra], fun t => loadOf t rd ra imm.toInt 4 false false⟩
  | .ld64 w gp rd ra imm => some ⟨w, gp, [ra], fun t => loadOf t rd ra imm.toInt 8 false false⟩
  | .lds8 w gp rd ra imm => some ⟨w, gp, [ra], fun t => loadOf t rd ra imm.toInt 1 true false⟩
  | .lds16 w gp rd ra imm => some ⟨w, gp, [ra], fun t => loadOf t rd ra imm.toInt 2 true false⟩
  | .lds32 w gp rd ra imm => some ⟨w, gp, [ra], fun t => loadOf t rd ra imm.toInt 4 true false⟩
  | .st8 w gp rs ra imm => some ⟨w, gp, [rs, ra], fun t => storeOf t rs ra imm.toInt 1 false⟩
  | .st16 w gp rs ra imm => some ⟨w, gp, [rs, ra], fun t => storeOf t rs ra imm.toInt 2 false⟩
  | .st32 w gp rs ra imm => some ⟨w, gp, [rs, ra], fun t => storeOf t rs ra imm.toInt 4 false⟩
  | .st64 w gp rs ra imm => some ⟨w, gp, [rs, ra], fun t => storeOf t rs ra imm.toInt 8 false⟩
  | .lda w gp rd ra size sext => some ⟨w, gp, [ra], fun t => loadOf t rd ra 0 (2 ^ size.toNat) sext true⟩
  | .stl w gp rs ra size => some ⟨w, gp, [rs, ra], fun t => storeOf t rs ra 0 (2 ^ size.toNat) true⟩
  | .fadd w gp rd ra rb order is64 => some ⟨w, gp, [ra, rb], fun t => atomOf t rd ra rb order is64 0⟩
  | .swap w gp rd ra rb order is64 => some ⟨w, gp, [ra, rb], fun t => atomOf t rd ra rb order is64 1⟩
  | .cas w gp rd ra rb order is64 => some ⟨w, gp, [ra, rb, rd], fun t => atomOf t rd ra rb order is64 2⟩
  | .atomMax w gp rd ra rb order is64 => some ⟨w, gp, [ra, rb], fun t => atomOf t rd ra rb order is64 3⟩
  | _ => none

/-- An access is an atomic. -/
def isAtom (x : Access) : Bool := match x.kind with
  | .atom _ => true
  | _ => false

/-- A thread's accesses once a register is to take newer data: no earlier one writes it (log 27). -/
def superseded (x : Access) (l : List Access) : List Access :=
  if x.writes then l.map (fun y => if y.writes ∧ y.rd = x.rd then { y with rd := 0 } else y) else l

/-- A thread that faulted here (R100): its state, cause, FAULT_PC and FAULT_ADDR, and nothing else of any thread; no byte
of memory changed. -/
def Faulted (s t : State) (w : Who) (cause : BitVec 4) (pc : Word) (addr : Nat) : Prop :=
  t.thread w = { s.thread w with st := .faulted, cause := cause, faultPc := pc,
                                 faultAddr := BitVec.ofNat 64 addr, wait := .none, lat := false } ∧
  (∀ v, v ≠ w → t.thread v = s.thread v) ∧ ∀ a, t.byte a = s.byte a

/-- An outstanding access can be accepted: it is issued, the dies run, and no earlier access of its thread holds it back. -/
def acceptable (s : State) (w : Who) (idx : Nat) (x : Access) : Prop :=
  (s.thread w).accs[idx]? = some x ∧ x.stage = .issued ∧ s.diesUp = true ∧
  ∀ y ∈ (s.thread w).accs.take idx, s.holdsBack (dieOfCore w.core.toNat) y x = false

/-- An address lies in a Press or a Drawer, in a line that is not poisoned; l is its local form. -/
def inBank (s : State) (d a l : Nat) : Prop :=
  ((∃ c, s.place d a = .press c l) ∨ ∃ k, s.place d a = .drawer k l) ∧ s.lineBad l = false

/-- No thread waits at a word whose line is poisoned: its wake would fault it (R94, R208). -/
def noParkedPoison (s : State) : Prop :=
  ∀ (v : Who) (a : Nat) (x : Word) (rd : BitVec 5) (e : BitVec 6), (s.thread v).wait = .park a x rd e →
    s.lineBad (localOf a) = false

/-- The bytes of memory are those of a state but for bytes stored from an address on. -/
def storedAt (s t : State) (l : Nat) (bs : List Byte) : Prop :=
  ∀ a, t.byte a = if l ≤ a ∧ a < l + bs.length then bs.getD (a - l) 0 else s.byte a

/-- An HBM address lies in a block that passes its checks (R218 to R223): the keys over it are held, it is not poisoned, and
the stored MACs of the block and of the lines over it are those of their contents. -/
def soundBlock (s : State) (l key : Nat) : Prop :=
  s.blockKey l = some key ∧ s.keyLost l = false ∧ s.ver0 key ≠ 0xFFFFFFFF ∧
  ∀ level < 3, s.macBad (macItem level key) = false

/-- Bytes stored in a block of HBM: the first write of a block makes the rest of it zero (R220). -/
def storedInBlock (s t : State) (key l : Nat) (bs : List Byte) : Prop :=
  ∀ a, t.byte a = if l ≤ a ∧ a < l + bs.length then bs.getD (a - l) 0
    else if s.ver0 key = 0 ∧ a / 256 = l / 256 then 0 else s.byte a

/-- The number that n bytes of memory hold (R4). -/
def numberAt (s : State) (l : Nat) : Nat → Nat
  | 0 => 0
  | n + 1 => (s.byte l).toNat + 256 * numberAt s (l + 1) n

/-- A number of n bytes as a signed one. -/
def signedOf (n v : Nat) : Int := if 2 * v < 2 ^ (8 * n) then v else (v : Int) - 2 ^ (8 * n)

/-- The n bytes of a number, the low one first (R4). -/
def bytesOf : Nat → Nat → List Byte
  | 0, _ => []
  | n + 1, v => BitVec.ofNat 8 v :: bytesOf n (v / 256)

/-- What an atomic of n bytes stores (R80): FADD, SWAP, CAS and MAX, of the old value, rb and rd. -/
def atomStores (op n old rb rd : Nat) : Nat :=
  let m := 2 ^ (8 * n)
  if op = 0 then (old + rb) % m else if op = 1 then rb % m
  else if op = 2 then (if old = rd % m then rb % m else old)
  else if signedOf n old < signedOf n (rb % m) then rb % m else old

/-- The long-form partial that stands at an address (Table 2.5). -/
def partialAt (s : State) (l : Nat) : LForm :=
  { elem := { n := BitVec.ofNat 136 (numberAt s l 17), flags := s.byte (l + 19) }, w := signedOf 2 (numberAt s (l + 17) 2) }

/-- The 20 bytes of a long-form partial (Table 2.5). -/
def partialBytes (x : LForm) : List Byte :=
  bytesOf 17 x.elem.n.toNat ++ bytesOf 2 (x.w % 2 ^ 16).toNat ++ [x.elem.flags]

/-- A thread waits at a barrier of its cluster. -/
def waitsAt (s : State) (w : Who) (b : BitVec 4) : Prop := (s.thread w).st = .waitBar ∧ (s.thread w).wait = .bar b

/-- The cluster of a thread. -/
def kid (w : Who) : Nat := w.core.toNat / 16

/-! ### The exact window accumulator (chapter 02) -/

/-- A finite addend, as an integer of units 2^(w − 96) truncated toward zero, and whether bits were lost (R57). -/
def truncated (w : Int) (neg : Bool) (m : Nat) (e : Int) : Int × Bool :=
  let a : Nat := if w - 96 ≤ e then m * 2 ^ (e - (w - 96)).toNat else m / 2 ^ ((w - 96) - e).toNat
  (if neg then -(a : Int) else a, w - 96 > e && m % 2 ^ ((w - 96) - e).toNat != 0)

/-- A way to combine parts: the addends of one part, in the order they are added, or two combinations added. -/
inductive Combination where
  | part (addends : List FV)
  | add (a b : Combination)

/-- The parts of a combination. -/
def Combination.parts : Combination → List (List FV)
  | .part l => [l]
  | .add a b => a.parts ++ b.parts

/-- The partial that a part is reduced to. -/
def reducePart (w : Int) (l : List FV) : Elem := l.foldl (fun x v => x.addFV w v) Elem.zero

/-- The partial of a combination: long-form adds of its parts' partials. -/
def Combination.value (w : Int) : Combination → Elem
  | .part l => reducePart w l
  | .add a b => (a.value w).addElem (b.value w)

/-! ### Engine commands -/

/-- An engine command: its core, engine and opcode, and what its chapter says it does with its descriptor. -/
structure EngRow where
  core : BitVec 9
  eng  : Engine
  op   : Nat
  body : Agent → EngEntry → Desc → State → Ran

/-- The opcodes of Tables 4.3, 5.2, 6.1, 7.9 and 8.2. -/
def engRow : Instr → Option EngRow
  | .opn k => some ⟨k, .mxe, 0x01, bodyOpen k.toNat⟩
  | .mma k => some ⟨k, .mxe, 0x10, bodyMul k.toNat false⟩
  | .smma k => some ⟨k, .mxe, 0x11, bodyMul k.toNat true⟩
  | .exportSlot k => some ⟨k, .mxe, 0x20, bodyExport k.toNat⟩
  | .importSlot k => some ⟨k, .mxe, 0x21, bodyImport k.toNat⟩
  | .drain k => some ⟨k, .mxe, 0x30, bodyDrain k.toNat⟩
  | .loadRps k => some ⟨k, .rge, 0x01, bodyLoadRps k.toNat⟩
  | .dropRps k => some ⟨k, .rge, 0x02, bodyDropRps k.toNat⟩
  | .vadd k => some ⟨k, .rge, 0x10, bodyVec 0x10 k.toNat⟩
  | .vsub k => some ⟨k, .rge, 0x11, bodyVec 0x11 k.toNat⟩
  | .vmul k => some ⟨k, .rge, 0x12, bodyVec 0x12 k.toNat⟩
  | .vconv k => some ⟨k, .rge, 0x13, bodyVec 0x13 k.toNat⟩
  | .ntt k => some ⟨k, .rge, 0x20, bodyRaw 0x20 k.toNat⟩
  | .intt k => some ⟨k, .rge, 0x21, bodyRaw 0x21 k.toNat⟩
  | .auto k => some ⟨k, .rge, 0x22, bodyRaw 0x22 k.toNat⟩
  | .basext k => some ⟨k, .rge, 0x23, bodyRaw 0x23 k.toNat⟩
  | .decomp k => some ⟨k, .rge, 0x24, bodyRaw 0x24 k.toNat⟩
  | .cadd k => some ⟨k, .rge, 0x28, bodyCt 0x28 k.toNat⟩
  | .csub k => some ⟨k, .rge, 0x29, bodyCt 0x29 k.toNat⟩
  | .cmul k => some ⟨k, .rge, 0x2A, bodyCt 0x2A k.toNat⟩
  | .padd k => some ⟨k, .rge, 0x2B, bodyCt 0x2B k.toNat⟩
  | .pmul k => some ⟨k, .rge, 0x2C, bodyCt 0x2C k.toNat⟩
  | .cauto k => some ⟨k, .rge, 0x2D, bodyCt 0x2D k.toNat⟩
  | .cntt k => some ⟨k, .rge, 0x2E, bodyCt 0x2E k.toNat⟩
  | .moddown k => some ⟨k, .rge, 0x2F, bodyCt 0x2F k.toNat⟩
  | .keyswitch k => some ⟨k, .rge, 0x30, bodyKeyswitch k.toNat⟩
  | .macc k => some ⟨k, .rge, 0x40, bodyMacc k.toNat⟩
  | .scatterAdd k => some ⟨k, .rge, 0x41, bodyScatter k.toNat⟩
  | .lagrange k => some ⟨k, .rge, 0x42, bodyLagrange k.toNat⟩
  | .lfadd k => some ⟨k, .rge, 0x48, bodyLfadd k.toNat⟩
  | .seedLoad k => some ⟨k, .mkx, 0x01, bodySeedLoad k.toNat⟩
  | .seedClear k => some ⟨k, .mkx, 0x02, bodySeedClear k.toNat⟩
  | .expand k => some ⟨k, .mkx, 0x10, bodyExpand k.toNat⟩
  | .sampleCount k => some ⟨k, .mkx, 0x20, bodySampleCount k.toNat⟩
  | .sampleIndex k => some ⟨k, .mkx, 0x21, bodySampleIndex k.toNat⟩
  | .copy k => some ⟨k, .dma, 0x01, bodyCopy k.toNat⟩
  | .fill k => some ⟨k, .dma, 0x02, bodyFill k.toNat⟩
  | _ => none

/-- The opcodes that an engine has. -/
def hasOpcode (e : Engine) (op : Nat) : Bool := match e with
  | .mxe => [0x01, 0x10, 0x11, 0x20, 0x21, 0x30].contains op
  | .rge => [0x01, 0x02, 0x10, 0x11, 0x12, 0x13, 0x20, 0x21, 0x22, 0x23, 0x24, 0x28, 0x29, 0x2A, 0x2B, 0x2C, 0x2D, 0x2E,
      0x2F, 0x30, 0x40, 0x41, 0x42, 0x48].contains op
  | .mkx => [0x01, 0x02, 0x10, 0x20, 0x21].contains op
  | .dma => [0x01, 0x02].contains op

/-- The status of an opcode that an engine does not have: OPERAND_INVALID, RING_OPERAND_INVALID, DMA_OPERAND_INVALID. -/
def noOpcode : Engine → Status
  | .mxe => 0x8B
  | .rge => 0x90
  | .mkx => 0x90
  | .dma => 0x9F

/-- The state in which an engine takes a command: where it is a ring engine, its first waiting command has noted the arrival
of its claim on the mask expander (R152). -/
def atStart (s : State) (r : EngRow) : State := if r.eng = .rge ∧ s.engReady r.core.toNat = true then s.noteClaim r.core.toNat r.op else s

/-- The engine of a row takes the entry at place n of its queue next: the clock runs, the core is there, fewer than 128
commands run, the Ledger admits its class (R406), and the entry is the first that waits, or, of the matrix engine, the first of the row's unit (R107, R280). -/
def takesNext (s : State) (r : EngRow) (n : Nat) (x : EngEntry) : Prop :=
  let k := r.core.toNat
  let q := (s.core k).q r.eng
  s.engOn = true ∧ (s.physCore k).isSome = true ∧ q[n]? = some x ∧ x.status = none ∧
  (q.filter (fun y => y.status.isSome)).length < 128 ∧ s.admits x.cls = true ∧
  ((∀ m < n, ∀ y, q[m]? = some y → y.status.isSome = true) ∨
    r.eng = .mxe ∧ s.mxePick k (if mxeArray r.op then mxeArray else mxeDrain) = some (n, x))

/-- The descriptor of an entry as the engine reads it, and the state after the read. -/
def descriptorOf (s s1 : State) (k : Nat) (x : EngEntry) (d : Desc) : Prop :=
  s.memRead (entryAgent k x) x.desc 64 = (s1, stOk, d)

/-- Nothing of its engine's order holds a command back: KEYSWITCH and what follows it start alone (R151), and the claims on
the keystream pipeline are served in the order of their arrival (R152). -/
def freeToStart (s : State) (r : EngRow) (n : Nat) (x : EngEntry) (d : Desc) : Prop :=
  let c := s.core r.core.toNat
  match r.eng with
  | .rge => (d.n 0 1 = 0x30 → n = 0) ∧ (∀ y ∈ c.rgeQ.take n, y.status.isSome = true → y.op ≠ 0x30) ∧
      ∀ a, x.claim = some a → ∀ z ∈ c.mkxQ, a ≤ z.num
  | .mkx => ∀ y ∈ c.rgeQ, ∀ a, y.claim = some a → x.num < a
  | _ => True

/-- ORDERED does not hold an entry back (Table 3.8). -/
def notHeld (s : State) (k : Nat) (e : Engine) (n : Nat) (x : EngEntry) (d : Desc) : Prop :=
  d.bits 2 5 1 = 1 → ∀ y ∈ ((s.core k).q e).take n, ¬ (y.core = x.core ∧ y.thr = x.thr)

/-- PTAG names the session that the entry was issued under (R86). -/
def sameSession (x : EngEntry) (d : Desc) : Prop := d.bits 4 0 5 = x.pid.toNat ∧ d.n 5 3 = x.pgen.toNat

/-- The state with the entry at place n of a queue ended with a status; it keeps what its run has met, and its class is that
of its descriptor, where that could be read. -/
def entryEnded (t : State) (k : Nat) (e : Engine) (n : Nat) (d : Desc) (st : Status) (rel : Option Nat) : State :=
  t.setCore k ((t.core k).setQ e (((t.core k).q e).modify n (fun y =>
    { y with op := BitVec.ofNat 8 (d.n 0 1), evt := d.bits 2 4 1 = 1, status := some st, rel := rel,
             cls := if d.zero 0 64 then y.cls else BitVec.ofNat 2 (d.bits 2 0 2), demoted := t.run.demoted,
             c3 := t.run.touch, sums := t.run.sums, undo := t.run.undo, hdr := t.run.hdr, sealing := t.run.sealing })))

/-! ### The units of a cluster -/

/-- The fields of a noise request stand (R171 step 2, Table 6.2). -/
def noiseFields (d : Desc) : Bool :=
  d.n 1 1 = 0 && d.bits 2 2 6 = 0 && d.bits 4 5 3 = 0 && d.bits 8 1 3 = 0 && d.zero 9 3 && d.zero 44 4 &&
  (d.n 8 1 / 16 = 9 || d.n 8 1 / 16 = 10) && 1 ≤ d.n 12 4 && d.n 12 4 ≤ 2 ^ 26 && d.n 16 8 % 64 = 0 && d.n 48 8 % 64 = 0

/-- The first check of R171 that an ADD_NOISE fails, in its order from step 2 on; a format code that is reserved comes first
(R40), and the Wicket's check of the token's address last (log 106). -/
def noiseRefusal (s : State) (c : Nat) (g : Agent) (d : Desc) : Status :=
  let n := d.n 12 4
  let len := n * (if d.n 8 1 / 16 = 9 then 4 else 8)
  let ranges := joinCheck (s.noiseRange g (d.n 16 8) len) (s.checkRange g true (d.n 48 8) 128)
  let p := s.part g.pid
  let mech := d.n 8 1 % 2
  let least := if mech = 0 then p.gauss else p.lap
  if 12 ≤ d.n 8 1 / 16 then stFormat
  else if noiseFields d = false then stRing
  else if ranges ≠ stOk then ranges
  else if d.n 24 4 = 0 ∨ d.n 28 4 = 0 then stNoiseParam
  else if p.mech.getLsbD mech = false ∨ d.n 24 4 * least.2.toNat < least.1.toNat * d.n 28 4 then stNoisePolicy
  else if d.n 40 4 < p.kmin.toNat then stCohort
  else match s.slotWith g.pid mbMac with
    | none => stKeyDenied
    | some slot =>
      if (s.key slot).st = .stale then stKeyStale
      else if (s.nsuRandom c n).2 ≠ stOk then (s.nsuRandom c n).2
      else if s.frozen.any (fun f => f.live && f.base < localOf (d.n 16 8) + len && localOf (d.n 16 8) < f.base + f.len) then
        stFrozenOverlap
      else if 64 ≤ (s.frozen.filter (fun f => f.live)).length then stFreezeFull
      else if (List.range 128).any (fun i => (s.wicketPath g (d.n 48 8 + i)).isSome) then stReleaseDenied
      else stOk

/-- The noise token of Table 6.3 over the noised bytes. -/
def noiseToken (key : List Byte) (serial ptag : Nat) (d : Desc) (noised : List Byte) : List Byte :=
  let body := bytesOf 8 serial ++ bytesOf 8 (d.n 32 8) ++ bytesOf 4 ptag ++ bytesOf 1 (d.n 8 1) ++ bytesOf 3 0 ++
    bytesOf 4 (d.n 24 4) ++ bytesOf 4 (d.n 28 4) ++ bytesOf 8 (d.n 16 8) ++ bytesOf 4 (d.n 12 4) ++ bytesOf 4 (d.n 40 4) ++
    Crypto.sha384 noised
  body ++ Crypto.kmac256 key body (Crypto.ascii "W880 NOISE TOKEN") 32

/-- The run of a sampler's request, of what its body answers. -/
def nsuRunOf (t : State) (r : UnitReq) (d : Desc) (x : NsuRes) : NsuRun :=
  { req := r, op := BitVec.ofNat 8 (d.n 0 1), status := x.status, serial := x.serial, key := x.key,
    cls := BitVec.ofNat 2 (d.bits 2 0 2), demoted := t.run.demoted, c3 := t.run.touch, own := x.own, token := x.token,
    undo := t.run.undo }

/-- The run of a router's request, of what its body answers. -/
def routeRunOf (t : State) (r : UnitReq) (d : Desc) (items : List (BitVec 2 × BitVec 12 × Word)) (st : Status) : RouteRun :=
  { req := r, op := BitVec.ofNat 8 (d.n 0 1), items := items, status := st, cls := BitVec.ofNat 2 (d.bits 2 0 2),
    demoted := t.run.demoted, c3 := t.run.touch }

end Sys2Proof.Spec
end

