-- ==== Sys2Proof/Certificates/Slice0/Results.lean ====
section
/-!
DEFINITION. What the statements read of the engines' results: memory that a command may use, and what chapters 04 to 08 say
that a step of a multiply, a limb, a ciphertext, a sum and a release come to.
-/

namespace Sys2Proof.Spec

open Sys2Proof.Machine

/-! ### Memory that a command may use -/

/-- The partition may read or write n bytes at an address: they lie in one Press or Drawer of this device, in lines that are
not poisoned, and its checks let it (R18, R20, R174). -/
def openTo (s : State) (g : Agent) (write : Bool) (a n : Nat) : Prop :=
  ∀ i < n, (∃ c, s.place g.die (a + i) = .press c (localOf a + i) ∨ s.place g.die (a + i) = .drawer c (localOf a + i)) ∧
    s.lineBad (localOf a + i) = false ∧ s.checkPlace g.pid write none (s.place g.die (a + i)) = stOk

/-- The n bytes that stand at an address of this device. -/
def readAt (s : State) (a n : Nat) : List Byte := (List.range n).map (fun i => s.byte (localOf a + i))

/-- The number of n bytes that stands at an address of this device. -/
def numAt (s : State) (a n : Nat) : Nat := numberAt s (localOf a) n

/-- Limbs of N residues that stand at addresses, each under its prime (R52). -/
def limbsAt (s : State) (n : Nat) (ls : List (Nat × Nat)) : List (List Nat) :=
  ls.map (fun l => (List.range n).map (fun i => numAt s (l.1 + 8 * i) 8 % l.2))

/-- The bytes of words of 8 bytes. -/
def wordBytes (ws : List Nat) : List Byte := ws.flatMap (bytesOf 8)

/-! ### The matrix engine (chapter 04) -/

/-- The activation bitmap of a multiply that has one (R116). -/
def bitmapOf (s : State) (m : Mul) : List Byte := if m.abm then readAt s m.bsc ((m.m * (m.kk / 16) + 7) / 8) else []

/-- The block of row i that holds k is declared zero: its bit, number i × K/16 + k/16, is clear (R116). -/
def zeroBlock (m : Mul) (bm : List Byte) (i k : Nat) : Bool :=
  m.abm && !(bm.getD ((i * (m.kk / 16) + k / 16) / 8) 0).getLsbD ((i * (m.kk / 16) + k / 16) % 8)

/-- Step n of a multiply is skipped: every block that it covers is declared zero in all M rows (R116). -/
def stepSkipped (m : Mul) (bm : List Byte) (n : Nat) : Bool :=
  m.abm && (List.range m.m).all (fun i => (List.range m.depth).all (fun o => zeroBlock m bm i (n * m.depth + o)))

/-- The products of column j in a step, as a place in the step's part of a row of A and a row of the step's part of B: one for
each k in dense form, two or one for each group of four k under 2:4 or 1:4, at the indices of the metadata (R114). -/
def termsOf (m : Mul) (md : List Byte) (j : Nat) : List (Nat × Nat) :=
  if m.wsp = 0 then (List.range m.kt).map (fun o => (o, o))
  else (List.range (m.depth / 4)).flatMap (fun g =>
    let f := g * 32 + j
    if m.wsp = 1 then
      let nib := (md.getD (f / 2) 0).toNat / 16 ^ (f % 2) % 16
      [(4 * g + nib % 4, 2 * g), (4 * g + nib / 4, 2 * g + 1)]
    else [(4 * g + (md.getD (f / 4) 0).toNat / 4 ^ (f % 4) % 4, g)])

/-- The products that step n adds into element (i, j), of the operands that stand in memory (R106, R108, Table 4.4). -/
def stepProducts (s : State) (m : Mul) (n i j : Nat) : List Prod :=
  let bm := bitmapOf s m
  let k0 := n * m.depth
  (termsOf m (readAt s (m.asc + m.meta k0) (m.meta m.depth)) j).map (fun p =>
    let gone := zeroBlock m bm i (k0 + p.1)
    let av := if gone then 0 else elemAt m.af (readAt s (m.a + i * m.ast + elemBytes m.af k0) (elemBytes m.af m.depth)) p.1
    let bv := elemAt m.bf (readAt s (m.b + (m.brows k0 + p.2) * m.bst) (elemBytes m.bf 32)) j
    let sa := if gone then 127 else if m.af = 5 then numAt s (m.asc + i * (m.kk / 32) + n) 1 else 0
    let sb := if m.af = 5 then numAt s (m.bsc + 32 * n + j) 1 else 0
    { v := (mmaValue m.af sa av).mul (mmaValue m.bf sb bv), z := mmaInt m.af av * mmaInt m.bf bv })

/-- An element after one step's products, by the slot's mode (R106, R107): FP32, rounded once, INT32, saturating, Z64, modulo
2^64, and EWA, product by product. -/
def stepInto (mode : Nat) (w : Int) (e : Elem) (ps : List Prod) : Elem :=
  let z := (ps.map Prod.z).sum
  match mode with
  | 0 => match ps.foldl (fun (a : FV) p => a.add p.v) (FV.fin false 0 0) with
    | .fin _ 0 _ => e
    | x => { n := (toFp32Ieee (e.fp.add x)).zeroExtend 136, flags := 0 }
  | 1 => { n := (BitVec.ofInt 32 (max (-2 ^ 31) (min (2 ^ 31 - 1) (e.int32 + z)))).zeroExtend 136, flags := 0 }
  | 2 => { n := (BitVec.ofInt 64 (e.n.toNat + z)).zeroExtend 136, flags := 0 }
  | _ => ps.foldl (fun a p => a.addFV w p.v) e

/-- An element after a multiply: the steps that are not skipped, in increasing k (R107). -/
def multiplied (s : State) (m : Mul) (mode : Nat) (w : Int) (i j : Nat) (e : Elem) : Elem :=
  ((List.range (m.kk / m.depth)).filter (fun n => !stepSkipped m (bitmapOf s m) n)).foldl
    (fun e n => stepInto mode w e (stepProducts s m n i j)) e

/-- The bytes of an element in a tile of a mode other than EWA. -/
def tileWidth (mode : Nat) : Nat := if mode = 2 then 8 else 4

/-- The element that a replacing or an adding IMPORT leaves, of the number in memory (R118). -/
def imported (mode : Nat) (add : Bool) (e : Elem) (v : Nat) : Elem :=
  if add = false then { n := BitVec.ofNat 136 v, flags := 0 }
  else match mode with
  | 0 => { n := (toFp32Ieee (e.fp.add (decodeElem 0 v))).zeroExtend 136, flags := 0 }
  | 1 => { n := (BitVec.ofInt 32 (max (-2 ^ 31) (min (2 ^ 31 - 1) (e.int32 + signedOf 4 v)))).zeroExtend 136, flags := 0 }
  | _ => { n := BitVec.ofNat 136 ((e.n.toNat + v) % 2 ^ 64), flags := 0 }

/-! ### The ring engine (chapter 05) -/

/-- The fields of a raw ring command stand (R133 step 2). -/
def rawFields (op : Nat) (d : Desc) : Prop :=
  d.headOk = true ∧ d.skip = false ∧ d.bits 8 4 4 = 0 ∧ d.bits 9 6 2 = 0 ∧ d.bits 10 6 2 = 0 ∧ d.bits 11 6 2 = 0 ∧
  d.bits 12 6 2 = 0 ∧ d.zero 13 3 = true ∧ d.zero 24 8 = true ∧ (op = 0x22 → d.n 40 1 % 2 = 1) ∧ d.zero 44 20 = true ∧
  d.n 16 8 % 8 = 0 ∧ d.n 32 8 % 8 = 0

/-- The fields of a ciphertext command stand (R133 step 2). -/
def ctFields (op : Nat) (d : Desc) : Prop :=
  d.headOk = true ∧ d.skip = false ∧ d.bits 8 7 1 = 0 ∧ d.zero 9 7 = true ∧ d.zero 48 16 = true ∧
  (op = 0x2D → d.n 40 1 % 2 = 1) ∧ d.n 16 8 % 8 = 0 ∧ d.n 32 8 % 8 = 0 ∧ (0x28 ≤ op ∧ op ≤ 0x2C → d.n 24 8 % 8 = 0)

/-- A ciphertext command of two ciphertexts, of a ciphertext and a plaintext. -/
def ctTwo (op : Nat) : Bool := op = 0x28 || op = 0x29 || op = 0x2A
def ctPlain (op : Nat) : Bool := op = 0x2B || op = 0x2C

/-- The operands of a ciphertext command: their addresses and lengths. -/
def ctOperands (op : Nat) (d : Desc) (r : Rps) (a b : CtHdr) : List (Nat × Nat) :=
  (d.n 16 8, 64 + bodyBytes r a.comp a.level) ::
    (if ctTwo op then [(d.n 24 8, 64 + bodyBytes r b.comp b.level)]
     else if ctPlain op then [(d.n 24 8, bodyBytes r 1 a.level)] else [])

/-- The accumulators of a KEYSWITCH after the digits of a level, streamed in order from the key (R149). -/
def ksSums (s : State) (r : Rps) (keyA kq level digits : Nat) (dc : List (List Nat)) : List (List Nat) × List (List Nat) :=
  let zero := (ksPrimes r level).map (fun _ => List.replicate r.n 0)
  (List.range digits).foldl (fun acc j => ksDigit r level j dc (limbsAt s r.n (digitLimbs r (digitAt r keyA kq j) kq level)) acc)
    (zero, zero)

/-! ### Aggregation and masks (chapters 05 to 07) -/

/-- The coordinates that sampling includes: those whose word of the stream is below the rate (R198). -/
def sampled (seed : List Byte) (rate base len : Nat) : List Nat :=
  ((List.range len).map (fun i => base + i)).filter (fun c => Crypto.leNat (streamBytes seed (4 * c) 4) < rate)

/-- The partition owns a span of seed slots of its die (R164). -/
def ownsSlots (s : State) (g : Agent) (slot n : Nat) : Prop := ∀ i < n, (s.seedSlot g.die (slot + i)).pid = some g.pid

/-- No other core's command adds into a range of words now (R154). -/
def uncontested (s : State) (k : Nat) (g : Agent) (a n : Nat) : Prop :=
  ∀ w ∈ wordsOf a n, s.contested k (s.canon g.die w) = none

/-! ### Releases (R178 to R180) -/

/-- A noise token's MAC is that of its first 96 bytes under the partition's WICKET_MAC key, or under the one that it replaces
in its overlap window (R173, R179, R323). -/
def tokenSound (s : State) (pid : BitVec 5) (tok : List Byte) : Prop :=
  ∃ n, s.slotWith pid mbMac = some n ∧ (s.key n).st = .valid ∧
    (tok.drop 96 = Crypto.kmac256 ((s.key n).bytesOf (s.key n).key) (tok.take 96) (Crypto.ascii "W880 NOISE TOKEN") 32 ∨
      ∃ v c label, (s.key n).old = some (v, c, label) ∧
        tok.drop 96 = Crypto.kmac256 ((s.key n).bytesOf v.key) (tok.take 96) (Crypto.ascii "W880 NOISE TOKEN") 32)

/-- The release descriptor's own fields stand for a transfer of a range (Tables 6.4 and 6.5, reason 0x01). -/
def releaseFields (s : State) (g : Agent) (desc src len : Nat) : Prop :=
  let d : Desc := readAt s desc 64
  desc ≠ 0 ∧ desc % 64 = 0 ∧ d.n 4 4 = s.ptag g.pid ∧ (d.bits 0 0 2 = 1 ∨ d.bits 0 0 2 = 2) ∧ d.bits 0 3 5 = 0 ∧
  ¬ (d.bits 0 0 2 = 1 ∧ d.bits 0 2 1 = 1) ∧ d.zero 1 3 = true ∧ d.zero 33 7 = true ∧ d.zero 48 16 = true ∧
  d.n 16 8 ≠ 0 ∧ d.n 16 8 ≤ 2 ^ 32 ∧ d.n 8 8 = src ∧ d.n 16 8 = len

/-- The token that a NOISED descriptor names stands in the partition's memory, and its MAC verifies (reason 0x02). -/
def releaseToken (s : State) (g : Agent) (desc : Nat) : Prop :=
  let d : Desc := readAt s desc 64
  s.checkRange g false (d.n 24 8) 128 = stOk ∧ tokenSound s g.pid (readAt s (d.n 24 8) 128)

/-- A live freeze of the partition stands for the token's serial (reason 0x03). -/
def releaseFrozen (s : State) (g : Agent) (tok : Desc) : Prop :=
  tok.n 16 4 = s.ptag g.pid ∧ ∃ f ∈ s.frozen, f.live = true ∧ f.thaw = false ∧ f.pid = g.pid ∧ f.serial = tok.n 0 8

/-- The range lies in the token's buffer (reason 0x04). -/
def releaseInside (tok : Desc) (src len : Nat) : Prop :=
  tok.n 32 8 ≤ src ∧ src + len ≤ tok.n 32 8 + tok.n 40 4 * (if tok.bits 20 4 4 = 9 then 4 else 8)

/-- The token's mechanism and parameter meet the partition's policy (reason 0x06). -/
def releasePolicy (s : State) (g : Agent) (tok : Desc) : Prop :=
  let p := s.part g.pid
  let least := if tok.bits 20 0 1 = 0 then p.gauss else p.lap
  p.mech.getLsbD (tok.bits 20 0 1) = true ∧ least.1.toNat * tok.n 28 4 ≤ tok.n 24 4 * least.2.toNat

/-- A SEALED descriptor's key is VALID, the partition's, with SEAL, on branch 3 (reason 0x07). -/
def releaseKey (s : State) (g : Agent) (slot : BitVec 8) : Prop :=
  (s.key slot).st = .valid ∧ s.keyOwned g.pid (s.key slot) = true ∧ (s.key slot).mask.getLsbD mbSeal = true ∧
  (s.key slot).branch = 3

/-- The ciphertext that a SEALED descriptor with CT names has a header without UNCERTAIN and INCOMPLETE (reason 0x08). -/
def releaseHeader (s : State) (g : Agent) (src : Nat) : Prop :=
  let h : Desc := readAt s src 64
  s.checkRange g false src 64 = stOk ∧ h.bits 14 0 2 = 0

/-- A value is the first reason of Table 6.5 for which a release is refused, or 0 for none (R179). -/
def releaseReason (s : State) (g : Agent) (desc src len why : Nat) : Prop :=
  let d : Desc := readAt s desc 64
  let tok : Desc := readAt s (d.n 24 8) 128
  let fields := releaseFields s g desc src len
  let noised : Prop := d.bits 0 0 2 = 1
  let flagged : Prop := d.bits 0 2 1 = 1 ∧ ¬ releaseHeader s g src
  (¬ fields → why = 1) ∧
  (fields → noised → (¬ releaseToken s g desc → why = 2) ∧
    (releaseToken s g desc → (¬ releaseFrozen s g tok → why = 3) ∧
      (releaseFrozen s g tok → (¬ releaseInside tok src len → why = 4) ∧
        (releaseInside tok src len → (tok.n 44 4 < (s.part g.pid).kmin.toNat → why = 5) ∧
          ((s.part g.pid).kmin.toNat ≤ tok.n 44 4 → (¬ releasePolicy s g tok → why = 6) ∧
            (releasePolicy s g tok → why = 0)))))) ∧
  (fields → ¬ noised → (¬ releaseKey s g (BitVec.ofNat 8 (d.n 32 1)) → why = 7) ∧
    (releaseKey s g (BitVec.ofNat 8 (d.n 32 1)) → (flagged → why = 8) ∧ (¬ flagged → why = 0)))

/-- What leaves by an accepted release: the bytes themselves, or their sealed form, a header of the label, the partition's
generation and seal counter, the length and the tag of the session, then the ciphertext and its tag under the nonce of
header bytes 8 to 19 (R180). -/
def released (s : State) (g : Agent) (desc : Nat) (src : List Byte) : List Byte :=
  let d : Desc := readAt s desc 64
  if d.bits 0 0 2 = 1 then src
  else
    let p := s.part g.pid
    let slot : BitVec 8 := BitVec.ofNat 8 (d.n 32 1)
    let nonce := bytesOf 4 p.pgen.toNat ++ bytesOf 8 p.sealCtr
    let head := bytesOf 8 (d.n 40 8) ++ nonce ++ bytesOf 8 (d.n 16 8) ++ bytesOf 4 (s.ptag g.pid) ++ bytesOf 32 0
    let x := Crypto.gcmSeal ((s.key slot).bytesOf (s.key slot).key) nonce head src
    head ++ x.1 ++ x.2

end Sys2Proof.Spec
end

