-- ==== Sys2Proof/Certificates/Slice0/Rows.lean ====
section
/-!
DEFINITION. Tables that the statements read, for the commands that are writes and reads of registers, mailbox requests and
descriptors of send queues: what the chapters' tables say of each row.
-/

namespace Sys2Proof.Spec

open Sys2Proof.Machine

/-! ### Registers (R414) -/

/-- A register write of the host: the page, the address, the size, the value; the states in which it is not ignored; and
what it does to the state once it is accepted. -/
structure HostRow where
  page : Page
  addr : Nat
  size : Nat
  val  : Nat
  ok   : State → Prop
  act  : State → State

/-- A row of a register of a page. -/
def onPage (p : Page) (off size val : Nat) (ok : State → Prop) (act : State → State) : Option HostRow :=
  some ⟨p, pageAddr p off, size, val, ok, act⟩

/-- A row of a common-header register of the page with a number (Table 16.2). -/
def byNum (page : BitVec 18) (off val : Nat) (act : Page → State → State) : Option HostRow :=
  (pageAt page.toNat).map (fun p => ⟨p, numAddr page off, 4, val, fun _ => True, act p⟩)

/-- A thread that START or STOP names answers at its page (Table 3.10). -/
def threadPage (w : Who) (p : Page) (t : State) : Prop :=
  t.coreOf p = some w.core.toNat ∧ t.corePage w.core.toNat 0 = p

/-- START is accepted (R99, log 31): the thread is IDLE, its core takes work, and a partition that is ACTIVE or being created
holds it. -/
def startable (w : Who) (t : State) : Prop :=
  t.engOn = true ∧ (t.physCore w.core.toNat).isSome = true ∧ (t.thread w).st = .idle ∧
  t.takesWork (t.corePage w.core.toNat 0) = true ∧
  ∃ p, t.coreOwner w.core.toNat = some p ∧ ((t.part p).st = 1 ∨ (t.part p).st = 2)

/-- A submission of the host to a cluster's unit is taken (R169, R190): the request that the unit queues. -/
def hostSubmits (c u : Nat) (p : Page) (addr : Nat) (t : State) : Prop :=
  t.clusterOf p = some c ∧ t.clusterPage c u = p ∧ (t.pageOwner p).isSome = true ∧ addr % 64 = 0 ∧
  t.ownedRange (statusAgent c { addr := addr, pid := (t.pageOwner p).getD 0, core := none }) addr 64 = stOk ∧
  t.takesWork p = true ∧ ((t.cluster c).unitQ u).length < 16

/-- The queue that QSEL or POST_Q selects. -/
def selected (t : State) (d off : Nat) : BitVec 12 := BitVec.ofNat 12 (t.fld (dresserPage d) off 0 12)

/-- QCMD acts on the selected queue (R300, R478). -/
def queueTakes (d : Nat) (t : State) : Prop :=
  t.selConf d = false ∧ t.failsafe = false ∧ (t.queue d (selected t d 0x104)).pid.isSome = true ∧
  (selected t d 0x104).toNat < 3072

/-- The selected queue changed. -/
def onQueue (d : Nat) (f : DQueue → DQueue) (t : State) : State :=
  t.setQueue d (selected t d 0x104) (f (t.queue d (selected t d 0x104)))

/-- A host post is taken (R282). -/
def postTaken (d : Nat) (t : State) : Prop :=
  let x := t.queue d (selected t d 0x120)
  x.hostPost = true ∧ x.kind ≠ 0 ∧ t.queueOff d (selected t d 0x120) = false ∧ x.hasCredit .host = true ∧
  ∃ p, x.pid = some p ∧ ((t.part p).st = 2 ∨ (t.part p).st = 1)

/-- The host's register writes that the table names, with their registers and values (Tables 3.10, 6.7, 7.13, 10.5, 11.2,
11.5, 13.3, 14.4, 16.2, 16.4 and 16.5). -/
def hostRow (s : State) : Instr → Option HostRow
  | .start .host w =>
    let p := s.corePage w.core.toNat 0
    onPage p (0x200 + 32 * w.thr.toNat) 4 1 (fun t => threadPage w p t ∧ startable w t) (fun t =>
      t.setThread w { Thread.reset with
        st := .ready
        pc := BitVec.ofNat 64 (t.rd64 p (0x208 + 32 * w.thr.toNat))
        accs := (t.thread w).accs.map (fun x => { x with rd := 0 }) })
  | .stop .host w =>
    let p := s.corePage w.core.toNat 0
    onPage p (0x200 + 32 * w.thr.toNat) 4 2
      (fun t => threadPage w p t ∧ (t.thread w).st ≠ .idle ∧ (t.thread w).st ≠ .draining) (fun t => t.endThread w)
  | .ibufInvalidate .host k =>
    let p := s.corePage k.toNat 0
    onPage p 0x100 4 1 (fun t => t.coreOf p = some k.toNat ∧ t.corePage k.toNat 0 = p)
      (fun t => t.setCore k.toNat { t.core k.toNat with ibuf := [] })
  | .nsuSubmit .host c a =>
    let p := s.clusterPage c.toNat pgNsu
    onPage p 0x100 8 a.toNat (hostSubmits c.toNat pgNsu p a.toNat) (fun t =>
      t.setCluster c.toNat { t.cluster c.toNat with
        nsuQ := (t.cluster c.toNat).nsuQ ++ [{ addr := a.toNat, pid := (t.pageOwner p).getD 0, core := none }] })
  | .routerSubmit .host c a =>
    let p := s.clusterPage c.toNat pgRouter
    onPage p 0x100 8 a.toNat (hostSubmits c.toNat pgRouter p a.toNat) (fun t =>
      t.setCluster c.toNat { t.cluster c.toNat with
        rtrQ := (t.cluster c.toNat).rtrQ ++ [{ addr := a.toNat, pid := (t.pageOwner p).getD 0, core := none }] })
  | .qselWrite .host d q =>
    let p := dresserPage d.toNat
    onPage p 0x104 4 q.toNat (fun _ => True) (fun t => (t.wrN p 0x104 q.toNat).stageCfg d.toNat none)
  | .qcmdConfigure .host d =>
    let p := dresserPage d.toNat
    onPage p 0x10C 4 1 (fun t => t.selConf d.toNat = false ∧ t.failsafe = false)
      (fun t =>
      let q := selected t d.toNat 0x104
      t.configure d.toNat q (t.qcfgWord d.toNat q) (fun u st => u.flushQueue d.toNat q st))
  | .qcmdFlush .host d =>
    onPage (dresserPage d.toNat) 0x10C 4 2 (queueTakes d.toNat)
      (fun t => t.flushQueue d.toNat (selected t d.toNat 0x104) stFlushed)
  | .qcmdDisable .host d =>
    onPage (dresserPage d.toNat) 0x10C 4 3 (queueTakes d.toNat)
      (fun t => (onQueue d.toNat (fun x => { x with disabled := true }) t).flushQueue d.toNat (selected t d.toNat 0x104) stDisabled)
  | .qcmdEnable .host d =>
    onPage (dresserPage d.toNat) 0x10C 4 4 (queueTakes d.toNat) (onQueue d.toNat (fun x => { x with disabled := false }))
  | .hostPost d item =>
    onPage (dresserPage d.toNat) 0x128 8 item.toNat (postTaken d.toNat)
      (fun t => t.append d.toNat (selected t d.toNat 0x120) item .host)
  | .doorbell =>
    onPage mboxPage 0x100 4 1 (fun t => t.mboxBusy = false) (fun t =>
      let u := (t.wakeDieE 1).setFld mboxPage 0x104 0 1 1
      { u with rtp := { u.rtp with queue := u.rtp.queue ++ [{ host := true, pid := 0, addr := 0 }] } })
  | .keyLoad slot mask =>
    onPage vaultPage 0x140 4 (2 ^ 31 + slot.toNat * 2 ^ 16 + mask.toNat) (fun _ => True) (fun t => t.keyLoad slot mask)
  | .rawModeEnter src =>
    onPage seedPage 0x140 4 (src.toNat * 256 + 1) (fun _ => True) (fun t => t.writeTest (src.toNat * 256 + 1))
  | .rawModeExit =>
    onPage seedPage 0x140 4 (s.rawSrc * 256) (fun _ => True) (fun t => t.writeTest (s.rawSrc * 256))
  | .complete src => onPage evcPage 0x11C 4 src.toNat (fun _ => True) (fun t => t.evcComplete src.toNat)
  | .tgtRdWrite n v => onPage evcPage (0x300 + 4 * n.toNat) 4 v.toNat (fun _ => True) (fun t => t.writeRd n.toNat v)
  | .tgtEnable cfg =>
    onPage evcPage 0x140 4 cfg.toNat (fun _ => True) (fun t => t.writeTgtCfg (t.fld evcPage 0x134 0 6) cfg.toNat)
  | .enSet src => onPage evcPage 0x114 4 src.toNat (fun t => t.gateMode = true) (fun t => t.setEn src.toNat true)
  | .enClr src => onPage evcPage 0x118 4 src.toNat (fun t => t.gateMode = true) (fun t => t.setEn src.toNat false)
  | .enpendWrite n v =>
    onPage evcPage (0x400 + 4 * n.toNat) 4 v.toNat (fun t => t.gateMode = false) (fun t =>
      (List.range 16).foldl (fun (u : State) j =>
        u.enpendOne (16 * n.toNat + j) (v.getLsbD j) (v.getLsbD (16 + j))) t)
  | .gateHoldWrite h => onPage evcPage 0x104 4 (if h then 1 else 0) (fun _ => True) (fun t => t.writeHold h)
  | .gaugeTrig => onPage gaugePage 0x100 4 1 (fun _ => True) (fun t => t.gaugeTrigger 1 t.time.toNat)
  | .journalCapture => onPage journalPage 0x138 4 1 (fun _ => True) (fun t => t.journalCapture)
  | .disableReq .host page => byNum page 0x008 2 (fun p t => t.disablePage p)
  | .enableResume .host page => byNum page 0x008 1 (fun p t => t.resumePage p)
  | .softReset .host page => byNum page 0x008 4 (fun p t => t.softReset p)
  | .evtSet .host page v => byNum page 0x01C v.toNat (fun p t => t.wr p 0x018 (t.rd p 0x018 ||| v))
  | .evtPendingClear .host page v => byNum page 0x018 v.toNat (fun p t =>
      (t.wr p 0x018 (t.rd p 0x018 &&& ~~~v)).wr p 0x010 (t.rd p 0x010 &&& (~~~v ||| conditionBits p.type)))
  | _ => none

/-- A host write is accepted: the host reaches its page, the page answers and is not a CONFIDENTIAL partition's, no write waits
in the PCIe controller and the Journal has room for its entries (R391, R413, R417, R424 to R426, R456); t is the state once DOZE has ended and the entries
are queued. -/
def hostTakes (s : State) (r : HostRow) (t : State) : Prop :=
  let off := r.addr % 4096
  let post : Bool := r.page.type = tyDresser && off = 0x128 && r.size = 8
  let post2 : Bool := r.page.type = tyDresser && off = 0x12C
  let u := s.hostWakes r.page (if post || post2 then 5 else 4)
  let ws := journalWords r.page.type off r.size r.val
  barPage r.addr = some r.page ∧ s.hostReach = true ∧ s.pageLive r.page = true ∧ s.answersWrite r.page off = true ∧
  u.pageConf r.page = false ∧ s.journal.writes = [] ∧ s.journalLevel + ws.length ≤ 64 ∧ t = u.journalWrite r.page ws

/-- An accepted write of a whole 64-bit register: no LO written before is kept for it. -/
def wholeWrite (r : HostRow) (t : State) : State :=
  if r.size = 8 ∧ is64 r.page.type (r.addr % 4096) = true then t.setLo .host r.page (r.addr % 4096) none else t

/-- The register commands of a thread: the thread, and the address, the size and the value of the access that it has
outstanding; none for a read. -/
def threadReg (s : State) : Instr → Option (Who × Nat × Nat × Option Nat)
  | .start (.thread v) w => some (v, pageAddr (s.corePage w.core.toNat 0) (0x200 + 32 * w.thr.toNat), 4, some 1)
  | .stop (.thread v) w => some (v, pageAddr (s.corePage w.core.toNat 0) (0x200 + 32 * w.thr.toNat), 4, some 2)
  | .ibufInvalidate (.thread v) k => some (v, pageAddr (s.corePage k.toNat 0) 0x100, 4, some 1)
  | .nsuSubmit (.thread v) c a => some (v, pageAddr (s.clusterPage c.toNat pgNsu) 0x100, 8, some a.toNat)
  | .routerSubmit (.thread v) c a => some (v, pageAddr (s.clusterPage c.toNat pgRouter) 0x100, 8, some a.toNat)
  | .qselWrite (.thread v) d q => some (v, pageAddr (dresserPage d.toNat) 0x104, 4, some q.toNat)
  | .qcmdConfigure (.thread v) d => some (v, pageAddr (dresserPage d.toNat) 0x10C, 4, some 1)
  | .qcmdFlush (.thread v) d => some (v, pageAddr (dresserPage d.toNat) 0x10C, 4, some 2)
  | .qcmdDisable (.thread v) d => some (v, pageAddr (dresserPage d.toNat) 0x10C, 4, some 3)
  | .qcmdEnable (.thread v) d => some (v, pageAddr (dresserPage d.toNat) 0x10C, 4, some 4)
  | .psubmit v a => some (v, pageAddr mboxPage 0x108, 8, some a.toNat)
  | .randRead (.thread v) => some (v, pageAddr seedPage 0x800, 8, none)
  | .rawRead (.thread v) => some (v, pageAddr seedPage 0x148, 8, none)
  | .disableReq (.thread v) page => some (v, numAddr page 0x008, 4, some 2)
  | .enableResume (.thread v) page => some (v, numAddr page 0x008, 4, some 1)
  | .softReset (.thread v) page => some (v, numAddr page 0x008, 4, some 4)
  | .evtSet (.thread v) page x => some (v, numAddr page 0x01C, 4, some x.toNat)
  | .evtPendingClear (.thread v) page x => some (v, numAddr page 0x018, 4, some x.toNat)
  | .registerWrite (.thread v) a n x => some (v, a.toNat, n, some x.toNat)
  | .registerRead (.thread v) a n => some (v, a.toNat, n, none)
  | _ => none

/-- The host's register reads: the page, the address and the size. -/
def hostReadRow : Instr → Option (Page × Nat × Nat)
  | .randRead .host => some (seedPage, pageAddr seedPage 0x800, 8)
  | .rawRead .host => some (seedPage, pageAddr seedPage 0x148, 8)
  | .registerRead .host a n => (barPage a.toNat).map (fun p => (p, a.toNat, n))
  | _ => none

/-! ### Mailbox requests (Table 11.1) -/

/-- The commands of the mailbox: CMD (0x600 and the state for POWER_SET), who may send them, whether they run while die E
alone is awake (R401), the bits of the body that they use; and what the chapters say they do. -/
def rtpTable : Instr → Option (RtpCmd × (RtpReq → Desc → State → RtpOut))
  | .getInfo => some (⟨0x01, true, true, true, fun _ => 0⟩, bodyGetInfo)
  | .derive => some (⟨0x10, true, true, false, deriveUsed⟩, bodyDerive)
  | .invalidate => some (⟨0x11, true, true, false, nodeUsed⟩, bodyInvalidate)
  | .rearm => some (⟨0x12, true, true, false, nodeUsed⟩, bodyRearm)
  | .slotDestroy => some (⟨0x13, true, true, false, usedBytes 16 1⟩, bodySlotDestroy)
  | .keyToSeed => some (⟨0x14, true, true, false, seedUsed⟩, bodyKeyToSeed)
  | .ownerReplace => some (⟨0x18, false, true, false, fun i => usedBytes 16 1 i + usedBytes 32 32 i⟩, bodyOwnerReplace)
  | .ownerConfirm => some (⟨0x19, true, true, true, fun i => usedBytes 16 1 i + usedBytes 32 32 i⟩, bodyOwnerConfirm)
  | .wrapToOwner => some (⟨0x1A, true, true, true, wrapUsed⟩, bodyWrapToOwner)
  | .chalresp => some (⟨0x20, true, true, true, fun i => usedBytes 16 1 i + usedBytes 32 32 i⟩, bodyChalresp)
  | .partCreate => some (⟨0x30, true, false, false, usedBytes 16 16⟩, bodyCreate)
  | .partTeardown => some (⟨0x31, true, true, false, teardownUsed⟩, bodyPartTeardown)
  | .bundleLoad => some (⟨0x33, true, true, false, usedBytes 16 32⟩, bodyBundleLoad)
  | .attest => some (⟨0x35, true, true, true, attestUsed⟩, bodyAttest)
  | .openRegion => some (⟨0x38, true, false, false, openUsed⟩, bodyOpenRegion)
  | .trimRead => some (⟨0x40, true, false, true, usedBytes 16 8⟩, bodyTrimRead)
  | .trimWrite => some (⟨0x41, true, false, true, usedBytes 16 8⟩, bodyTrimWrite)
  | .coreRemap => some (⟨0x51, true, false, false, usedBytes 16 2⟩, fun _ => bodyCoreRemap)
  | .clusterRemap => some (⟨0x52, true, false, false, usedBytes 16 2⟩, fun _ => bodyClusterRemap)
  | .laneSpare => some (⟨0x53, true, false, false, usedBytes 16 2⟩, fun _ => bodyLaneSpare)
  | .faultLogRead => some (⟨0x54, true, false, true, usedBytes 16 10⟩, bodyFaultLogRead)
  | .powerSetActive => some (⟨0x600, true, false, true, fun i => if i = 16 then 3 else 0⟩, bodyPowerSetActive)
  | .powerSetDoze => some (⟨0x601, true, false, true, fun i => if i = 16 then 3 else 0⟩, bodyPowerSetDoze)
  | .powerSetSleep => some (⟨0x602, true, false, true, fun i => if i = 16 then 3 else 0⟩, bodyPowerSetSleep)
  | _ => none

/-- The RTP has a request at the front of its queue and has read it: s1 is the state after the read. -/
def rtpFront (s s1 : State) (r : RtpReq) (rest : List RtpReq) (q : Desc) : Prop :=
  s.rtp.queue = r :: rest ∧ s.rtpReady = true ∧ s.rtpRead r = (s1, stOk, q)

/-- The state with the front request answered: it leaves the queue, and its response is written (R302 to R304). -/
def rtpAnswered (t : State) (r : RtpReq) (q : Desc) (st : Status) (b : List Byte) : State :=
  ({ t with rtp := { t.rtp with queue := t.rtp.queue.drop 1 } }).respond r (q.n 8 8) st b

/-! ### Descriptors of send queues (Table 9.2) -/

/-- The rows of a send queue's descriptors: the die and queue, the row, and what the chapter says the command does. -/
def sqTable : Instr → Option (BitVec 2 × BitVec 12 × Nat × (Agent → Desc → Nat → State → State × SqOut))
  | .send d q => some (d, q, 1, bodySend q)
  | .waitCount d q => some (d, q, 2, bodyWaitCount d.toNat q)
  | .queueSetup d q => some (d, q, 3, bodyQueueSetup)
  | .peerSetup d q => some (d, q, 4, bodyPeerSetup)
  | .peerCmdRekey d q => some (d, q, 5, peerCmd goRekey)
  | .peerCmdReset d q => some (d, q, 6, peerCmd goReset)
  | .peerCmdRemove d q => some (d, q, 7, peerCmd goRemove)
  | .peerCmdQuery d q => some (d, q, 8, peerCmd goQuery)
  | _ => none

/-- A bound queue has a descriptor at its front that Mitre takes and has read (R247, R251, R252): s1 is the state after the
read, a the descriptor's address. -/
def sqFront (s s1 : State) (d : Nat) (q : BitVec 12) (m : MQueue) (cls : Nat) (a : Nat) (rest : List (Word × Producer))
    (e : Desc) : Prop :=
  ∃ (item : Word) (p : Producer), s.mq d q = some m ∧ s.engOn = true ∧ s.cqBlocked d q = false ∧
    (s.queue d q).entries = (item, p) :: rest ∧ item.toNat = a ∧ a < 2 ^ 40 ∧ a % 64 = 0 ∧
    s.takesWork (mitrePage d) = true ∧ (s.part m.pid).st ≠ 3 ∧ s.checkRange (mitreAgent d m.pid cls) false a 64 = stOk ∧
    s.memRead (mitreAgent d m.pid cls) a 64 = (s1, stOk, e)

/-- A ring in a Press or a Drawer that its partition may write: l is where its next record goes, lh its header, and READ_COUNT
there leaves room (R252). -/
def ringReady (s : State) (d : Nat) (r : Ring) (l lh : Nat) : Prop :=
  let a := r.base + 32 * (r.written % 2 ^ r.log2n)
  inBank s d a l ∧ inBank s d r.hdr lh ∧ l % 32 = 0 ∧ lh % 16 = 0 ∧
  (∀ i < 32, s.checkPlace r.pid true none (s.place d (a + i)) = stOk) ∧
  (∀ i < 8, s.checkPlace r.pid true none (s.place d (r.hdr + i)) = stOk) ∧
  (r.written + 1 + 2 ^ 64 - numberAt s (lh + 8) 8) % 2 ^ 64 ≤ 2 ^ r.log2n

/-- A record has been appended to a ring: its bytes, then WRITE_COUNT; every other byte is as before (R252). -/
def recordPut (s t : State) (d n : Nat) (r : Ring) (l lh : Nat) (rec : List Byte) : Prop :=
  let count := (r.written + 1) % 2 ^ 64
  t.ring d n = some { r with written := count } ∧
  ∀ a, t.byte a = if lh ≤ a ∧ a < lh + 8 then (bytesOf 8 count).getD (a - lh) 0
    else if l ≤ a ∧ a < l + 32 then rec.getD (a - l) 0 else s.byte a

/-- A Mitre frame of a type arrives (Table 9.1). -/
def frameRow : Instr → Option (Nat × Frame)
  | .mitreData f => some (1, f)
  | .mitreZero f => some (2, f)
  | .mitreAck f => some (3, f)
  | .creditReq f => some (4, f)
  | _ => none

/-- The device is READY and ACTIVE, with its clocks running. -/
def inService (s : State) : Prop := s.pins.por = true ∧ s.mode = 1 ∧ s.power = 0

/-- A packet's peer is one that its port may reach: allocated, of a partition that holds the port and that takes packets:
an ACTIVE one, or one in teardown while its sends end (R241, R270, R346). -/
def reachable (s : State) (f : Frame) (p : Peer) : Prop :=
  s.peer f.peer = some p ∧ (s.part p.pid).ports.getLsbD f.port.toNat = true ∧ s.takesPackets p.pid = true

/-- The state once a packet has been authenticated: its key operation, its peer's counters and MITRE.RX_PACKETS. -/
def authentic (s : State) (h : BitVec 22) (p : Peer) (f : Frame) (old : Bool) : State :=
  let slot := if old then ((p.oldRx.map (fun x => x.1)).getD 0) else p.rxSlot
  ((s.countKeyOp slot).setPeer h (some (p.authed (f.n 12 8) old))).bump64 (mitrePage (homeOf h)) 0x158 1

/-- A queue with its front item taken. -/
def itemTaken (t : State) (d : Nat) (q : BitVec 12) (rest : List (Word × Producer)) : State :=
  t.setQueue d q { t.queue d q with entries := rest }

/-! ### Joist packets (Table 10.2) -/

/-- A packet of a type arrives on a lane of a die. -/
def joistRow : Instr → Option (BitVec 2 × BitVec 6 × Nat × JPkt)
  | .rdReq d lane p => some (d, lane, 1, p)
  | .rdResp d lane p => some (d, lane, 2, p)
  | .wr d lane p => some (d, lane, 3, p)
  | .joistAtom d lane p => some (d, lane, 4, p)
  | .wrAck d lane p => some (d, lane, 5, p)
  | _ => none

/-- A write of n bytes at a local address would write part of a poisoned line of Press or Drawer (R208). -/
def partPoisoned (s : State) (a n : Nat) : Prop :=
  ∃ l, ((∃ c, s.placeLocal a = .press c l) ∨ ∃ k, s.placeLocal a = .drawer k l) ∧ s.partBad l n = true

/-- The bytes that a request touches (R291). -/
def requestBytes (ty : Nat) (p : JPkt) : Nat :=
  if ty = 1 then p.size.toNat + 1 else if ty = 3 then p.payload.length
  else if p.op.toNat % 16 = 4 then 20 else if p.op.getLsbD 4 then 8 else 4

/-! ### The HBM aperture (R448) -/

/-- The host may read and write HBM at an address: its region is open, or of an OPEN partition outside the fail-safe state. -/
def openAt (s : State) (a : Nat) : Prop :=
  a < 0x7800000000 ∧ ∃ r, s.region (a / 0x200000) = some r ∧
    ∀ p, r.owner = some p → (s.part p).conf = false ∧ s.failsafe = false

/-- The host is denied HBM at an address: its region is a CONFIDENTIAL partition's, or a partition's in the fail-safe
state. -/
def deniedAt (s : State) (a : Nat) : Prop :=
  a < 0x7800000000 ∧ ∃ r p, s.region (a / 0x200000) = some r ∧ r.owner = some p ∧
    ((s.part p).conf = true ∨ s.failsafe = true)

/-- No HBM of the host's lies at an address. -/
def unassignedAt (s : State) (a : Nat) : Prop := 0x7800000000 ≤ a ∨ s.region (a / 0x200000) = none

/-- A denied access of BAR2 leaves memory, and is counted by the PCIE and PARTITION pages, which raise their events. -/
def bar2Refused (s t : State) : Prop :=
  (∀ b, t.byte b = s.byte b) ∧ t.rdN pciePage 0x110 = (s.rdN pciePage 0x110 + 1) % 2 ^ 32 ∧
  t.rdN partPage 0x11C = (s.rdN partPage 0x11C + 1) % 2 ^ 32 ∧ (t.rd pciePage 0x010).getLsbD 2 = true ∧
  (t.rd partPage 0x010).getLsbD 1 = true

/-- An access of BAR2 where no HBM is leaves memory, and is counted. -/
def bar2Missed (s t : State) : Prop :=
  (∀ b, t.byte b = s.byte b) ∧ t.rdN pciePage 0x114 = (s.rdN pciePage 0x114 + 1) % 2 ^ 32

/-- The host's read has taken bytes. -/
def hostGot (t : State) (bs : List Byte) (poisoned : Bool) : Prop := t.host.bytes = bs ∧ t.host.poisoned = poisoned

end Sys2Proof.Spec
end

