-- ==== Sys2Proof/Certificates/Slice0/Obligations.lean ====
section
/-!
DEFINITION. The statements of the model, by chapter of the specification.
-/

open Sys2Proof Sys2Proof.Machine Sys2Proof.Spec

/-! ### The block as a whole -/

/-- A step takes the command at the front of the queue and is that command's effect on the state with the queue's rest. -/
def Obligations.StepRunsFrontCommand : Prop :=
  ∀ (s : State) (c : Instr) (rest : List Instr), s.pending = c :: rest →
    step s = exec c { s with pending := rest }

/-- With no command waiting, one AON cycle passes (the model's choice, log 1): TIME counts one and, while ENG runs, its 64
cycles; in DOZE and SLEEP no thread changes; and after start-up no byte of memory does, where no packet waits for the end of
DOZE. -/
def Obligations.IdleStepPassesOneAonCycle : Prop :=
  ∀ s : State, s.pending = [] → ∃ t, step s = .next t ∧
    t.time = (if s.pins.por then s.time + 1 else s.time) ∧
    (s.mode ≠ 0 → (∀ d < 4, (s.die d).vcHeld = []) → ∀ a, t.byte a = s.byte a) ∧
    (s.pins.por = true → s.mode ≠ 0 → s.power ≠ 0 → t.eng = s.eng ∧ t.threads = s.threads) ∧
    (s.pins.por = true → s.mode = 1 → s.power = 0 → t.eng = s.eng + 64)

/-- Every command answers a next state in every state: none stops the block. That no command faults or is refused, and that
one whose event cannot occur answers the state as it is, are the model's choice (log 2); the effects stand in the other
statements. -/
def Obligations.EveryCommandAnswersNextState : Prop :=
  ∀ (i : Instr) (s : State), ∃ t, exec i s = .next t

/-- Power-on reset: every word of every occupied page at the reset value of its register's table, no partition and no
region held, every thread IDLE with its registers and counters zero, its predicates false and its PC 0, every Tally
slot closed, every seed slot and key slot empty. The values of the threads before START, the levels of the pins and
the empty queue are the model's. The registers of the threads before START and the empty queue are the model's
choice (logs 11 to 13). -/
def Obligations.ResetLeavesTheNamedValues : Prop :=
  (∀ p off, pageAt p.num = some p → off < 4096 → off % 4 = 0 → (State.reset.rd p off).toNat = resetWord p.type off) ∧
  State.reset.pending = [] ∧ State.reset.mode = 0 ∧ State.reset.power = 0 ∧
  (∀ p : BitVec 5, (State.reset.part p).st = 0) ∧ (∀ r, State.reset.region r = none) ∧
  (∀ w, (State.reset.thread w).st = .idle ∧ (∀ g, (State.reset.thread w).reg g = 0) ∧
    (∀ q, q ≠ 0 → (State.reset.thread w).pred q = false) ∧ (∀ c, (State.reset.thread w).counter c = 0) ∧
    (State.reset.thread w).pc = 0 ∧ (State.reset.thread w).accs = [] ∧
    (State.reset.thread w).cause = 0 ∧ (State.reset.thread w).faultPc = 0 ∧ (State.reset.thread w).faultAddr = 0) ∧
  (∀ k, (State.reset.core k).tally = [] ∧ (State.reset.core k).rps = []) ∧
  (∀ d n, (State.reset.seedSlot d n).seed = none) ∧
  (∀ n, (State.reset.key n).st = .empty) ∧ (∀ src, (State.reset.src src).en = false ∧ (State.reset.src src).st = .idle) ∧
  State.reset.pins.faultN = true ∧ State.reset.pins.thermN = true ∧ State.reset.pins.wakeN = true

/-- The thread of a well-formed instruction, decoded from the word that encodes it, is that instruction again, with every
operand at every value. -/
def Obligations.DecodeOfEncodeIsTheInstruction : Prop :=
  ∀ (i : Instr) (w : Who) (gp : BitVec 3) (v : BitVec 32),
    threadRow i = some (w, gp) → i.wf = true → encodeThreadWord i = some v → decodeThreadWord w v = some i

/-- A word that decodes is the one word that encodes what it decodes to: no bit of a legal word is ignored (R77), and what
it decodes to is well formed. -/
def Obligations.LegalWordsHaveOneMeaning : Prop :=
  ∀ (w : Who) (v : BitVec 32) (i : Instr), decodeThreadWord w v = some i →
    encodeThreadWord i = some v ∧ i.wf = true ∧ ∃ gp, threadRow i = some (w, gp)

/-- Every step, of any command in any state, keeps the canonical form of device memory. -/
def Obligations.EveryStepKeepsMemoryCanonical : Prop :=
  ∀ s t : State, MemoryInv s → step s = .next t → MemoryInv t

/-- Device memory is in canonical form after reset. -/
def Obligations.ResetMemoryIsCanonical : Prop := MemoryInv State.reset

/-- Every command leaves the queue of waiting commands as it is: a step takes one command off it and adds none. -/
def Obligations.CommandsLeaveTheQueue : Prop :=
  ∀ (i : Instr) (s t : State), exec i s = .next t → t.pending = s.pending

/-! ### Threads: results, predicates and branches (chapter 03) -/

/-- The ALU functions, the immediate forms and the moves write their result, modulo 2^64, to rd and step the PC; g0 stays
zero; nothing else of the state changes. -/
def Obligations.ArithmeticWritesItsResult : Prop :=
  ∀ (i : Instr) (r : RegRow) (s : State), resultRow i = some r → s.issues r.who i r.gp r.reads →
    ∃ x : Thread, exec i s = .next (issuedAs s r.who i x) ∧
      (∀ g, x.reg g = regAfter (s.thread r.who) r.rd
        (BitVec.ofInt 64 (r.value (fun g => ((s.thread r.who).reg g).toNat) (fun g => ((s.thread r.who).reg g).toInt))) g) ∧
      x.pc = (s.thread r.who).pc + 4 ∧ x.lat = slowInstr i ∧ sameButRegs x (s.thread r.who)

/-- MFS reads the special registers of Table 3.3, zero-extended, into rd. MTS to a counter stores the low 32 bits of the
source there and steps the PC; MTS to any other number faults with SPECIAL. With the guard false MTS faults at no
number; and a word of MFS or MTS whose func is above 0x0F is illegal, and faults whatever its guard. -/
def Obligations.SpecialRegistersAreReadAndWritten : Prop :=
  (∀ (w : Who) (gp : BitVec 3) (rd : BitVec 5) (sr : BitVec 4) (s : State), s.issues w (.mfs w gp rd sr) gp [] →
      ∃ x : Thread, exec (.mfs w gp rd sr) s = .next (issuedAs s w (.mfs w gp rd sr) x) ∧
        (∀ g, x.reg g = regAfter (s.thread w) rd (BitVec.ofNat 64 (specialValue s w sr.toNat)) g) ∧
        x.pc = (s.thread w).pc + 4 ∧ x.lat = false ∧ sameButRegs x (s.thread w)) ∧
  (∀ (w : Who) (gp : BitVec 3) (sr : BitVec 4) (ra : BitVec 5) (s : State), s.issues w (.mts w gp sr ra) gp [ra] →
      (8 ≤ sr.toNat → sr.toNat < 12 → ∃ x : Thread,
        exec (.mts w gp sr ra) s = .next (issuedAs s w (.mts w gp sr ra) x) ∧
        x = { s.thread w with pc := (s.thread w).pc + 4, cc := x.cc, lat := false } ∧
        ∀ c, x.counter c = if c = sr.toNat - 8 then BitVec.ofNat 32 ((s.thread w).reg ra).toNat
                           else (s.thread w).counter c) ∧
      (¬ (8 ≤ sr.toNat ∧ sr.toNat < 12) → ∃ t, exec (.mts w gp sr ra) s = .next t ∧
        Faulted s t w 0xB (s.thread w).pc 0)) ∧
  ((∀ (w : Who) (gp : BitVec 3) (sr : BitVec 4) (ra : BitVec 5) (v : BitVec 32) (s : State), s.active w → s.turn w →
      s.fetch w = .word v → decodeThreadWord w v = some (.mts w gp sr ra) → (s.thread w).pred gp = false →
      exec (.mts w gp sr ra) s = .next (passedBy s w)) ∧
    (∀ (w : Who) (gp : BitVec 3) (i : Instr) (v : BitVec 32) (s : State), threadRow i = some (w, gp) → s.active w → s.turn w →
      s.fetch w = .word v → (wbits v 26 6 = 0x3C ∨ wbits v 26 6 = 0x3D) → 0x0F < (wbits v 0 8).toNat →
      decodeThreadWord w v = none ∧ ∃ t, exec i s = .next t ∧ Faulted s t w 1 (s.thread w).pc 0))

/-- CMP, CMPI and PLOG write their predicates and step the PC; p0 stays true; nothing else changes. -/
def Obligations.ComparesWritePredicates : Prop :=
  ∀ (i : Instr) (r : PredRow) (s : State), predRow i = some r → s.issues r.who i r.gp r.reads →
    ∃ x : Thread, exec i s = .next (issuedAs s r.who i x) ∧
      (∀ q, x.pred q = if q = 0 then true else r.value (s.thread r.who) q) ∧
      x = { s.thread r.who with pc := (s.thread r.who).pc + 4, p := x.p, lat := false }

/-- Branches move the PC to their target, or past them; CALL and JALR write the return address, JALR after it has read
ra; nothing else changes. -/
def Obligations.BranchesMoveThePc : Prop :=
  ∀ (i : Instr) (r : BranchRow) (s : State), branchRow i = some r → s.issues r.who i r.gp r.reads →
    ∃ x : Thread, exec i s = .next (issuedAs s r.who i x) ∧ x.pc = r.dest (s.thread r.who) ∧ x.lat = true ∧
      (∀ g, x.reg g = regAfter (s.thread r.who) r.link ((s.thread r.who).pc + 4) g) ∧ sameButRegs x (s.thread r.who)

/-- An instruction whose guard is false has no effect but to be passed; a word that is illegal faults its thread with
ILLEGAL whatever the guard. -/
def Obligations.FalseGuardHasNoEffect : Prop :=
  ∀ (i : Instr) (w : Who) (gp : BitVec 3) (v : BitVec 32) (s : State), threadRow i = some (w, gp) → s.active w → s.turn w →
    s.fetch w = .word v →
    (decodeThreadWord w v = some i → (s.thread w).pred gp = false →
      exec i s = .next (passedBy s w)) ∧
    (decodeThreadWord w v = none → ∃ t, exec i s = .next t ∧ Faulted s t w 1 (s.thread w).pc 0)

/-- A thread command stores nothing: the memory reads as before, whatever else the instruction does. Its stores stand in
the thread until their acceptance. -/
def Obligations.ThreadInstructionsStoreNothing : Prop :=
  ∀ (i : Instr) (w : Who) (gp : BitVec 3) (s t : State), threadRow i = some (w, gp) → exec i s = .next t →
    ∀ a, t.byte a = s.byte a

/-! ### Threads: memory (R72, R78 to R81) -/

/-- A load, store or atomic whose address is aligned and passes its checks joins the thread's outstanding accesses, and
the PC steps; no register, no memory and nothing else changes yet. LFADD joins the outstanding accesses once the
addresses of both partials pass their checks, aligned or not. An aligned access that fails its check faults, and no
byte changes: an atomic outside HBM, Press and Drawer with ADDR_UNMAPPED, a store over Joist that the Wicket refuses
with RELEASE_DENIED, another with ADDR_UNMAPPED (at an invalid segment of the host window too), BOUND_FAULT or
RELEASE_DENIED as its check says; and LFADD so for either of its partials. That an atomic takes a slot of each kind,
and that a superseded load writes nothing, are the model's readings (logs 27 and 28). -/
def Obligations.AccessesJoinTheOutstanding : Prop :=
  (∀ (i : Instr) (r : AccRow) (s : State), accRow i = some r → s.issues r.who i r.gp r.reads →
      let t := s.thread r.who
      let x := r.acc t
      x.addr % x.size = 0 → (isAtom x = true → s.atomicPlace r.who x.addr x.size = true) →
      (x.stores = true → s.remoteDenied r.who x.addr = false) → s.checkThread r.who x.stores x.addr x.size = stOk →
      exec i s = .next (issuedAs s r.who i { t with accs := superseded x t.accs ++ [x], pc := t.pc + 4, lat := false })) ∧
  (∀ (w : Who) (gp : BitVec 3) (rd ra rb : BitVec 5) (order : BitVec 2) (s : State),
      s.issues w (.atomLfadd w gp rd ra rb order) gp [ra, rb] →
      let t := s.thread w
      let x : Access := { kind := .atom 4, addr := (t.reg ra).toNat, size := 20, rd := rd, data := 0, cmp := 0,
                          src := (t.reg rb).toNat, acq := order.toNat % 2 = 1, rel := 2 ≤ order.toNat, pc := t.pc,
                          stage := .issued }
      s.atomicPlace w x.addr 20 = true → s.atomicPlace w x.src 24 = true →
      s.remoteDenied w x.addr = false → s.checkThread w true x.addr 20 = stOk → s.checkThread w false x.src 24 = stOk →
      exec (.atomLfadd w gp rd ra rb order) s = .next (issuedAs s w (.atomLfadd w gp rd ra rb order)
        { t with accs := superseded x t.accs ++ [x], pc := t.pc + 4, lat := false })) ∧
  ((∀ (i : Instr) (r : AccRow) (s : State), accRow i = some r → s.issues r.who i r.gp r.reads →
      let x := r.acc (s.thread r.who)
      let st := s.checkThread r.who x.stores x.addr x.size
      let faults (c : BitVec 4) : Prop := ∃ t, exec i s = .next t ∧ Faulted s t r.who c (s.thread r.who).pc x.addr
      x.addr % x.size = 0 →
      (isAtom x = true → s.atomicPlace r.who x.addr x.size = false → faults 3) ∧
      ((isAtom x = true → s.atomicPlace r.who x.addr x.size = true) →
        (x.stores = true → s.remoteDenied r.who x.addr = true → faults 6) ∧
        ((x.stores = true → s.remoteDenied r.who x.addr = false) →
          (st = 0x84 ∨ st = stSegment → faults 3) ∧ (st = 0x85 → faults 4) ∧ (st = 0x72 → faults 6)))) ∧
    (∀ (w : Who) (gp : BitVec 3) (rd ra rb : BitVec 5) (order : BitVec 2) (s : State),
      s.issues w (.atomLfadd w gp rd ra rb order) gp [ra, rb] →
      let a := ((s.thread w).reg ra).toNat
      let b := ((s.thread w).reg rb).toNat
      let onA := s.checkThread w true a 20
      let onB := s.checkThread w false b 24
      let faults (c : BitVec 4) (x : Nat) : Prop :=
        ∃ t, exec (.atomLfadd w gp rd ra rb order) s = .next t ∧ Faulted s t w c (s.thread w).pc x
      (s.atomicPlace w a 20 = false → faults 3 a) ∧
      (s.atomicPlace w a 20 = true → s.atomicPlace w b 24 = false → faults 3 b) ∧
      (s.atomicPlace w a 20 = true → s.atomicPlace w b 24 = true →
        (s.remoteDenied w a = true → faults 6 a) ∧
        (s.remoteDenied w a = false → joinCheck onA onB ≠ stOk →
          faults (causeOf (joinCheck onA onB)) (if onA = joinCheck onA onB then a else b)))))

/-- A misaligned load, store or atomic faults with MISALIGNED and makes no access; a PARK whose address is not a multiple of
8 faults so too, arms no monitor and does not wait. -/
def Obligations.MisalignedAccessesFault : Prop :=
  (∀ (i : Instr) (r : AccRow) (s : State), accRow i = some r → s.issues r.who i r.gp r.reads →
    (r.acc (s.thread r.who)).addr % (r.acc (s.thread r.who)).size ≠ 0 →
    ∃ t, exec i s = .next t ∧ Faulted s t r.who 2 (s.thread r.who).pc (r.acc (s.thread r.who)).addr) ∧
  (∀ (w : Who) (gp : BitVec 3) (rd ra rb : BitVec 5) (e : BitVec 6) (s : State),
    s.issues w (.park w gp rd ra rb e) gp [ra, rb] → ((s.thread w).reg ra).toNat % 8 ≠ 0 →
    ∃ t, exec (.park w gp rd ra rb e) s = .next t ∧ Faulted s t w 2 (s.thread w).pc ((s.thread w).reg ra).toNat)

/-- An accepted load that the partition may read takes the bytes that stand there, zero- or sign-extended, as its data:
of a Press or Drawer, or of an HBM block that passes its checks; nothing else changes. A block that is poisoned, or
whose version, line or contents fail their MAC, faults a READY thread with INTEGRITY at the load, which gets no
data; the failing block is poisoned. The data of an accepted load or atomic reaches its register, and the access
leaves the thread; nothing else of the thread or the state changes. -/
def Obligations.LoadsTakeMemoryIntoTheirRegister : Prop :=
  (∀ (w : Who) (idx l : Nat) (x : Access) (sext : Bool) (s : State), acceptable s w idx x → x.kind = .load sext →
      x.size ∈ [1, 2, 4, 8] → l % x.size = 0 →
      (∀ i < x.size, s.checkPlace (s.agentOf w 1).pid false none (s.place (dieOfCore w.core.toNat) (x.addr + i)) = stOk) →
      let d := dieOfCore w.core.toNat
      (inBank s d x.addr l ∨ (s.place d x.addr = .hbm l ∧ ∃ key, soundBlock s l key) →
        exec (.accessAcceptance w idx) s = .next (s.setThread w { s.thread w with
          accs := (s.thread w).accs.set idx { x with
            stage := .got (if sext then BitVec.ofInt 64 (signedOf x.size (numberAt s l x.size))
                           else BitVec.ofNat 64 (numberAt s l x.size)) } })) ∧
      (∀ key, s.place d x.addr = .hbm l → s.blockKey l = some key → s.keyLost l = false → s.ver0 key ≠ 0 →
        (s.ver0 key = 0xFFFFFFFF ∨ ∃ level < 3, s.macBad (macItem level key) = true) → (s.thread w).st = .ready →
        ∃ t, exec (.accessAcceptance w idx) s = .next t ∧ t.ver0 key = 0xFFFFFFFF ∧ (∀ a, t.byte a = s.byte a) ∧
          t.thread w = { s.thread w with st := .faulted, cause := 5, faultPc := x.pc, faultAddr := BitVec.ofNat 64 x.addr,
                                         wait := .none, accs := (s.thread w).accs.eraseIdx idx })) ∧
  (∀ (w : Who) (idx : Nat) (x : Access) (v : Word) (s : State),
      (s.thread w).accs[idx]? = some x → x.stage = .got v →
      ∃ y : Thread, exec (.loadReturn w idx) s = .next (s.setThread w y) ∧
        (∀ g, y.reg g = regAfter (s.thread w) x.rd v g) ∧
        y = { s.thread w with accs := (s.thread w).accs.eraseIdx idx, g := y.g })

/-- An accepted store that the partition may write puts the low bytes of its register there, the low one first, and leaves the
thread; every other byte of memory is as before, but that the first write of an HBM block makes the rest of it zero. A write of
a sound HBM block takes its next version, and one of a poisoned block is refused: its status is held for the next release
fence. -/
def Obligations.AcceptedStoreWritesMemory : Prop :=
  ∀ (w : Who) (idx l : Nat) (x : Access) (s : State), acceptable s w idx x → x.kind = .store →
    x.size ∈ [1, 2, 4, 8] → l % x.size = 0 →
    (∀ i < x.size, s.checkPlace (s.agentOf w 1).pid true none (s.place (dieOfCore w.core.toNat) (x.addr + i)) = stOk) →
    let d := dieOfCore w.core.toNat
    (inBank s d x.addr l → ∃ t, exec (.accessAcceptance w idx) s = .next t ∧ storedAt s t l (bytesOf x.size x.data.toNat) ∧
      sameAccesses (t.thread w).accs ((s.thread w).accs.eraseIdx idx) ∧
      ((s.thread w).st ≠ .waitPark → (t.thread w).accs = (s.thread w).accs.eraseIdx idx) ∧ t.cores = s.cores ∧ t.dies = s.dies ∧
      (noParkedPoison s → t.regs = s.regs)) ∧
    (∀ key, s.place d x.addr = .hbm l → soundBlock s l key → (s.versionsFull key = true → s.ver0 key ≠ 0) →
      ∃ t, exec (.accessAcceptance w idx) s = .next t ∧ storedInBlock s t key l (bytesOf x.size x.data.toNat) ∧
        t.thread w = { s.thread w with accs := (s.thread w).accs.eraseIdx idx } ∧ (∀ v, v ≠ w → t.thread v = s.thread v) ∧
        (s.versionsFull key = false → t.ver0 key = s.ver0 key + 1) ∧ t.cores = s.cores ∧ t.dies = s.dies) ∧
    (∀ key, s.place d x.addr = .hbm l → s.blockKey l = some key → s.keyLost l = false → s.ver0 key = 0xFFFFFFFF →
      s.mode ≠ 3 → (s.thread w).held = none → exec (.accessAcceptance w idx) s = .next (s.setThread w { s.thread w with
        accs := (s.thread w).accs.eraseIdx idx, held := some (0x40, x.addr) }))

/-- An accepted FADD, SWAP, CAS or MAX on a Press, a Drawer or a sound HBM block gives the old value, zero-extended, as its
data, and stores what R80 says; CAS on another value leaves memory as it was. An accepted LFADD adds the partial at its source
to the one at its destination as the long-form add does, and gives its status and the resulting flags. -/
def Obligations.AcceptedAtomicUpdatesMemory : Prop :=
  ∀ (w : Who) (idx l : Nat) (x : Access) (op : BitVec 4) (s : State), acceptable s w idx x → x.kind = .atom op →
    let d := dieOfCore w.core.toNat
    let pid := (s.agentOf w 1).pid
    (∀ i < x.size, s.checkPlace pid true none (s.place d (x.addr + i)) = stOk) →
    (op.toNat < 4 → x.size ∈ [4, 8] → l % x.size = 0 →
      let old := numberAt s l x.size
      let bs := bytesOf x.size (atomStores op.toNat x.size old x.data.toNat x.cmp.toNat)
      let accs := (s.thread w).accs.set idx { x with stage := .got (BitVec.ofNat 64 old) }
      (inBank s d x.addr l → ∃ t, exec (.accessAcceptance w idx) s = .next t ∧ storedAt s t l bs ∧
        sameAccesses (t.thread w).accs accs ∧ ((s.thread w).st ≠ .waitPark → (t.thread w).accs = accs) ∧
        t.cores = s.cores ∧ t.dies = s.dies ∧ (noParkedPoison s → t.regs = s.regs)) ∧
      (∀ key, s.place d x.addr = .hbm l → soundBlock s l key → s.versionsFull key = false →
        ∃ t, exec (.accessAcceptance w idx) s = .next t ∧ t.thread w = { s.thread w with accs := accs } ∧
          (op = 2 ∧ old ≠ x.cmp.toNat % 2 ^ (8 * x.size) → ∀ a, t.byte a = s.byte a) ∧
          (¬ (op = 2 ∧ old ≠ x.cmp.toNat % 2 ^ (8 * x.size)) → storedInBlock s t key l bs ∧ t.ver0 key = s.ver0 key + 1) ∧
          t.cores = s.cores ∧ t.dies = s.dies)) ∧
    (∀ ls, op = 4 → x.size = 20 → s.run.asks = [] → inBank s d x.addr l → l % 64 + 20 ≤ 64 → inBank s d x.src ls →
      ls % 64 + 24 ≤ 64 → (∀ i < 24, s.checkPlace pid false none (s.place d (x.src + i)) = stOk) →
      let sum := lfAdd x.addr (partialAt s l) x.src (partialAt s ls)
      let accs := (s.thread w).accs.set idx { x with
        stage := .got (BitVec.ofNat 64 (sum.1.toNat + 256 * sum.2.elem.flags.toNat)) }
      ∃ t, exec (.accessAcceptance w idx) s = .next (settled (.thread w) t) ∧
        (sum.1 = stOk → storedAt s t l (partialBytes sum.2)) ∧ (sum.1 ≠ stOk → ∀ a, t.byte a = s.byte a) ∧
        sameAccesses (t.thread w).accs accs ∧ ((s.thread w).st ≠ .waitPark → (t.thread w).accs = accs) ∧
        t.cores = s.cores ∧ t.dies = s.dies ∧ (noParkedPoison s → t.regs = s.regs))

/-- The line that a stalled thread needs enters its core's buffer, so that its fetch then finds the word that stands in
memory at its PC; threads and memory stay. FENCE ACQ that issues, no load being outstanding, passes; REL, FULL and
IFENCE, no access being, pass or report a held status as a fault; IFENCE also empties the core's instruction buffer.
Nothing else changes. An arrival at a barrier: a count outside 1 to 256, or one other than the phase's, faults with
BARRIER_COUNT; the last arrival ends the phase, and every thread of the cluster that waits there is READY; an
earlier one counts, and waits where it is SYNC. The buffer of 512 lines that lets its oldest go, and a fence that is
passed over until then, are the model's forms (logs 25 and 29). -/
def Obligations.ThreadsWaitForLinesFencesAndBarriers : Prop :=
  (∀ (w : Who) (s s1 : State) (bs : List Byte), s.active w → s.fetch w = .miss →
      s.readPiece (s.agentOf w 1) ((localOf (s.thread w).pc.toNat) / 64 * 64) 64 = (s1, stOk, bs) →
      ∃ t, exec (.fetchLineReturn w) s = .next t ∧
        t.fetch w = .word (BitVec.ofNat 32 (Crypto.leNat ((bs.drop ((s.thread w).pc.toNat % 64)).take 4))) ∧
        t.threads = s.threads ∧ (∀ a, t.byte a = s.byte a) ∧ ((t.core w.core.toNat).ibuf).length ≤ max 512 ((s.core w.core.toNat).ibuf).length) ∧
  (∀ (w : Who) (gp : BitVec 3) (s : State),
      let past : State := passedBy s w
      (s.issues w (.fenceAcq w gp) gp [] → (s.thread w).loads = 0 ∧ exec (.fenceAcq w gp) s = .next past) ∧
      ((s.thread w).held = none →
        (s.issues w (.fenceRel w gp) gp [] → (s.thread w).accs = [] ∧ exec (.fenceRel w gp) s = .next past) ∧
        (s.issues w (.fenceFull w gp) gp [] → (s.thread w).accs = [] ∧ exec (.fenceFull w gp) s = .next past) ∧
        (s.issues w (.ifence w gp) gp [] → (s.thread w).accs = [] ∧ exec (.ifence w gp) s =
          .next (past.setCore w.core.toNat { past.core w.core.toNat with ibuf := [] }))) ∧
      (∀ (i : Instr) (st : BitVec 8) (a : Nat), i ∈ [.fenceRel w gp, .fenceFull w gp, .ifence w gp] →
        s.issues w i gp [] → (s.thread w).held = some (st, a) →
        ∃ t, exec i s = .next t ∧ t.thread w = { s.thread w with
            st := .faulted, cause := causeOf st, faultPc := (s.thread w).pc, faultAddr := BitVec.ofNat 64 a, held := none,
            wait := .none, lat := false } ∧
          (∀ v, v ≠ w → t.thread v = s.thread v) ∧ ∀ b, t.byte b = s.byte b)) ∧
  (∀ (i : Instr) (sync : Bool) (w : Who) (gp : BitVec 3) (ra rb : BitVec 5) (s : State),
      (i = .barSync w gp ra rb ∧ sync = true ∨ i = .barArrive w gp ra rb ∧ sync = false) →
      s.issues w i gp [ra, rb] →
      let b : BitVec 4 := BitVec.ofNat 4 ((s.thread w).reg ra).toNat
      let n := ((s.thread w).reg rb).toNat
      let x := (s.cluster (kid w)).bar b.toNat
      ((n = 0 ∨ 256 < n ∨ (x.count ≠ 0 ∧ x.count ≠ n)) →
        ∃ t, exec i s = .next t ∧ Faulted s t w 9 (s.thread w).pc 0 ∧ t.clusters = s.clusters) ∧
      (1 ≤ n → n ≤ 256 → (x.count = 0 ∨ x.count = n) → ∃ t, exec i s = .next t ∧
        (x.arrived + 1 = n →
          (t.cluster (kid w)).bar b.toNat = ⟨0, 0⟩ ∧ t.thread w = { s.thread w with pc := (s.thread w).pc + 4, lat := false } ∧
          ∀ v, v ≠ w → (kid v = kid w ∧ waitsAt s v b → t.thread v = { s.thread v with st := .ready, wait := .none }) ∧
            (¬ (kid v = kid w ∧ waitsAt s v b) → t.thread v = s.thread v)) ∧
        (x.arrived + 1 ≠ n →
          (t.cluster (kid w)).bar b.toNat = ⟨n, x.arrived + 1⟩ ∧
          t.thread w = (if sync then { s.thread w with pc := (s.thread w).pc + 4, st := .waitBar, wait := .bar b, lat := false }
                        else { s.thread w with pc := (s.thread w).pc + 4, lat := false }) ∧
          ∀ v, v ≠ w → t.thread v = s.thread v)))

/-! ### Threads: fences, barriers, waiting (R83, R84, R93 to R97) -/

/-- ISSUE of a descriptor that the partition owns, to an engine of its own core or of another core of the partition, enters
the engine's queue under the next number and counts as outstanding; nothing else changes. -/
def Obligations.IssueQueuesTheCommand : Prop :=
  ∀ (w : Who) (gp : BitVec 3) (ra rb : BitVec 5) (remote : Bool) (s s1 : State) (e : Engine) (by1 : Byte) (k : Nat),
    s.issues w (.issue w gp ra rb remote) gp (if remote then [ra, rb] else [ra]) →
    let t := s.thread w
    let u := s.took w false
    let a := (t.reg ra).toNat
    t.accs = [] → a % 64 = 0 → s.ownedRange (s.agentOf w 1) a 64 = stOk →
    u.readPiece (u.agentOf w 1) (a + 1) 1 = (s1, stOk, [by1]) → by1.toNat = e.idx + 1 →
    (remote = false → k = w.core.toNat) →
    (remote = true → k = (t.reg rb).toNat ∧ k < 512 ∧ (s.physCore k).isSome ∧ s.coreOwner k = s.coreOwner w.core.toNat) →
    t.outOn e.idx < 255 → s.engCredit w.core.toNat k e = true →
    ∃ (x : EngEntry) (y : Thread), exec (.issue w gp ra rb remote) s =
        .next ({ u.setCore k ((u.core k).setQ e ((u.core k).q e ++ [x])) with cmdNum := s.cmdNum + 1 }.setThread w y) ∧
      x.num = s.cmdNum ∧ x.core = w.core ∧ x.thr = w.thr ∧ x.desc = a ∧ x.pid = (s.coreOwner w.core.toNat).getD 0 ∧
      x.pgen = (s.part x.pid).pgen ∧ x.rel = none ∧ x.status = (if s.engTakes k e then none else some 0x7E) ∧
      y = { t with pc := t.pc + 4, out := y.out, lat := false } ∧
      ∀ c, y.outOn c = if c = e.idx then t.outOn c + 1 else t.outOn c

/-- WAITC passes at once where (cc − T) mod 2^32 is below 2^31; else the thread waits on the counter with its target.
PARK reads the word at ra: where it differs from rb the thread goes on, with the word in rd (log 30); where it is
equal the thread waits, its monitor armed. A parked thread wakes with the word that stands there: at its timeout
where it set one, and, at an address without a monitor, at a poll that finds another word; a poll that finds the
same word leaves it asleep. -/
def Obligations.WaitsOnCountersAndWords : Prop :=
  (∀ (w : Who) (gp : BitVec 3) (cnt : BitVec 2) (ra : BitVec 5) (imm : BitVec 13) (s : State),
      s.issues w (.waitc w gp cnt ra imm) gp [ra] →
      let t := { s.thread w with lat := false }
      let tgt := (((t.reg ra).toNat + imm.toNat) % 2 ^ 32)
      exec (.waitc w gp cnt ra imm) s = .next (issuedAs s w (.waitc w gp cnt ra imm)
        (if ((t.counter cnt.toNat).toNat + 2 ^ 32 - tgt) % 2 ^ 32 < 2 ^ 31 then { t with pc := t.pc + 4 }
         else { t with pc := t.pc + 4, st := .waitCount, wait := .count cnt (BitVec.ofNat 32 tgt) }))) ∧
  (∀ (w : Who) (gp : BitVec 3) (rd ra rb : BitVec 5) (e : BitVec 6) (s s1 : State) (v : Nat),
      s.issues w (.park w gp rd ra rb e) gp [ra, rb] → (s.thread w).accs = [] → ((s.thread w).reg ra).toNat % 8 = 0 →
      (s.took w false).parkRead w ((s.thread w).reg ra).toNat = (s1, stOk, v) → v < 2 ^ 64 → s1.run.asks = [] →
      (v ≠ ((s.thread w).reg rb).toNat → ∃ x : Thread,
        exec (.park w gp rd ra rb e) s = .next (settled (.thread w) (s1.setThread w x)) ∧
        (∀ g, x.reg g = regAfter (s1.thread w) rd (BitVec.ofNat 64 v) g) ∧ x.pc = (s1.thread w).pc + 4 ∧
        sameButRegs x (s1.thread w)) ∧
      (v = ((s.thread w).reg rb).toNat → exec (.park w gp rd ra rb e) s =
        .next (settled (.thread w) (s1.setThread w { s1.thread w with
          pc := (s1.thread w).pc + 4, st := .waitPark, wait := .park ((s.thread w).reg ra).toNat ((s.thread w).reg rb) rd e })))) ∧
  (∀ (w : Who) (a v n : Nat) (rd : BitVec 5) (e : BitVec 6) (s s1 : State),
      (s.thread w).st = .waitPark → (s.thread w).wait = .park a (BitVec.ofNat 64 v) rd e → v < 2 ^ 64 → s.engOn = true →
      s.parkRead w a = (s1, stOk, n) → (s1.thread w).wait = (s.thread w).wait → s1.run.asks = [] →
      let wakes (o : Out) : Prop := ∃ x : Thread, o = .next (settled (.thread w) (s1.setThread w x)) ∧ x.st = .ready ∧ x.wait = .none ∧
        x.pc = (s1.thread w).pc ∧ ∀ g, x.reg g = regAfter (s1.thread w) rd (BitVec.ofNat 64 n) g
      (e ≠ 0 → wakes (exec (.parkTimeout w) s)) ∧
      (s.monitored w a = false → n ≠ v → wakes (exec (.parkPoll w) s)) ∧
      (s.monitored w a = false → n = v → exec (.parkPoll w) s = .next (settled (.thread w) s1)))

/-- NEXT on a work-item queue of the partition takes the oldest item; on an empty one it gives zero and false under
NOWAIT and waits otherwise; on a disabled one it gives DISABLED and false. PUT to a queue of the partition that
takes items, with credit left, appends rb; where a thread waits for an item, the oldest one takes it at once, in its
register, with its predicate true. -/
def Obligations.QueuesOfItemsAreFifo : Prop :=
  (∀ (w : Who) (gp : BitVec 3) (rd ra : BitVec 5) (pd : BitVec 3) (nowait : Bool) (s : State),
      s.issues w (.next w gp rd ra pd nowait) gp [ra] →
      let u := s.took w false
      let d := w.core.toNat / 128
      let q : BitVec 12 := BitVec.ofNat 12 ((s.thread w).reg ra).toNat
      let x := s.queue d q
      let gives (v : Word) (ok : Bool) (s0 : State) : Prop := ∃ y : Thread,
        exec (.next w gp rd ra pd nowait) s = .next (s0.setThread w y) ∧
        (∀ g, y.reg g = regAfter (s.thread w) rd v g) ∧
        (∀ p, y.pred p = if p = 0 then true else if p = pd then ok else (s.thread w).pred p) ∧
        y.pc = (s.thread w).pc + 4 ∧ y.st = .ready
      x.pid = s.coreOwner w.core.toNat → x.pid.isSome → x.kind = 1 →
      (s.queueOff d q = true → gives 0x7E false u) ∧
      (s.queueOff d q = false → (∀ item rest, x.entries = item :: rest →
        gives item.1 true (u.setQueue d q { x with entries := rest })) ∧
        (x.entries = [] → nowait = true → gives 0 false u) ∧
        (x.entries = [] → nowait = false → exec (.next w gp rd ra pd nowait) s =
          .next ((u.setQueue d q { x with waiters := x.waiters ++ [w] }).setThread w { s.thread w with
            pc := (s.thread w).pc + 4, st := .waitNext, wait := .next q rd pd, lat := false })))) ∧
  (∀ (w : Who) (gp : BitVec 3) (ra rb : BitVec 5) (s : State), s.issues w (.put w gp ra rb) gp [ra, rb] →
      let d := w.core.toNat / 128
      let q : BitVec 12 := BitVec.ofNat 12 ((s.thread w).reg ra).toNat
      let x := s.queue d q
      let item := (s.thread w).reg rb
      x.pid = s.coreOwner w.core.toNat → x.pid.isSome → x.kind ≠ 0 → s.queueOff d q = false →
      (x.entries.filter (fun e => e.2 = .tp w.core)).length ≤ x.grant.toNat →
      ∃ t, exec (.put w gp ra rb) s = .next t ∧ (t.thread w).pc = (s.thread w).pc + 4 ∧ (∀ a, t.byte a = s.byte a) ∧
        (x.waiters = [] → (t.queue d q).entries = x.entries ++ [(item, .tp w.core)]) ∧
        (∀ v rest rd pd, x.waiters = v :: rest → v ≠ w → (s.thread v).wait = .next q rd pd →
          (t.queue d q).entries = x.entries ∧ (t.queue d q).waiters = rest ∧ (t.thread v).st = .ready ∧
          (rd ≠ 0 → (t.thread v).reg rd = item) ∧ (t.thread v).pred pd = true))

/-- HALT ends a thread that has no access outstanding: it is IDLE, or DRAINING while engine commands are outstanding. An
engine reports its first command that has its status and no earlier one of its thread: the thread's counter for that
engine counts one, modulo 2^32, whatever the status; a WAITC whose target is reached ends, and a DRAINING thread
with nothing left is IDLE. -/
def Obligations.CompletionsCountAndThreadsEnd : Prop :=
  (∀ (w : Who) (gp : BitVec 3) (s : State), s.issues w (.halt w gp) gp [] →
      (s.thread w).held = none →
      ∃ t, exec (.halt w gp) s = .next t ∧ (∀ v, v ≠ w → t.thread v = s.thread v) ∧ (∀ a, t.byte a = s.byte a) ∧
        (t.thread w).pc = (s.thread w).pc + 4 ∧ (t.thread w).wait = .none ∧
        (t.thread w).st = (if (s.thread w).outOn 0 = 0 ∧ (s.thread w).outOn 1 = 0 ∧ (s.thread w).outOn 2 = 0 ∧
          (s.thread w).outOn 3 = 0 then .idle else .draining)) ∧
  (∀ (core : BitVec 9) (e : Engine) (waits : BitVec 24) (s : State) (x : EngEntry) (rest : List EngEntry),
      completable s.entryDone [] ((s.core core.toNat).q e) = some (x, rest) →
      let w : Who := { core := x.core, thr := x.thr }
      let n := (s.thread w).counter e.idx + 1
      ∃ t, exec (.engineCompletion core e waits) s = .next t ∧ (t.core core.toNat).q e = rest ∧
        (∀ c, (t.thread w).counter c = if c = e.idx then n else (s.thread w).counter c) ∧
        (∀ c, (t.thread w).outOn c = if c = e.idx then (s.thread w).outOn c - 1 else (s.thread w).outOn c) ∧
        ((s.thread w).st = .waitCount → (s.thread w).wait = .count (BitVec.ofNat 2 e.idx) (n - 1) →
          (t.thread w).st = .ready) ∧
        (∀ c tgt, (s.thread w).st = .waitCount → (s.thread w).wait = .count c tgt →
          ((t.thread w).st = .ready ↔ c.toNat = e.idx ∧ (n.toNat + 2 ^ 32 - tgt.toNat) % 2 ^ 32 < 2 ^ 31)) ∧
        ((s.thread w).st = .draining → ((t.thread w).st = .idle ↔ ∀ c < 4, (t.thread w).outOn c = 0)))

/-! ### The exact window accumulator (chapter 02) -/

/-- R57 to R59: a finite addend adds its truncated integer exactly, saturating with ACC_OVERFLOW, after which N is frozen;
WIDE follows N; INEXACT records lost bits; NaN and infinities set their flags and leave N. -/
def Obligations.AccumulatorAddsExactly : Prop :=
  ∀ (w : Int) (x : Elem), windowOk w = true →
    (∀ (neg : Bool) (m : Nat) (e : Int),
      let a := truncated w neg m e
      let sum := x.n.toInt + a.1
      let y := x.addFV w (.fin neg m e)
      (x.flags.getLsbD 2 = true → y = x) ∧
      (x.flags.getLsbD 2 = false → -2 ^ 135 ≤ sum → sum < 2 ^ 135 → y.n.toInt = sum ∧ y.flags.getLsbD 2 = false ∧
        y.flags.getLsbD 0 = (x.flags.getLsbD 0 || a.2)) ∧
      (x.flags.getLsbD 2 = false → sum < -2 ^ 135 → y.n.toInt = -2 ^ 135 ∧ y.flags.getLsbD 2 = true) ∧
      (x.flags.getLsbD 2 = false → 2 ^ 135 ≤ sum → y.n.toInt = 2 ^ 135 - 1 ∧ y.flags.getLsbD 2 = true) ∧
      (x.flags.getLsbD 2 = false →
        y.flags.getLsbD 1 = (decide (y.n.toInt < -2 ^ 127) || decide (2 ^ 127 ≤ y.n.toInt)))) ∧
    x.addFV w .nan = { x with flags := x.flags ||| 0x08 } ∧
    x.addFV w (.inf false) = { x with flags := x.flags ||| 0x10 } ∧
    x.addFV w (.inf true) = { x with flags := x.flags ||| 0x20 }

/-- A long-form add checks both partials under R61 first, then compares w, and only then adds; a destination that carries
ACC_OVERFLOW keeps its N; the other flags become the OR of both. -/
def Obligations.LongFormAddFollowsItsOrder : Prop :=
  ∀ (da sa : Nat) (d x : LForm),
    let good (a : Nat) (l : LForm) : Prop := a % 32 = 0 ∧ -256 ≤ l.w ∧ l.w ≤ 255 ∧ l.elem.flags.toNat < 64
    (¬ (good da d ∧ good sa x) → lfAdd da d sa x = (0x87, d)) ∧
    (good da d → good sa x → d.w ≠ x.w → lfAdd da d sa x = (0x86, d)) ∧
    (good da d → good sa x → d.w = x.w → ∃ y : Elem, lfAdd da d sa x = (0, { d with elem := y }) ∧
      (d.elem.flags.getLsbD 2 = true → y.n = d.elem.n) ∧
      (d.elem.flags.getLsbD 2 = false → -2 ^ 135 ≤ d.elem.n.toInt + x.elem.n.toInt → d.elem.n.toInt + x.elem.n.toInt < 2 ^ 135 →
        y.n.toInt = d.elem.n.toInt + x.elem.n.toInt) ∧
      ∀ i, i < 6 → i ≠ 1 → i ≠ 2 → y.flags.getLsbD i = (d.elem.flags.getLsbD i || x.elem.flags.getLsbD i))

/-- R66: a set of addends, evaluated twice, each time split into 1 to 256 parts in any order and combined in any order, gives
the same N, the same flags and the same drains in a mode other than SR, if every partial of both evaluations carries no flag other than INEXACT. -/
def Obligations.ReductionsAreSplitInvariant : Prop :=
  ∀ (w : Int) (a b : Combination), windowOk w = true → a.parts.flatten.Perm b.parts.flatten →
    a.parts.length ≤ 256 → b.parts.length ≤ 256 →
    (∀ l ∈ a.parts ++ b.parts, (reducePart w l).flags.toNat ≤ 1) → a.value w = b.value w ∧
    ∀ (code mode : Nat) (draw : BitVec 32), mode < 4 →
      ((a.value w).drained w).encode code mode draw = ((b.value w).drained w).encode code mode draw

/-! ### Engines (chapters 03 to 08) -/

/-- Each row of the engines' tables runs the command that its engine takes next: the descriptor is read, it names the
issuer's session, nothing holds it back, and a body that answers OK and needs no data of another device leaves its
state, with OK in the entry. That a command runs as one step is the model's choice (log 3). -/
def Obligations.EngineCommandsRun : Prop :=
  ∀ (i : Instr) (r : EngRow) (s s1 t : State) (n : Nat) (x : EngEntry) (d : Desc) (rel : Option Nat),
    engRow i = some r → let k := r.core.toNat
    let u := atStart s r
    takesNext u r n x → descriptorOf u s1 k x d → freeToStart u r n x d → notHeld u k r.eng n x d → sameSession x d →
    d.n 0 1 = r.op → (r.eng = .dma → dmaFields s1 (cmdAgent k x d) d = true) →
    r.body (cmdAgent k x d) x d s1 = (t, stOk, rel) → t.run.asks = [] →
    exec i s = .next (settled (.command x.num) (entryEnded t k r.eng n d stOk rel))

/-- A command whose PTAG names another session ends with TAG_MISMATCH, and one whose opcode its engine does not have
with the engine's status for it: nothing else changes but the read's effects. A command whose descriptor cannot be
read ends with the status of the read, and its body does not run. That a command runs as one step is the model's
choice (log 3). -/
def Obligations.EnginesRefuseCommands : Prop :=
  (∀ (i : Instr) (r : EngRow) (s s1 : State) (n : Nat) (x : EngEntry) (d : Desc), engRow i = some r →
      let k := r.core.toNat
      let u := atStart s r
      takesNext u r n x → descriptorOf u s1 k x d → freeToStart u r n x d → notHeld u k r.eng n x d →
      (¬ sameSession x d → d.n 0 1 = r.op → (r.eng = .dma → dmaFields s1 (cmdAgent k x d) d = true) →
        exec i s = .next (entryEnded s1 k r.eng n d 0x89 none)) ∧
      (sameSession x d → hasOpcode r.eng (d.n 0 1) = false →
        exec i s = .next (entryEnded s1 k r.eng n d (noOpcode r.eng) none))) ∧
  (∀ (i : Instr) (r : EngRow) (s s1 : State) (n : Nat) (x : EngEntry) (st : Status) (b : List Byte), engRow i = some r →
      let k := r.core.toNat
      let u := atStart s r
      (r.eng = .mxe → b = []) → takesNext u r n x → freeToStart u r n x b → st ≠ stOk → st ≠ stNoCredit →
      u.memRead (entryAgent k x) x.desc 64 = (s1, st, b) →
      exec i s = .next (entryEnded s1 k r.eng n (List.replicate 64 0) st none))

/-- OPEN names a slot by its first unit: a window out of range is FORMAT_INVALID, an index that is no multiple of the
mode's units SLOT_INVALID, and nothing is written; else the slot is OPEN with its mode, its w, all elements zero,
and no flag. DROP_RPS empties the slot it names, SEED_CLEAR every seed slot of its span that the partition owns;
nothing else changes. -/
def Obligations.SlotsOpenEmptyAndClear : Prop :=
  (∀ (k : Nat) (g : Agent) (x : EngEntry) (d : Desc) (s : State), d.headOk = true → d.skip = false →
      d.bits 8 7 1 = 0 → d.bits 9 2 6 = 0 → d.zero 12 52 = true →
      let idx := d.bits 8 0 7
      let mode := d.bits 9 0 2
      let w := signedOf 2 (d.n 10 2)
      let units := if mode = 2 then 2 else if mode = 3 then 4 else 1
      (mode = 3 → ¬ (-256 ≤ w ∧ w ≤ 255) → bodyOpen k g x d s = (s, 0x87, none)) ∧
      ((mode = 3 → -256 ≤ w ∧ w ≤ 255) → idx % units ≠ 0 → bodyOpen k g x d s = (s, 0x8A, none)) ∧
      ((mode = 3 → -256 ≤ w ∧ w ≤ 255) → idx % units = 0 → ∃ t y, bodyOpen k g x d s = (t, stOk, none) ∧
        (t.core k).slot idx = some y ∧ y.mode.toNat = mode ∧ y.poisoned = false ∧ y.sat = false ∧
        (mode = 3 → y.w = w) ∧ (∀ i j, y.at i j = Elem.zero) ∧
        (∀ a, t.byte a = s.byte a) ∧ t.threads = s.threads ∧ t.regs = s.regs ∧ ∀ c, c ≠ k → t.core c = s.core c)) ∧
  ((∀ (k : Nat) (g : Agent) (x : EngEntry) (d : Desc) (s : State), d.headOk = true → d.skip = false →
      d.bits 8 4 4 = 0 → d.zero 9 55 = true →
      ∃ t, bodyDropRps k g x d s = (t, stOk, none) ∧ (t.core k).rpsAt (d.bits 8 0 4) = none ∧
        (∀ j, j ≠ d.bits 8 0 4 → (t.core k).rpsAt j = (s.core k).rpsAt j) ∧ (∀ a, t.byte a = s.byte a)) ∧
    (∀ (k : Nat) (g : Agent) (x : EngEntry) (d : Desc) (s : State), d.headOk = true → d.skip = false →
      d.bits 9 4 4 = 0 → d.zero 10 2 = true → d.zero 16 48 = true → 1 ≤ d.n 12 4 → d.slot + d.n 12 4 ≤ 4096 →
      (∀ j, d.slot ≤ j → j < d.slot + d.n 12 4 → s.slotOwned g j = stOk) →
      ∃ t, bodySeedClear k g x d s = (t, stOk, none) ∧ ∀ j,
        (d.slot ≤ j ∧ j < d.slot + d.n 12 4 → (t.seedSlot g.die j).seed = none) ∧
        (¬ (d.slot ≤ j ∧ j < d.slot + d.n 12 4) → t.seedSlot g.die j = s.seedSlot g.die j)))

/-- VADD, VSUB and VMUL compute element by element, modulo 2^32 in Z32, 2^64 in Z64 and the prime in ZQ; their
results are canonical. -/
def Obligations.VectorElementsAreModular : Prop :=
  ∀ (fmt q a b : Nat), 9 ≤ fmt → fmt ≤ 11 → 1 < q →
    let m := if fmt = 9 then 2 ^ 32 else if fmt = 10 then 2 ^ 64 else q
    vecOp 0x10 fmt q false false a b = (a + b) % m ∧
    (vecOp 0x11 fmt q false false a b + b) % m = a % m ∧ vecOp 0x11 fmt q false false a b < m ∧
    vecOp 0x12 fmt q false false a b = a * b % m

/-! ### The units of a cluster (chapters 06 and 07) -/

/-- The noise sampler and the expert router take the request at the front of their queue: one that is readable, names
its session and carries the row's opcode runs, and the unit holds it with what its body answers. ADD_NOISE of a
request that fails a check changes no byte and freezes nothing, and its status is the first that fails, in the order
of R171, its policy and its minimal cohort among them. One that passes freezes its buffer under the partition's next
serial, adds its noise to each element modulo its width, and leaves the token of Table 6.3 over what it wrote; it is
stated of a buffer in one line of a Press. When a unit reads its request, the place of the generator among the
checks, and the noise, are the model's readings (logs 17, 47, 48 and 106). -/
def Obligations.ClusterUnitsRunTheirRequests : Prop :=
  (∀ (c : BitVec 5) (s s1 t : State) (r : UnitReq) (rest : List UnitReq) (d : Desc), t.run.asks = [] →
      s.engOn = true → (s.physCluster c.toNat).isSome = true →
      ((s.cluster c.toNat).nsuRun = none → (s.cluster c.toNat).nsuQ = r :: rest →
        s.disabling (s.clusterPage c.toNat pgNsu) = false → s.enabled (s.clusterPage c.toNat pgNsu) = true →
        s.unitReq pgNsu c.toNat r = (s1, stOk, d) → ∀ x : NsuRes,
        let g := unitAgent pgNsu c.toNat r (d.bits 2 0 2)
        let runs : State := settled (.nsu c) (t.setCluster c.toNat { t.cluster c.toNat with
          nsuQ := ((t.cluster c.toNat).nsuQ).drop 1
          nsuRun := some (nsuRunOf t r d x) })
        (d.n 0 1 = 1 → bodyAddNoise c.toNat g d s1 = (t, x) → exec (.addNoise c) s = .next runs) ∧
        (d.n 0 1 = 2 → bodyUnfreeze c.toNat g d s1 = (t, x) → exec (.unfreeze c) s = .next runs) ∧
        (d.n 0 1 = 3 → bodySample c.toNat g d s1 = (t, x) → exec (.sample c) s = .next runs)) ∧
      ((s.cluster c.toNat).rtrRun = none → (s.cluster c.toNat).rtrQ = r :: rest →
        s.takesWork (s.clusterPage c.toNat pgRouter) = true →
        s.unitReq pgRouter c.toNat r = (s1, stOk, d) → ∀ items st,
        let g := unitAgent pgRouter c.toNat r (d.bits 2 0 2)
        let runs : State := settled (.router c) (t.setCluster c.toNat { t.cluster c.toNat with
          rtrQ := ((t.cluster c.toNat).rtrQ).drop 1
          rtrRun := some (routeRunOf t r d items st) })
        (d.n 0 1 = 1 → bodyGateLoad c.toNat g d s1 = (t, items, st) → exec (.gateLoad c) s = .next runs) ∧
        (d.n 0 1 = 2 → bodyRoute c.toNat g d s1 = (t, items, st) → exec (.route c) s = .next runs))) ∧
  (∀ (c : Nat) (g : Agent) (d : Desc) (s : State),
      let n := d.n 12 4
      let sz := if d.n 8 1 / 16 = 9 then 4 else 8
      let serial := (s.part g.pid).serial + 1
      (noiseRefusal s c g d ≠ stOk → ∃ t, bodyAddNoise c g d s = (t, NsuRes.done (noiseRefusal s c g d)) ∧
        (∀ a, t.byte a = s.byte a) ∧ t.frozen = s.frozen) ∧
      (∀ k l slot, noiseRefusal s c g d = stOk → s.place g.die (d.n 16 8) = .press k l → s.lineBad l = false → n * sz ≤ 64 →
        (s.cluster c).drawn + n ≤ 2 ^ 32 → s.slotWith g.pid mbMac = some slot →
        let noised := ((List.range n).map (fun i =>
          bytesOf sz (((numberAt s (l + i * sz) sz : Int) + s.noise c d i) % 2 ^ (8 * sz)).toNat)).flatten
        let tok := noiseToken ((s.key slot).bytesOf (s.key slot).key) serial (s.ptag g.pid) d noised
        ∃ t, bodyAddNoise c g d s = (t, ⟨some stOk, none, some slot, some serial, some (d.n 48 8, tok)⟩) ∧
          storedAt s t l noised ∧ t.frozen = s.frozen ++ [
            { pid := g.pid, pgen := (s.part g.pid).pgen, serial := serial, base := l, len := n * sz, live := true
              thaw := false, rels := 0 }] ∧ (t.part g.pid).serial = serial))

/-- The end of a request of the sampler or the router: its answers have all come, the sampler's token is written, the
status byte follows and DONE counts; the unit is free again. A token that goes to another device is sent, and the
request ends once that device has answered; one that is refused releases the freeze. The sampler's UNFREEZE has its
status once no accepted release of its entry is left, and the range is writable again. Once its records and counts
stand, the router puts its next item into the queue of its expert while it has a credit there; a waiting thread
takes it. An item for a queue that takes none is discarded with all others for it, and the route ends DISABLED; a
route whose writes another device refused puts none and ends with that status. The sampler of a cluster that a
partition holds takes in 48 bytes of Seedbed's queue where it is unseeded or spent, once they can be served: it has
drawn nothing since. Which requests count waits, how long, that the first FLUSHED or DISABLED is kept, and where a
reseed that is due falls, are the model's readings (logs 21, 48 and 49). -/
def Obligations.ClusterUnitsProceed : Prop :=
  (∀ (c : BitVec 5) (waits : BitVec 24) (s : State),
      (∀ run st, (s.cluster c.toNat).nsuRun = some run → run.status = some st → s.answered (.nsu c) = true →
        let r := s.writeToken c.toNat run (s.withAnswers (.nsu c) st)
        let x := r.1.cluster c.toNat
        let u := (r.1.setCluster c.toNat { x with nsuRun := none }).dropOps (.nsu c)
        let late : Prop := run.cls ≠ 0 ∨ run.demoted = true ∨ r.1.opDemoted (.nsu c) = true
        (r.1.answered (.nsu c) = true → ∃ t, exec (.nsuCompletion c waits) s = .next t ∧ (t.cluster c.toNat).nsuRun = none ∧
          ∃ n, (late → n = waits.toNat) ∧ (¬ late → n = 0) ∧ t = (match run.own with
            | some serial => if failing r.2 = true then u.thawed run.req.pid serial else u
            | none => u).unitDone c.toNat pgNsu run.req run.op run.own n r.2) ∧
        (r.1.answered (.nsu c) = false →
          exec (.nsuCompletion c waits) s = .next (r.1.setCluster c.toNat { x with nsuRun := some { run with token := none } }))) ∧
      (∀ run, (s.cluster c.toNat).rtrRun = some run → run.items = [] → s.answered (.router c) = true →
        let late : Prop := run.cls ≠ 0 ∨ run.demoted = true ∨ s.opDemoted (.router c) = true
        ∃ t, exec (.routerCompletion c) s = .next t ∧ (t.cluster c.toNat).rtrRun = none ∧ ∃ n f, (¬ late → n = 0 ∧ f = s.fresh) ∧
          t = (({ s with fresh := f }.setCluster c.toNat { s.cluster c.toNat with rtrRun := none }).dropOps (.router c)).unitDone
            c.toNat pgRouter run.req run.op none n (s.withAnswers (.router c) run.status)) ∧
      (∀ run n, (s.cluster c.toNat).nsuRun = some run → run.serial = some n → run.status = none →
        (∀ f ∈ s.frozen, f.pid = run.req.pid → f.serial = n → f.rels = 0) →
        ∃ t, exec (.unfreezeComplete c) s = .next t ∧ (t.cluster c.toNat).nsuRun = some { run with status := some stOk } ∧
          t.frozen = s.frozen.filter (fun f => !(f.pid = run.req.pid && f.serial = n)) ∧ t.mem = s.mem)) ∧
  (∀ (c : BitVec 5) (s : State) (run : RouteRun) (d : BitVec 2) (q : BitVec 12) (item : Word)
      (rest : List (BitVec 2 × BitVec 12 × Word)), (s.cluster c.toNat).rtrRun = some run → run.items = (d, q, item) :: rest →
      s.answered (.router c) = true →
      let x := s.queue d.toNat q
      let bad := s.withAnswers (.router c) stOk
      (bad ≠ stOk → exec (.routerItemDispatch c) s = .next (s.setCluster c.toNat { s.cluster c.toNat with rtrRun := some { run with
        items := [], status := if run.status = stOk then bad else run.status } })) ∧
      (bad = stOk → s.queueOff d.toNat q = false → x.kind = 1 → x.pid = some run.req.pid → x.hasCredit (.router c) = true →
        ∃ t, exec (.routerItemDispatch c) s = .next t ∧ (t.cluster c.toNat).rtrRun = some { run with items := rest } ∧
          (∀ a, t.byte a = s.byte a) ∧ (x.waiters = [] → (t.queue d.toNat q).entries = x.entries ++ [(item, .router c)])) ∧
      (bad = stOk → (s.queueOff d.toNat q = true ∨ x.kind ≠ 1 ∨ x.pid ≠ some run.req.pid) →
        exec (.routerItemDispatch c) s = .next (s.setCluster c.toNat { s.cluster c.toNat with rtrRun := some { run with
          items := run.items.filter (fun i => !(i.1 = d && i.2.1 = q))
          status := if run.status = stOk then 0x7E else run.status } }))) ∧
  (∀ (c : BitVec 5) (s : State), (s.clusterOwner c.toNat).isSome = true →
      ((s.cluster c.toNat).nsuKey = none ∨ 2 ^ 32 ≤ (s.cluster c.toNat).drawn) →
      s.seedMode ≠ 3 → s.canServe 3 48 = true →
      ∃ t, exec (.nsuReseed c) s = .next t ∧
        (t.cluster c.toNat).nsuKey = some (((s.cluster c.toNat).nsuKey).getD [] ++ (takeChunks s.seed.queue 48).1) ∧
        (t.cluster c.toNat).drawn = 0 ∧ t.seed.queue = (takeChunks s.seed.queue 48).2 ∧ (∀ a, t.byte a = s.byte a))

/-! ### What the engines compute (chapters 04 to 08) -/

/-- MMA and SMMA of a slot add, step by step in increasing k, the products of each step into the elements of the M rows;
other rows stay. A replacing or an adding IMPORT leaves in each element what the tile in memory gives; EXPORT writes
the slot's elements, or its long-form partials, and leaves the slot. DRAIN writes its rows as they come of scale,
bias, activation and conversion, from Z64 the low bits, gives the worst of their statuses, and closes, keeps or
clears the slot. It is stated of operands in a Press or a Drawer and of a command without SKIP. The sign of an exact
zero, the order of the additions of a step, and where SMMA in MXFP8 reads its bitmap are the model's choices (logs
96, 100 and 106). -/
def Obligations.MatrixCommandsCompute : Prop :=
  ∀ (k : Nat) (g : Agent) (x : EngEntry) (d : Desc) (s : State) (sl : Slot), d.skip = false →
    let idx := d.bits 8 0 7
    (s.core k).slot idx = some sl → sl.poisoned = false →
    let mode := sl.mode.toNat
    let w := tileWidth mode
    let addr := d.n 16 8
    let stride := d.n 24 4
    (∀ (sparse : Bool) (kt : Nat) (modes : List Nat), d.bits 9 0 4 < 12 → d.bits 9 4 4 < 12 →
      pairOf (d.bits 9 0 4) (d.bits 9 4 4) = some (kt, modes) → modes.contains mode = true →
      let m := mulOf d sparse kt
      mulOk d sparse m = true → (∀ r ∈ m.ranges, openTo s g false r.1 r.2) →
      ∃ t y, bodyMul k sparse g x d s = (t, stOk, none) ∧ (t.core k).slot idx = some y ∧ (∀ a, t.byte a = s.byte a) ∧
        y.mode = sl.mode ∧ y.w = sl.w ∧ ∀ i j, i < 32 → j < 32 →
          y.at i j = if i < m.m then multiplied s m mode sl.w i j (sl.at i j) else sl.at i j) ∧
    (tileOk d true = true →
      let add := decide (d.bits 9 0 1 = 1)
      let place (i j : Nat) := addr + (32 * i + j) * 32
      (mode ≠ 3 → (∀ i < 32, openTo s g false (addr + i * stride) (32 * w)) →
        ∃ t y, bodyImport k g x d s = (t, stOk, none) ∧ (t.core k).slot idx = some y ∧ (∀ a, t.byte a = s.byte a) ∧
          ∀ i j, i < 32 → j < 32 → y.at i j = imported mode add (sl.at i j) (numAt s (addr + i * stride + j * w) w)) ∧
      (mode = 3 → addr % 32 = 0 → (∀ i j, i < 32 → j < 32 → openTo s g false (place i j) 24 ∧
          lfOk 0 (partialAt s (localOf (place i j))) = true ∧ (partialAt s (localOf (place i j))).w = sl.w) →
        ∃ t y, bodyImport k g x d s = (t, stOk, none) ∧ (t.core k).slot idx = some y ∧ (∀ a, t.byte a = s.byte a) ∧
          ∀ i j, i < 32 → j < 32 → y.at i j =
            let p := (partialAt s (localOf (place i j))).elem
            if add = true then (sl.at i j).addElem p else p)) ∧
    (tileOk d false = true →
      (mode ≠ 3 → 32 * w ≤ stride → (∀ i < 32, openTo s g true (addr + i * stride) (32 * w)) →
        ∃ t, bodyExport k g x d s = (t, stOk, none) ∧ (t.core k).slot idx = some sl ∧
          (∀ i j, i < 32 → j < 32 → numAt t (addr + i * stride + j * w) w = (sl.at i j).n.toNat % 2 ^ (8 * w)) ∧
          ∀ a, (∀ i < 32, ¬ (localOf (addr + i * stride) ≤ a ∧ a < localOf (addr + i * stride) + 32 * w)) → t.byte a = s.byte a) ∧
      (mode = 3 → addr % 32 = 0 → -256 ≤ sl.w → sl.w ≤ 255 → (∀ e < 1024, openTo s g true (addr + 32 * e) 20) →
        ∃ t, bodyExport k g x d s = (t, stOk, none) ∧ (t.core k).slot idx = some sl ∧
          (∀ i j, i < 32 → j < 32 → partialAt t (localOf (addr + 32 * (32 * i + j))) = { elem := sl.at i j, w := sl.w }) ∧
          ∀ a, (∀ e < 1024, ¬ (localOf (addr + 32 * e) ≤ a ∧ a < localOf (addr + 32 * e) + 20)) → t.byte a = s.byte a)) ∧
    (drainCheck d = stOk → drainTarget d mode = true →
      let o := drainOf d
      let n := elemBytes o.ofmt 32
      (o.rnd = 4 → (s.core k).srKey ≠ none) → n ≤ stride → (∀ i < o.rows, openTo s g true (addr + i * stride) n) →
      (o.ofmt = 5 → openTo s g true (d.n 56 8) o.rows ∧ ∀ i < o.rows, localOf (d.n 56 8) + o.rows ≤ localOf (addr + i * stride) ∨
        localOf (addr + i * stride) + n ≤ localOf (d.n 56 8)) →
      (o.scale = 2 → openTo s g false (d.n 32 8) 128) → (o.bias = true → openTo s g false (d.n 40 8) 128) →
      let words (on : Bool) (a : Nat) : List (BitVec 32) :=
        (List.range 32).map (fun j => if on then BitVec.ofNat 32 (numAt s (a + 4 * j) 4) else 0)
      let row (i : Nat) := o.row sl (words (decide (o.scale = 2)) (d.n 32 8)) (words o.bias (d.n 40 8))
        (fun e => Config.srDraw ((s.core k).srKey.getD []) ((s.core k).srPos + e)) i
      let worst := ((List.range o.rows).map (fun i => (row i).2.2)).foldl worse stOk
      ∃ t, bodyDrain k g x d s = (t, if mode = 1 ∧ sl.sat = true then worse worst stOverflow else worst, none) ∧
        (t.core k).slot idx = (if d.bits 11 0 2 = 1 then some sl
          else if d.bits 11 0 2 = 2 then some { sl with elems := [], sat := false } else none) ∧
        (∀ i < o.rows, readAt t (addr + i * stride) n = (row i).1 ∧ (o.ofmt = 5 → readAt t (d.n 56 8 + i) 1 = (row i).2.1)) ∧
        (mode = 2 → o.ofmt = 9 ∨ o.ofmt = 10 → ∀ i j, i < o.rows → j < 32 →
          let sz := if o.ofmt = 9 then 4 else 8
          numAt t (addr + i * stride + j * sz) sz = (sl.at i j).n.toNat % 2 ^ (8 * sz)))

/-- The ring commands compute modulo their primes: NTT evaluates at the odd powers of ψ in bit-reversed order, INTT
undoes it by their inverses and N's, AUTO moves coefficient j to place j × g with the sign of X^N = −1, BASEXT and
DECOMP extend without correction, DECOMP keeping the digit's own limbs. Their outputs are written limb after limb
from the destination on, and no other byte; it is stated of operands in a Press or a Drawer. The inverses that they
use are inverses. The addresses of DECOMP's limbs, the time of the range checks and what scratch areas hold are the
model's readings (logs 36 and 40). -/
def Obligations.RingTransformsCompute : Prop :=
  (∀ a m : Nat, 1 < m → m < 2 ^ 64 → Nat.Coprime a m → Ring.inv a m < m ∧ a * Ring.inv a m % m = 1) ∧
  (∀ (op k : Nat) (g : Agent) (x : EngEntry) (d : Desc) (s : State) (r : Rps) (is : List Nat) (outs : Nat),
    0x20 ≤ op → op ≤ 0x24 → rawFields op d → (s.core k).rpsAt (d.bits 8 0 4) = some r → rawPlan op d r = some (is, outs) →
    let src := d.n 16 8
    let dst := d.n 32 8
    let sz := 8 * r.n
    s.overlapBad g.die [(src, (d.bits 10 0 6 + 1) * sz)] [(dst, outs * sz)] = false →
    openTo s g false src ((d.bits 10 0 6 + 1) * sz) → openTo s g true dst (outs * sz) →
    let limbs := List.zip is (limbsAt s r.n (is.map (fun i => (src + (i - d.bits 9 0 6) * sz, r.prime i))))
    ∃ t, bodyRaw op k g x d s = (t, stOk, none) ∧
      storedAt s t (localOf dst) (wordBytes (rawResult op d r limbs).flatten)) ∧
  (∀ (d : Desc) (r : Rps) (i : Nat) (a : List Nat), 1 < r.prime i → r.prime i < 2 ^ 60 → r.logn ≤ 17 → a.length = r.n →
    let q := r.prime i
    let psi := r.psi i
    rawResult 0x20 d r [(i, a)] = [(List.range r.n).map (fun k =>
      ((List.range r.n).map (fun j => a.getD j 0 * psi ^ ((2 * Ring.brv r.logn k + 1) * j))).sum % q)] ∧
    (Nat.Coprime r.n q → ∃ b, rawResult 0x21 d r [(i, a)] = [b] ∧ b.length = r.n ∧ ∀ j < r.n, b.getD j 0 < q ∧
      r.n * b.getD j 0 % q = ((List.range r.n).map (fun k =>
        a.getD k 0 * psi ^ (2 * r.n - (2 * Ring.brv r.logn k + 1) * j % (2 * r.n)))).sum % q) ∧
    (d.n 40 4 % 2 = 1 → d.n 40 4 < 2 * r.n → (∀ v ∈ a, v < q) → ∃ b, rawResult 0x22 d r [(i, a)] = [b] ∧ b.length = r.n ∧
      ∀ j < r.n, let p := j * d.n 40 4 % (2 * r.n)
        if p < r.n then b.getD p 0 = a.getD j 0 else b.getD (p - r.n) 0 = (q - a.getD j 0) % q)) ∧
  (∀ (d : Desc) (r : Rps) (src : List (Nat × List Nat)), (∀ x ∈ src, x.2.length = r.n) →
    let b := (src.map (fun x => r.prime x.1)).prod
    let extended (p i : Nat) : Nat := (src.map (fun x =>
      x.2.getD i 0 * Ring.inv (b / r.prime x.1) (r.prime x.1) % r.prime x.1 * (b / r.prime x.1))).sum % p
    (∀ m ≤ d.bits 12 0 6, ∀ i < r.n, r.prime (d.bits 11 0 6 + m) ≠ 0 →
      ((rawResult 0x23 d r src).getD m []).getD i 0 = extended (r.prime (d.bits 11 0 6 + m)) i) ∧
    ((src.map Prod.fst).Nodup → ∀ m < d.bits 12 0 6 + 1 + r.np,
      let ix := if m ≤ d.bits 12 0 6 then m else r.nq + (m - (d.bits 12 0 6 + 1))
      (∀ l, (ix, l) ∈ src → (rawResult 0x24 d r src).getD m [] = l) ∧
      ((∀ l, (ix, l) ∉ src) → r.prime ix ≠ 0 → ∀ i < r.n,
        ((rawResult 0x24 d r src).getD m []).getD i 0 = extended (r.prime ix) i)))

/-- The ciphertext commands write the header that Tables 5.6 and 5.7 give and the body that the chapter computes: CADD,
CSUB, PADD and PMUL limb by limb, CMUL the three components of the product, CAUTO and CNTT limb by limb, MODDOWN by
its correction δ, which is the dropped limb and, in BGV, a multiple of t. KEYSWITCH adds to the ciphertext's two
components what its sums of digits and key come to, scaled down by P, and leaves its scratch area undefined. They
end NOISE_UNCERTAIN where the result is flagged, else OK; no other byte changes. It is stated of operands in a Press
or a Drawer. The lift and the tie of BFV's rounding, which of two equal centred residues is taken, values without
stated arithmetic, and what scratch areas hold are the model's choices (logs 37, 40, 43 and 106). -/
def Obligations.CiphertextCommandsCompute : Prop :=
  (∀ (op k : Nat) (g : Agent) (x : EngEntry) (d : Desc) (s : State) (r rb : Rps), 0x28 ≤ op → op ≤ 0x2F → ctFields op d →
    let aA := d.n 16 8
    let bA := d.n 24 8
    let dA := d.n 32 8
    let ab : Desc := readAt s aA 64
    let bb : Desc := if ctTwo op then readAt s bA 64 else ab
    let a := ctOf ab
    let b := ctOf bb
    (s.core k).findRps a.tag = some r → (s.core k).findRps b.tag = some rb → (op = 0x2D → d.n 40 4 < 2 * r.n) →
    ctOk r ab = true → ctOk rb bb = true → ctRequire op d r a b = stOk → (op = 0x2F → d.bits 8 0 6 ≤ a.level) →
    let h0 := ctResult op d r a b
    let noise := predict op r a b (d.n 44 2) (d.bits 8 0 6)
    let lim := noiseCheck r h0.level noise (decide (d.bits 2 3 1 = 1))
    lim.1 = stOk →
    let ops := ctOperands op d r a b
    let len := 64 + bodyBytes r h0.comp h0.level
    s.overlapBad g.die ops [(dA, len)] = false → (∀ o ∈ ops, openTo s g false o.1 o.2) → openTo s g true dA len →
    let h := { h0 with noise := noise, unsure := a.unsure || (ctTwo op && b.unsure) || lim.2 }
    let xs := toComps a.level a.comp (limbsAt s r.n (limbAddrs r (aA + 64) a.comp a.level))
    let ys := if ctTwo op then toComps a.level b.comp (limbsAt s r.n (limbAddrs r (bA + 64) b.comp a.level))
      else if ctPlain op then toComps a.level 1 (limbsAt s r.n (limbAddrs r bA 1 a.level)) else toComps a.level 1 []
    ∃ t, bodyCt op k g x d s = (t, if h.unsure = true then stUncertain else stOk, none) ∧
      storedAt s t (localOf dA) (h.bytes false ++ wordBytes ((ctCompute op d r a b xs ys).map List.flatten).flatten)) ∧
  (∀ (d : Desc) (r : Rps) (a b : CtHdr) (xs ys : CtBody) (c i p q u v : Nat), r.prime i = q → 1 < q →
    let has (z : CtBody) (c v : Nat) : Prop := ∃ comp l, z[c]? = some comp ∧ comp[i]? = some l ∧ l[p]? = some v
    has xs c u → v < q →
    (has ys c v → has (ctCompute 0x28 d r a b xs ys) c ((u + v) % q) ∧
      has (ctCompute 0x29 d r a b xs ys) c ((u + (q - v)) % q)) ∧
    (has ys 0 v → has (ctCompute 0x2C d r a b xs ys) c (u * v % q) ∧
      has (ctCompute 0x2B d r a b xs ys) c (if c = 0 then (u + v) % q else u)) ∧
    (∀ u1 v1, r.scheme ≠ 1 → c = 0 → has xs 1 u1 → has ys 0 v → has ys 1 v1 →
      has (ctCompute 0x2A d r a b xs ys) 0 (u * v % q) ∧ has (ctCompute 0x2A d r a b xs ys) 1 ((u * v1 + u1 * v) % q) ∧
      has (ctCompute 0x2A d r a b xs ys) 2 (u1 * v1 % q))) ∧
  (∀ (r : Rps) (gal k k' : Nat) (l : List Nat), l.length = r.n → k < r.n → k' < r.n →
    (2 * Ring.brv r.logn k' + 1) % (2 * r.n) = gal * (2 * Ring.brv r.logn k + 1) % (2 * r.n) →
    (Ring.autoNtt r.logn gal l).getD k 0 = l.getD k' 0) ∧
  (∀ (r : Rps) (ls : List (List Nat)) (i p : Nat), i + 1 < ls.length → r.scheme ≠ 3 → (∀ l ∈ ls, l.length = r.n) → p < r.n →
    let q := r.prime (ls.length - 1)
    let qi := r.prime i
    let top := (ls.getD (ls.length - 1) []).getD p 0
    1 < q → q % 2 = 1 → 1 < qi → qi < 2 ^ 60 → Nat.Coprime q qi → top < q → (ls.getD i []).getD p 0 < qi →
    (r.scheme = 2 → 1 < r.t ∧ r.t < 2 ^ 64 ∧ Nat.Coprime q r.t) →
    ∃ δ : Int, δ % q = (top : Int) % q ∧ (r.scheme = 2 → δ % r.t = 0) ∧ (r.scheme ≠ 2 → 2 * δ.natAbs < q) ∧
      (((dropLimb r ls).getD i []).getD p 0 * q + δ) % qi = ((ls.getD i []).getD p 0 : Int) % qi) ∧
  (∀ (k : Nat) (g : Agent) (x : EngEntry) (d : Desc) (s : State) (r : Rps), d.headOk = true → d.skip = false →
    d.zero 8 8 = true → d.zero 52 12 = true →
    let ctA := d.n 16 8
    let keyA := d.n 24 8
    let dA := d.n 32 8
    let scA := d.n 40 8
    ctA % 8 = 0 → keyA % 8 = 0 → dA % 8 = 0 → scA % 8 = 0 →
    let hb : Desc := readAt s ctA 64
    let kb : Desc := readAt s keyA 64
    let h := ctOf hb
    (s.core k).findRps h.tag = some r → ctOk r hb = true → keyOk r h kb = true →
    let lvl := h.level
    let kq := kb.n 33 1
    let digits := (lvl + 1 + r.alpha - 1) / r.alpha
    let scratch := 8 * ((4 * (lvl + 1) + 3 * r.np) * r.n)
    let lenC := 64 + bodyBytes r h.comp lvl
    let lenD := 64 + bodyBytes r 2 lvl
    let lenK := 64 + digits * (64 + 2 * (kq + r.np) * r.n * 8)
    let noise := predict 0x30 r h h 0 0
    let lim := noiseCheck r lvl noise (decide (d.bits 2 3 1 = 1))
    lim.1 = stOk → scratch ≤ d.n 48 4 → (∀ j < digits, digitOk kb (readAt s (digitAt r keyA kq j) 64) j = true) →
    openTo s g false ctA lenC → openTo s g false keyA lenK → openTo s g true dA lenD → openTo s g true scA (d.n 48 4) →
    s.overlapBad g.die ((keyA, lenK) :: (if s.canon g.die ctA = s.canon g.die dA then [] else [(ctA, lenC)]))
      [(dA, lenD), (scA, scratch)] = false → s.overlap g.die (ctA, lenC) (scA, scratch) = false →
    let dl := limbsAt s r.n (limbAddrs r (ctA + 64 + (if kb.n 32 1 = 0 then 2 else 1) * ((lvl + 1) * r.n * 8)) 1 lvl)
    let dc := if h.form then dl.zipIdx.map (fun p => r.intt p.2 p.1) else dl
    let acc := ksSums s r keyA kq lvl digits dc
    let cs := toComps lvl 2 (limbsAt s r.n (limbAddrs r (ctA + 64) 2 lvl))
    let up (c : List (List Nat)) := if h.form then c else c.zipIdx.map (fun p => r.ntt p.2 p.1)
    let out : CtHdr := { h with comp := 2, form := true, galois := 0, noise := noise,
                                skid := BitVec.ofNat 64 (kb.n 24 8), unsure := h.unsure || lim.2 }
    let body := [limbOp r addQ (up (cs.getD 0 [])) (ksDown r lvl acc.1), limbOp r addQ (up (cs.getD 1 [])) (ksDown r lvl acc.2)]
    let bs := out.bytes false ++ wordBytes (body.map List.flatten).flatten
    ∃ t, bodyKeyswitch k g x d s = (t, if out.unsure = true then stUncertain else stOk, none) ∧
      ∀ a, ¬ (localOf scA ≤ a ∧ a < localOf scA + scratch) → t.byte a =
        if localOf dA ≤ a ∧ a < localOf dA + bs.length then bs.getD (a - localOf dA) 0 else s.byte a)

/-- MACC adds X and adds or subtracts its mask; SCATTER_ADD adds each value, with its coordinate's mask, into the
element of its index, every index counted; LAGRANGE gives the sum of the shares under their weights, whose products
with the differences of the points are the products of the points, and of a seed the 32 bytes of its limbs, or
RECON_RANGE. SEED_LOAD fills slots from memory, EXPAND writes a seed's stream, SAMPLE_COUNT and SAMPLE_INDEX the
number and the places of the coordinates that the stream includes. It is stated of operands in a Press or a Drawer,
of commands without SKIP, and of accumulators that no other engine adds into. The order of LAGRANGE's tests, a mask
without stated arithmetic, the race of two additions, and the place of the index test are the model's choices (logs
39, 43, 102 and 106). -/
def Obligations.AggregationCommandsCompute : Prop :=
  (∀ (k : Nat) (g : Agent) (x : EngEntry) (d : Desc) (s : State) (seed : List Byte), d.headOk = true → d.skip = false →
    let fmt := d.bits 8 0 4
    let sz := if fmt = 9 then 4 else 8
    let only := decide (d.bits 9 1 1 = 1)
    let slot := d.bits 10 0 8 + 256 * d.bits 11 0 4
    let n := d.n 12 4
    let xA := d.n 16 8
    let acc := d.n 24 8
    let ops := if only then [] else [(xA, n * sz)]
    d.bits 8 4 4 = 0 → d.bits 9 2 6 = 0 → d.bits 11 4 4 = 0 → fmt = 9 ∨ fmt = 10 → 1 ≤ n → n ≤ 2 ^ 28 → d.zero 40 16 = true →
    (only = false → xA % sz = 0) → acc % sz = 0 → d.n 32 8 * sz % 16 = 0 →
    s.overlapBad g.die ops [(acc, n * sz)] = false → (s.seedSlot g.die slot).pid = some g.pid →
    (s.seedSlot g.die slot).seed = some seed → openTo s g true acc (n * sz) → (only = false → openTo s g false xA (n * sz)) →
    uncontested s k g acc (n * sz) →
    ∃ t, bodyMacc k g x d s = (t, stOk, none) ∧ storedAt s t (localOf acc) ((List.range n).flatMap (fun i =>
      let mask : Int := Crypto.leNat (streamBytes seed ((d.n 32 8 + i) * sz) sz)
      let v : Int := numAt s (acc + i * sz) sz + (if only then 0 else (numAt s (xA + i * sz) sz : Int)) +
        (if d.bits 9 0 1 = 1 then -mask else mask)
      bytesOf sz (v % 2 ^ (8 * sz)).toNat))) ∧
  (∀ (k q : Nat) (g : Agent) (x : EngEntry) (d : Desc) (s : State) (mseed sseed : List Byte), d.headOk = true → d.skip = false →
    let fmt := d.bits 8 0 4
    let sz := if fmt = 9 then 4 else 8
    let masked := decide (d.bits 9 1 1 = 1)
    let mode := d.bits 9 2 2
    let slot := d.bits 10 0 8 + 256 * d.bits 11 0 4
    let sslot := d.bits 32 0 8 + 256 * d.bits 33 0 4
    let n := d.n 12 4
    let val := d.n 16 8
    let acc := d.n 24 8
    let idx := d.n 32 8
    let len := d.n 40 4
    let iw := if mode = 0 then 4 else 8
    let plan : List (Nat × Nat) := if mode = 2 then (sampled sseed (d.n 36 4) (d.n 48 8) len).map (fun c => (c - d.n 48 8, c))
      else (List.range n).map (fun j => (numAt s (idx + j * iw) iw, numAt s (idx + j * iw) iw))
    let ops := (val, n * sz) :: (if mode = 2 then [] else [(idx, n * iw)])
    let m := if fmt = 9 then 2 ^ 32 else if fmt = 10 then 2 ^ 64 else q
    d.bits 8 4 4 = 0 → d.bits 9 4 4 = 0 → d.bits 11 4 4 = 0 → 9 ≤ fmt → fmt ≤ 11 → mode ≠ 3 → 1 ≤ n → n ≤ 2 ^ 24 →
    d.bits 44 4 4 = 0 → d.bits 45 6 2 = 0 → d.zero 46 2 = true →
    (mode = 2 → d.bits 33 4 4 = 0 ∧ d.zero 34 2 = true ∧ d.n 48 8 % 4 = 0 ∧ 1 ≤ d.n 36 4 ∧ ownsSlots s g sslot 1 ∧
      (s.seedSlot g.die sslot).seed = some sseed ∧ ¬ (s.conf g = true ∧ (s.seedSlot g.die sslot).recon = true)) →
    (mode ≠ 2 → idx % iw = 0 ∧ d.zero 48 8 = true ∧ openTo s g false idx (n * iw)) →
    (masked = true → ownsSlots s g slot 1 ∧ (s.seedSlot g.die slot).seed = some mseed) →
    (fmt = 11 → (s.core k).primeOf (d.bits 44 0 4) (d.bits 45 0 6) = (stOk, q) ∧ 1 < q ∧ q < 2 ^ 60) →
    val % sz = 0 → acc % sz = 0 → s.overlapBad g.die ops [(acc, len * sz)] = false → openTo s g false val (n * sz) →
    openTo s g true acc (len * sz) → uncontested s k g acc (len * sz) → plan.length = n → (∀ p ∈ plan, p.1 < len) →
    let term (j : Nat) : Int :=
      let mask : Int := if masked then maskElem mseed fmt (plan.getD j (0, 0)).2 else 0
      numAt s (val + j * sz) sz + (if d.bits 9 0 1 = 1 then -mask else mask)
    ∃ t, bodyScatter k g x d s = (t, stOk, none) ∧
      (∀ e < len, numAt t (acc + e * sz) sz =
        let js := (List.range n).filter (fun j => (plan.getD j (0, 0)).1 = e)
        if js = [] then numAt s (acc + e * sz) sz
        else (((numAt s (acc + e * sz) sz : Int) + (js.map term).sum) % m).toNat) ∧
      ∀ a, ¬ (localOf acc ≤ a ∧ a < localOf acc + len * sz) → t.byte a = s.byte a) ∧
  (∀ (k q : Nat) (g : Agent) (x : EngEntry) (d : Desc) (s : State), d.headOk = true → d.skip = false →
    let seed := decide (d.bits 9 0 1 = 1)
    let toslot := decide (d.bits 9 1 1 = 1)
    let np := d.n 12 2
    let n := d.n 14 2
    let xA := d.n 16 8
    let yA := d.n 24 8
    let oA := d.n 32 8
    let base := d.bits 40 0 8 + 256 * d.bits 41 0 4
    let stA := d.n 48 8
    let ysz := if seed then 40 else 8
    let osz := if seed then 32 else 8
    let dsts := (if toslot then [] else [(oA, n * osz)]) ++ (if seed then [(stA, n)] else [])
    d.bits 8 4 4 = 0 → d.bits 9 2 6 = 0 → d.bits 10 6 2 = 0 → d.zero 11 1 = true → 2 ≤ np → np ≤ 1024 → 1 ≤ n → n ≤ 4096 →
    d.bits 41 4 4 = 0 → d.zero 42 6 = true → d.zero 56 8 = true → (seed = false → toslot = false ∧ oA % 8 = 0) →
    xA % 8 = 0 → yA % 8 = 0 → (toslot = true → base + n ≤ 4096 ∧ ownsSlots s g base n) →
    s.overlapBad g.die [(xA, 8 * np), (yA, n * np * ysz)] dsts = false → (∀ r ∈ dsts, openTo s g true r.1 r.2) →
    openTo s g false xA (8 * np) → openTo s g false yA (n * np * ysz) →
    (s.core k).primeOf (d.bits 8 0 4) (d.bits 10 0 6) = (stOk, q) → (seed = true → 2 ^ 56 < q) →
    let xs := (List.range np).map (fun i => numAt s (xA + 8 * i) 8 % q)
    (∀ v ∈ xs, v ≠ 0) → xs.Nodup →
    let value (j l : Nat) : Nat := ((List.range np).map (fun i =>
      lagrangeWeight q xs i * (numAt s (yA + (j * np + i) * ysz + 8 * l) 8 % q))).sum % q
    let fits (j : Nat) : Prop := (∀ l < 4, value j l < 2 ^ 56) ∧ value j 4 < 2 ^ 32
    let secret (j : Nat) : List Byte := if seed then bytesOf 32 (((List.range 5).map (fun l => value j l * 2 ^ (56 * l))).sum)
      else bytesOf 8 (value j 0)
    ∃ t st, bodyLagrange k g x d s = (t, st, none) ∧ (st = stOk ↔ (seed = true → ∀ j < n, fits j)) ∧
      (st ≠ stOk → st = stReconRange) ∧ ∀ j < n,
        (seed = true → numAt t (stA + j) 1 = 0 ∧ fits j ∨ numAt t (stA + j) 1 = stReconRange.toNat ∧ ¬ fits j) ∧
        (toslot = false → (seed = true → fits j) → readAt t (oA + j * osz) osz = secret j) ∧
        (toslot = true → (fits j → (t.seedSlot g.die (base + j)).seed = some (secret j) ∧
            (t.seedSlot g.die (base + j)).recon = true) ∧
          (¬ fits j → t.seedSlot g.die (base + j) = s.seedSlot g.die (base + j)))) ∧
  (∀ (q i : Nat) (xs : List Nat), Nat.Prime q → q < 2 ^ 60 → xs.Nodup → (∀ v ∈ xs, v < q) → i < xs.length →
    let others := (List.range xs.length).filter (fun j => j ≠ i)
    ((lagrangeWeight q xs i : Int) * (others.map (fun j => (xs.getD j 0 : Int) - xs.getD i 0)).prod) % q =
      (others.map (fun j => (xs.getD j 0 : Int))).prod % q) ∧
  (∀ (k : Nat) (g : Agent) (x : EngEntry) (d : Desc) (s : State), d.headOk = true → d.skip = false → d.bits 9 4 4 = 0 →
    (s.seedSlot g.die d.slot).pid = some g.pid →
    let n := d.n 12 4
    let a := d.n 16 8
    (d.zero 10 2 = true → d.zero 24 40 = true → 1 ≤ n → n ≤ 4096 → a % 32 = 0 → d.slot + n ≤ 4096 → ownsSlots s g d.slot n →
      openTo s g false a (32 * n) → ∃ t, bodySeedLoad k g x d s = (t, stOk, none) ∧ (∀ b, t.byte b = s.byte b) ∧
        (∀ i < n, (t.seedSlot g.die (d.slot + i)).seed = some (readAt s (a + 32 * i) 32) ∧
          (t.seedSlot g.die (d.slot + i)).recon = false) ∧
        ∀ j, j < d.slot ∨ d.slot + n ≤ j → t.seedSlot g.die j = s.seedSlot g.die j) ∧
    (∀ seed, (s.seedSlot g.die d.slot).seed = some seed →
      (let sz := if d.bits 10 0 4 = 9 then 4 else 8;
        d.bits 10 0 4 = 9 ∨ d.bits 10 0 4 = 10 → d.bits 10 4 4 = 0 → d.zero 11 1 = true → 1 ≤ n → n ≤ 2 ^ 28 →
        d.zero 32 32 = true → a % sz = 0 → d.n 24 8 * sz % 16 = 0 → s.conf g = false → openTo s g true a (n * sz) →
        ∃ t, bodyExpand k g x d s = (t, stOk, none) ∧ storedAt s t (localOf a) (streamBytes seed (d.n 24 8 * sz) (n * sz))) ∧
      (d.zero 10 2 = true → 1 ≤ n → n ≤ 2 ^ 28 → d.n 24 8 % 4 = 0 → 1 ≤ d.n 32 4 →
        ¬ (s.conf g = true ∧ (s.seedSlot g.die d.slot).recon = true) →
        let cs := sampled seed (d.n 32 4) (d.n 24 8) n
        let c := d.n 40 8
        (d.zero 36 28 = true → a % 8 = 0 → openTo s g true a 8 →
          ∃ t, bodySampleCount k g x d s = (t, stOk, none) ∧ storedAt s t (localOf a) (bytesOf 8 cs.length)) ∧
        (d.zero 48 16 = true → a % 4 = 0 → c % 8 = 0 → openTo s g true a (4 * d.n 36 4) → openTo s g true c 8 →
          (d.n 36 4 < cs.length → ∃ t, bodySampleIndex k g x d s = (t, stSampleMismatch, none) ∧ ∀ b, t.byte b = s.byte b) ∧
          (cs.length ≤ d.n 36 4 → localOf c + 8 ≤ localOf a ∨ localOf a + 4 * cs.length ≤ localOf c →
            ∃ t, bodySampleIndex k g x d s = (t, stOk, none) ∧ numAt t c 8 = cs.length ∧
              ∀ i < cs.length, numAt t (a + 4 * i) 4 = cs.getD i 0 - d.n 24 8)))))

/-- FILL writes the eight bytes of its pattern, over and over, to its range, and COPY the bytes of its source to its
destination; no other byte of memory changes. A COPY of a CONFIDENTIAL partition to the host window is a release:
the Wicket refuses it, with nothing written and the denial counted, for the first reason of Table 6.5 that holds;
else the bytes leave as they are with their token, or sealed, and the release is counted. It is stated of ranges in
a Press or a Drawer, and of a window that lies in one run of host addresses. That a release descriptor in memory
that the partition does not own is the Wicket's refusal, and the place of CT among its reasons, are the model's
choices (logs 101 and 106). -/
def Obligations.FillAndCopyMoveBytes : Prop :=
  (∀ (k : Nat) (g : Agent) (x : EngEntry) (d : Desc) (s : State),
    let src := d.n 16 8
    let dst := d.n 24 8
    let len := d.n 32 8
    1 ≤ len → openTo s g true dst len →
    (∃ t, bodyFill k g x d s = (t, stOk, none) ∧
      storedAt s t (localOf dst) ((List.range len).map (fun i => BitVec.ofNat 8 (d.n (8 + i % 8) 1)))) ∧
    (openTo s g false src len → s.overlap g.die (src, len) (dst, len) = false →
      ∃ t, bodyCopy k g x d s = (t, stOk, none) ∧ storedAt s t (localOf dst) (readAt s src len))) ∧
  (∀ (k bus why : Nat) (g : Agent) (x : EngEntry) (d : Desc) (s : State), s.conf g = true →
    let src := d.n 16 8
    let dst := d.n 24 8
    let len := d.n 32 8
    let desc := d.n 40 8
    let wicket : Page := .die (dieOfCore x.core.toNat) tyWicket 0
    let rd : Desc := readAt s desc 64
    1 ≤ len → openTo s g false src len → openTo s g false desc 64 → s.run.asks = [] →
    (s.checkRange g false (rd.n 24 8) 128 = stOk → openTo s g false (rd.n 24 8) 128) →
    (s.checkRange g false src 64 = stOk → openTo s g false src 64) →
    (∀ i < len + 80, s.place g.die (dst + i) = .host (bus + i)) → s.host.bme = true → s.host.inReset = false → s.failsafe = false →
    s.takesWork wicket = true → (s.part g.pid).st = 2 → releaseReason s g desc src len why →
    (why ≠ 0 → ∃ t, bodyCopy k g x d s = (t, stReleaseDenied, none) ∧ (∀ a, t.byte a = s.byte a) ∧ t.host.mem = s.host.mem ∧
      t.rdN wicket 0x104 = (s.rdN wicket 0x104 + 1) % 2 ^ 32 ∧ t.fld wicket 0x110 0 8 = why ∧
      t.rdN wicket 0x100 = s.rdN wicket 0x100) ∧
    (why = 0 → let out := released s g desc (readAt s src len)
      ∃ t, bodyCopy k g x d s = (t, stOk, if rd.bits 0 0 2 = 1 then some (Desc.n (readAt s (rd.n 24 8) 128) 0 8) else none) ∧
        (∀ a, t.byte a = s.byte a) ∧ t.hostBytes bus out.length = out ∧
        t.rdN wicket 0x100 = (s.rdN wicket 0x100 + 1) % 2 ^ 32 ∧
        (rd.bits 0 0 2 = 2 → (t.part g.pid).sealCtr = (s.part g.pid).sealCtr + 1)))

/-! ### Commands that are accesses of registers (R414) -/

/-- A write of the host that its page takes acts on the state in which its Journal entries are queued, as the register's
table says, and on nothing else; registers without a command of their own take REGISTER_WRITE. When the host reaches
its pages, and that START needs a partition, are the model's readings (logs 31 and 87), as is the partition that a
submission of the host is made for, its page's owner (log 93). -/
def Obligations.HostWritesActOnTheirRegisters : Prop :=
  (∀ (i : Instr) (r : HostRow) (s t : State), hostRow s i = some r → hostTakes s r t → r.ok (wholeWrite r t) →
    exec i s = .next (r.act (wholeWrite r t))) ∧
  (∀ (a v : Word) (n : Nat) (p : Page) (s t : State), barPage a.toNat = some p → sizeOk (a.toNat % 4096) n = true →
    hostTakes s ⟨p, a.toNat, n, v.toNat, fun _ => True, id⟩ t →
    exec (.registerWrite .host a n v) s = .next (t.applyWrite .host p (a.toNat % 4096) n v.toNat))

/-- When START is accepted, the thread's registers are zero, its predicates p1 to p7 false and its counters zero. -/
def Obligations.StartZeroesTheThread : Prop :=
  ∀ (r : Req) (w : Who) (s t : State) (p : Page), threadPage w p t → startable w t →
    (r = .host → ∃ x, hostRow s (.start .host w) = some x ∧ x.page = p ∧ hostTakes s x t) →
    (∀ v, r = .thread v → ∃ y : Access, (s.thread v).accs = [y] ∧ y.stage = .issued ∧ y.kind = .store ∧ y.size = 4 ∧
      y.data = 1 ∧ s.diesUp = true ∧ s.corePage w.core.toNat 0 = p ∧
      s.place (dieOfCore v.core.toNat) y.addr = .reg (pageAddr p (0x200 + 32 * w.thr.toNat)) ∧
      barPage (pageAddr p (0x200 + 32 * w.thr.toNat)) = some p ∧
      s.checkReg (s.agentOf v 1).pid true (pageAddr p (0x200 + 32 * w.thr.toNat)) = stOk ∧
      t = s.setThread v { s.thread v with accs := [] }) →
    ∃ u, exec (.start r w) s = .next u ∧ (u.thread w).st = .ready ∧ (∀ g, (u.thread w).reg g = 0) ∧
      (∀ q, (u.thread w).pred q = decide (q = 0)) ∧ ∀ c, (u.thread w).counter c = 0

/-- A read of the host that its page answers gives the register's value; what does not answer reads all ones. RAND
gives, where no consumer before it waits, status 0 and 56 random bits, of the 8 bytes that leave the front of the
queue, and RAW the next 56 raw bits. A register command of a thread is the acceptance of the access that it has
outstanding there; a store so accepted acts on its page, one of a size that registers do not take is ignored, and a
load takes the register's value; PSUBMIT of a request that the partition owns queues it. That a thread's register
command is the acceptance of its access is the model's form (log 97); what answers the host, and what it reads where
nothing does, follow logs 87 and 91. -/
def Obligations.RegisterAccessesReachTheirPages : Prop :=
  ((∀ (i : Instr) (p : Page) (a n : Nat) (s : State), hostReadRow i = some (p, a, n) → barPage a = some p →
      (s.hostReach = true → s.pageLive p = true → s.answersRead p = true → exec i s =
        let r := (s.hostWakes p 4).readReg .host p (a % 4096) n
        .next (r.1.hostRead (BitVec.ofNat 64 r.2) [] false)) ∧
      (¬ (s.hostReach = true ∧ s.pageLive p = true ∧ s.answersRead p = true) →
        exec i s = .next (s.hostRead (BitVec.ofNat 64 (2 ^ (8 * min n 8) - 1)) [] false))) ∧
    (∀ (p : Page) (off : Nat) (r : Req) (s : State), off % 4 = 0 → is64 p.type off = false →
      (4 ≤ off → is64 p.type (off - 4) = false) →
      s.readReg r p off 4 = (s, s.pageWord (reqHost r) p off)) ∧
    (∀ (r : Req) (s : State), s.seedMode = 1 → s.rawOn = false → 4104 ≤ s.seedLevel →
      s.seed.sweep = none → s.seed.wait = none →
      (∀ c ∈ s.seed.queue, c.used ≤ 4096) →
      ∃ t b, s.readReg r seedPage 0x800 8 = (t, Crypto.leNat (b.take 7)) ∧ b.length = 8 ∧
        takeChunks s.seed.queue 8 = (b, t.seed.queue) ∧ t.seedLevel = s.seedLevel - 8) ∧
    (∀ (r : Req) (s : State), s.rawOn = true → 7 ≤ s.seed.rawBuf.length →
      ∃ t, s.readReg r seedPage 0x148 8 = (t, Crypto.leNat (s.seed.rawBuf.take 7)) ∧ t.regs = s.regs ∧
        t.seed.rawBuf = s.seed.rawBuf.drop 7)) ∧
  ((∀ (i : Instr) (w : Who) (a n : Nat) (v : Option Nat) (x : Access) (s : State), threadReg s i = some (w, a, n, v) →
      (s.thread w).accs = [x] → x.stage = .issued → x.size = n → s.place (dieOfCore w.core.toNat) x.addr = .reg a →
      (v = none → ∃ e, x.kind = .load e) →
      (∀ b, v = some b → x.kind = .store ∧ x.data.toNat % 2 ^ (8 * n) = b % 2 ^ (8 * n)) →
      exec i s = exec (.accessAcceptance w 0) s) ∧
    (∀ (w : Who) (a : Nat) (p : Page) (x : Access) (s : State), (s.thread w).accs = [x] → x.stage = .issued →
      s.diesUp = true → s.place (dieOfCore w.core.toNat) x.addr = .reg a → pageOfAddr a = some p →
      (x.kind = .store → s.checkReg (s.agentOf w 1).pid true a = stOk →
        let u := s.setThread w { s.thread w with accs := [] }
        exec (.accessAcceptance w 0) s = .next (if sizeOk (a % 4096) x.size = true
          then u.applyWrite (.thread w) p (a % 4096) x.size (x.data.toNat % 2 ^ (8 * x.size)) else u)) ∧
      (∀ e, x.kind = .load e → s.checkReg (s.agentOf w 1).pid false a = stOk → exec (.accessAcceptance w 0) s =
        let r := s.readReg (.thread w) p (a % 4096) x.size
        .next (r.1.gotAccess w 0 r.2))) ∧
    (∀ (w : Who) (pid : BitVec 5) (a : Word) (x : Access) (s : State), (s.thread w).accs = [x] → x.stage = .issued →
      x.kind = .store → x.size = 8 → x.data = a → s.diesUp = true → s.pins.por = true →
      s.place (dieOfCore w.core.toNat) x.addr = .reg (pageAddr mboxPage 0x108) → s.coreOwner w.core.toNat = some pid →
      a.toNat % 64 = 0 → s.ownedRange (rtpAgent pid) a.toNat 512 = stOk → s.pqDepth < 32 →
      ∃ t, exec (.psubmit w a) s = .next t ∧ (t.thread w).accs = [] ∧ (∀ b, t.byte b = s.byte b) ∧
        t.rtp.queue = s.rtp.queue ++ [{ host := false, pid := pid, addr := a.toNat }]))

/-! ### The mailbox (chapters 11, 12, 15 and 17) -/

/-- Each row of Table 11.1 runs the request at the front of the RTP's queue that carries its command: past the shared
checks, what its body answers is the response, one that goes on leaves the queue, and one that waits stays at the
front. The order of the shared checks is the model's (log 72). -/
def Obligations.MailboxCommandsAnswer : Prop :=
  ∀ (i : Instr) (c : RtpCmd) (body : RtpReq → Desc → State → RtpOut) (s s1 : State) (r : RtpReq) (rest : List RtpReq)
    (q : Desc), rtpTable i = some (c, body) → rtpFront s s1 r rest q → rowOf q = c.row → s1.rtpTag r q = true →
    bodyOk q c.used = true → s1.rtpGate r c.row = stOk → (r.host = true → c.host = true) → (r.host = false → c.part = true) →
    (s1.power = 2 → c.alone = true) →
    (∀ t st b, body r q s1 = .done t st b → (rtpAnswered t r q st b).run.asks = [] →
      exec i s = .next (settled .rtp (rtpAnswered t r q st b))) ∧
    (∀ t, body r q s1 = .going t → t.run.asks = [] →
      exec i s = .next (settled .rtp { t with rtp := { t.rtp with queue := t.rtp.queue.drop 1 } })) ∧
    (∀ t, body r q s1 = .wait t → t.run.asks = [] → exec i s = .next (settled .rtp t))

/-- A request that fails a check that every command shares is answered with that status, in the order of R473 and log 72,
and has no other effect: a read of the request that fails; another session named; no such command, a body that breaks its
fields, or not this sender's; then the root blocked (log 108), the fail-safe state, in which FAULT_LOG_READ is answered, not in service, a partition that is not ACTIVE;
and SLEEP. -/
def Obligations.MailboxRefusesByItsOrder : Prop :=
  ∀ (i : Instr) (c : RtpCmd) (body : RtpReq → Desc → State → RtpOut) (s s1 : State) (r : RtpReq) (rest : List RtpReq)
    (q : Desc) (st0 : Status), rtpTable i = some (c, body) → s.rtp.queue = r :: rest → s.rtpReady = true →
    s.rtpRead r = (s1, st0, q) →
    let row := rowOf q
    let p := s1.part r.pid
    let st : Status :=
      if st0 ≠ stOk then st0
      else if r.host = false ∧ ¬ (q.bits 4 0 5 = r.pid.toNat ∧ q.n 5 3 = p.pgen.toNat) then stTag
      else if row = 0 ∨ bodyOk q c.used = false ∨ (r.host = true ∧ c.host = false) ∨ (r.host = false ∧ c.part = false) then
        stMbox
      else if s1.rootBlocked = true ∧ row ≠ 0x01 ∧ ¬ (s1.mode = 3 ∧ row = 0x54) then stRootBlocked
      else if s1.mode = 3 ∧ row ≠ 0x01 ∧ row ≠ 0x54 then stFailsafe
      else if (s1.mode = 0 ∨ s1.mode = 2) ∧ row ≠ 0x01 then stDisabled
      else if r.host = false ∧ p.st ≠ 2 then stDisabled
      else if s1.power = 2 ∧ c.alone = false then stPowerBusy
      else stOk
    (row = 0 ∨ row = c.row) → st ≠ stOk → (rtpAnswered s1 r q st []).run.asks = [] →
    exec i s = .next (settled .rtp (rtpAnswered s1 r q st []))

/-- What requests do to keys and nodes that their sender may use: REARM makes a node LIVE; SLOT_DESTROY of a slot that
nothing holds leaves it EMPTY; KEY_TO_SEED puts the key's first 32 bytes into the seed slot; OWNER_REPLACE keeps the
current key beside a pending one; INVALIDATE of a node's subtree waits for the last holder of its slots. The waits
of the root of trust end: INVALIDATE and SLOT_DESTROY respond once no holder has the key; an owner key's overlap
ends with its old key gone; a teardown's limit ends its step; die E returns to retention; re-masking changes the
shares and no key, and one that finds its 16,384 bytes is complete; an alarm blocks the root; the limit of the
mask's age raises its alarm once. Small readings are the model's (log 74), as are the wait of a sweep (log 64), the
end of a teardown step by its limit (log 75) and the one alarm of the mask's age (log 90). -/
def Obligations.KeysChangeAndWaitsEnd : Prop :=
  (∀ (r : RtpReq) (q : Desc) (s : State),
      let n := q.n 16 2
      let slot : BitVec 8 := BitVec.ofNat 8 (q.n 16 1)
      let k := s.key slot
      (∀ x, s.nodeRight r n = true → s.node n = some x → ∃ t, bodyRearm r q s = .done t stOk [] ∧
        t.node n = some { x with dead := false } ∧ (∀ m, m ≠ n → t.node m = s.node m) ∧ t.keys = s.keys) ∧
      (80 ≤ slot.toNat → (s.slotUser r slot).isSome = true → s.keyHeld [slot] = false → ∃ t,
        bodySlotDestroy r q s = .done t stOk [] ∧ (t.key slot).st = .empty) ∧
      (s.slotStatus r false slot = stOk → k.mask.getLsbD mbMkx = true → 256 ≤ k.bits →
        (s.seedSlot (q.n 17 1) (q.n 18 2)).pid = k.allot → ∃ t, bodyKeyToSeed r q s = .done t stOk [] ∧
        (t.seedSlot (q.n 17 1) (q.n 18 2)).seed = some ((k.bytesOf k.key).take 32) ∧ t.keys = s.keys) ∧
      (s.slotStatus r false slot = stOk → k.branch = 3 → k.old = none → ∃ t, bodyOwnerReplace r q s = .done t stOk [] ∧
        (t.key slot).pend.isSome = true ∧ (t.key slot).key = k.key ∧ (∀ m, m ≠ slot → t.key m = s.key m)) ∧
      (s.nodeRight r n = true → ∃ v : RevokeRun, v.req = r ∧ v.destroy = false ∧ v.slots = (s.invalidate n).2 ∧
        bodyInvalidate r q s = .going { (s.invalidate n).1 with rtp := { (s.invalidate n).1.rtp with revoke := some v } })) ∧
  ((∀ (s : State) (v : RevokeRun), s.rtp.revoke = some v → s.keyHeld v.slots = false → s.rtpHalted = false → s.escOn = true →
      exec .invalidateComplete s = .next (
        let u : State := { s with rtp := { s.rtp with revoke := none } }
        if v.destroy then (v.slots.foldl (fun (t : State) n => t.destroySlot n) u).respond v.req v.seq.toNat stOk []
        else u.respond v.req v.seq.toNat stOk (Crypto.leBytes 8 s.time.toNat))) ∧
    (∀ (slot : BitVec 8) (s : State), ∃ t, exec (.ownerWindowEnd slot) s = .next t ∧ (t.key slot).old = none ∧
      (t.key slot).key = (s.key slot).key ∧ ∀ m, m ≠ slot → t.key m = s.key m) ∧
    (∀ (s : State) (v : Teardown), s.rtp.teardown = some v → s.rtpHalted = false → s.escOn = true →
      (v.step ≤ 2 → exec .teardownLimit s = .next ((s.abandonPeers v.pid).teardownGo v)) ∧
      (v.step = 3 → exec .teardownLimit s = .next ((s.stopWork v.pid stOrphan).teardownGo v)) ∧
      (3 < v.step → exec .teardownLimit s = .next s)) ∧
    (∀ s : State, s.power = 2 → s.mode = 1 → s.escOn = true → s.rtp.queue = [] → s.rtp.revoke = none → s.rtp.teardown = none →
      ∃ t, exec .dieERetentionReturn s = .next t ∧ t.escOn = false ∧ t.power = 2 ∧ t.keys = s.keys) ∧
    (∀ s : State, s.escOn = true → s.seedMode = 1 →
      ∃ t, exec .remaskSweep s = .next t ∧ (∀ n, (t.key n).key = (s.key n).key ∧ (t.key n).st = (s.key n).st) ∧
        (s.seed.sweep = none → 16384 ≤ s.seedLevel → (∀ c ∈ s.seed.queue, c.used ≤ 4096) →
          t.seed.sweep = none ∧ t.seedLevel = s.seedLevel - 16384 ∧ t.seed.ageCycles = 0) ∧
        (s.seedLevel < 64 → s.seed.sweep.getD 0 < 256 →
          t = { s with seed := { s.seed with sweep := some (s.seed.sweep.getD 0) } })) ∧
    (∀ (sensor : BitVec 3) (keyop : Bool) (s : State), s.pins.por = true → s.mode = 1 → s.power ≠ 2 → sensor ≠ 0 → sensor ≠ 7 →
      ∃ t, exec (.brambleAlarm sensor keyop) s = .next t ∧ t.rootBlocked = true) ∧
    (∀ s : State, s.pins.por = true → 256 ≤ s.fld vaultPage 0x114 0 16 → s.seed.ageAlarm = false →
      exec .remaskAgeLimit s = .next ({ s with seed := { s.seed with ageAlarm := true } }.alarm 6 false)))

/-- What other requests do. CORE_REMAP maps the core to the spare of its cluster, idle, the old one worn, under a new
generator key where a partition holds it; none left or a core at work refuse it. CLUSTER_REMAP maps a cluster that
nobody holds, with its sixteen cores, to the spare of its die. LANE_SPARE puts the spare lane into every route mask
in place of its lane. POWER_SET takes the state: DOZE and SLEEP unless a rule forbids them, SLEEP without threads,
Press, Drawers and power of the compute dies, and back. PART_TEARDOWN stops the partition and, once its work has
ended, empties its slots; it goes on with the clear. PART_CREATE that answers OK has made an ACTIVE partition under
the next session, with its memory keys and its first thread at work; else no partition's state changes. BUNDLE_LOAD
that answers OK joins the bundle list. ATTEST writes the report, whose head carries the nonce, the time, and the
partition and its session. The placement of a creation, the answers that firmware's digests enter, the identity of
the spare taken and small points of teardown are the model's readings (logs 75, 80, 81 and 86). -/
def Obligations.MailboxRequestsTakeEffect : Prop :=
  (∀ (q : Desc) (s : State) (p old : Nat),
    let k := q.n 16 2
    k < 512 → s.physCluster (k / 16) = some p → s.physCore k = some old →
    (s.spareCore p = none → bodyCoreRemap q s = .done s stSpareNone []) ∧
    (∀ i, s.spareCore p = some i → (s.coreQuiet k = false → bodyCoreRemap q s = .done s stSpareBusy []) ∧
      ∀ u b, s.coreQuiet k = true → (if s.coreOwner k = none then (u, b) = (s, []) else s.drawInternal 3 48 = (u, stOk, b)) →
        ∃ t, bodyCoreRemap q s = .done t stOk [] ∧ t.physCore k = some (17 * p + i) ∧ t.isWorn 0 old = true ∧
          (∀ j, j ≠ k → t.physCore j = s.physCore j) ∧ t.spares.coresUsed = s.spares.coresUsed + 1 ∧
          (∀ w : Who, w.core.toNat = k → (t.thread w).st = .idle) ∧
          (t.core k).srKey = (if s.coreOwner k = none then none else some b) ∧ ∀ a, t.byte a = s.byte a)) ∧
  (∀ (q : Desc) (s : State) (i : Nat),
    let c := q.n 16 2
    let place := 9 * (c / 8) + i
    c < 32 → s.clusterOwner c = none → s.spareCluster (c / 8) = some i → ∃ t, bodyClusterRemap q s = .done t stOk [] ∧
      t.physCluster c = some place ∧ (∀ o, s.physCluster c = some o → t.isWorn 1 o = true) ∧
      (∀ j < 16, t.physCore (16 * c + j) = some (17 * place + (s.goodCores place).getD j 0)) ∧
      ∀ j, j ≠ c → t.physCluster j = s.physCluster j) ∧
  (∀ (q : Desc) (s : State),
    let d := q.n 16 1
    let lane := q.n 17 1
    let spare := if lane < 16 then 32 else 33
    d < 4 → lane < 32 → (s.link d spare).spare = false → s.isWorn 2 (34 * d + spare) = false →
    Config.spareReaches d spare = (s.link d lane).dev → ∃ t, bodyLaneSpare q s = .done t stOk [] ∧
      (t.link d spare).spare = true ∧ ∀ dev, (s.routeMask d dev).getLsbD lane = true →
        (t.routeMask d dev).getLsbD spare = true ∧ (t.routeMask d dev).getLsbD lane = false) ∧
  (∀ (r : RtpReq) (q : Desc) (s : State),
    (s.power = 0 → s.dozeBlocked = true → bodyPowerSetDoze r q s = .done s stPowerBusy []) ∧
    (s.power = 0 → s.dozeBlocked = false → ∃ t, bodyPowerSetDoze r q s = .done t stOk [] ∧ t.power = 1 ∧
      t.threads = s.threads ∧ ∀ a, t.byte a = s.byte a) ∧
    (s.power = 1 → s.mode = 1 → ∃ t, bodyPowerSetActive r q s = .done t stOk [] ∧ t.power = 0 ∧ t.threads = s.threads ∧
      ∀ a, t.byte a = s.byte a) ∧
    (s.power ≠ 2 → s.sleepBlocked = true → bodyPowerSetSleep r q s = .done s stPowerBusy []) ∧
    (s.power ≠ 2 → s.sleepBlocked = false → ∃ t, bodyPowerSetSleep r q s = .done t stOk [] ∧ t.power = 2 ∧
      (∀ w, (t.thread w).st = .idle) ∧ (∀ a, 0x8000000000 ≤ a → t.byte a = 0) ∧ ∀ d < 4, t.railOn d = false) ∧
    (s.power = 2 → s.rekeyBytes = 0 → ∃ t, bodyPowerSetActive r q s = .done t stOk [] ∧ t.power = 0 ∧
      ∀ d < 4, t.railOn d = true)) ∧
  (∀ (r : RtpReq) (q : Desc) (s : State),
    let pid : BitVec 5 := BitVec.ofNat 5 (q.n 16 1)
    (s.part pid).st = 2 → (r.host = true ∨ pid = r.pid) → ∃ t v, bodyPartTeardown r q s = .going t ∧ (t.part pid).st = 3 ∧
      t.rtp.teardown = some v ∧ v.req = r ∧ v.pid = pid ∧
      (v.step = 5 → ∀ n, (s.key n).allot = some pid → (t.key n).st = .empty)) ∧
  (∀ (s : State) (v : Teardown), s.rtp.teardown = some v → v.step = 5 → s.escOn = true → s.rtpHalted = false →
    ∃ t, exec .partTeardown s = .next t ∧ (t.part v.pid).st = 4 ∧ (t.part v.pid).rpid = 0 ∧ t.rtp.teardown = none) ∧
  (∀ (r : RtpReq) (q : Desc) (s : State),
    let d : Desc := (s.stagingRead (q.n 16 8) 512).2.2
    let pid : BitVec 5 := BitVec.ofNat 5 (d.n 1 1)
    let kept (t : State) : Prop := ∀ n, (t.part n).st = (s.part n).st
    (∃ t, bodyCreate r q s = .wait t ∧ kept t) ∨ ∃ t st b, bodyCreate r q s = .done t st b ∧ (st ≠ stOk → kept t) ∧
      (st = stOk → let p := t.part pid
        (s.part pid).st = 0 ∧ p.st = 2 ∧ b = bytesOf 4 p.pgen.toNat ∧ t.rdN partPage 0x118 = p.pgen.toNat + 1 ∧
        p.conf = decide (d.bits 0 0 1 = 1) ∧ p.clusters = BitVec.ofNat 32 (d.n 4 4) ∧ p.kmin = BitVec.ofNat 32 (d.n 52 4) ∧
        p.label = (d.drop 96).take 32 ∧ (∀ m < 2, (t.key (BitVec.ofNat 8 (16 + 2 * pid.toNat + m))).st = .valid) ∧
        ∀ k, (t.coreNos pid).find? (fun k => (t.physCore k).isSome) = some k →
          (t.thread { core := BitVec.ofNat 9 k, thr := 0 }).st = .ready ∧
          (t.thread { core := BitVec.ofNat 9 k, thr := 0 }).pc = BitVec.ofNat 64 (d.n 192 8))) ∧
  (∀ (r : RtpReq) (q : Desc) (s : State), r.host = false → ∃ t st b, bodyBundleLoad r q s = .done t st b ∧
    let listed : Prop := ∃ x, (t.part r.pid).bundles = (s.part r.pid).bundles ++ [x]
    ((t.part r.pid).bundles = (s.part r.pid).bundles ∨ listed) ∧ (st = stOk → listed)) ∧
  (∀ (r : RtpReq) (q : Desc) (s u : State) (rnd : List Byte), r.host = false → q.n 24 1 = r.pid.toNat →
    (s.part r.pid).st ≠ 0 →
    let nonce := (q.drop 32).take 32
    let text (t : State) (rnd : List Byte) := t.report rnd nonce false r.pid
    s.reqCheck r true (q.n 16 8) (text s []).length = stOk → s.drawRtp 160 = (u, some (stOk, rnd)) →
      bodyAttest r q s = (let w := u.reqWrite r (q.n 16 8) (text u rnd); .done w.1 w.2 []) ∧
      (nonce.length = 32 → (text u rnd).take 4 = Crypto.ascii "W8AR" ∧ ((text u rnd).drop 16).take 32 = nonce ∧
        ((text u rnd).drop 48).take 8 = bytesOf 8 u.time.toNat ∧ ((text u rnd).drop 272).take 4 =
          r.pid.zeroExtend 8 :: [16, 8, 0].map (fun k => BitVec.ofNat 8 ((u.part r.pid).pgen.toNat / 2 ^ k))))

/-! ### Mitre (chapter 09) -/

/-- A descriptor at the front of a send queue, whose tag and head stand, runs as its row; its record follows, and a
command that goes on leaves the queue. A WAIT_COUNT that holds its queue completes once its count is met. RECV takes
the item at the front of its queue: a descriptor that stands, whose ranges the partition may write and the Wicket
does not refuse, becomes the queue's last posted buffer, and grants follow. Small readings are the model's (log 55). -/
def Obligations.MitreQueuesRunTheirItems : Prop :=
  ((∀ (i : Instr) (d : BitVec 2) (q : BitVec 12) (row a : Nat) (body : Agent → Desc → Nat → State → State × SqOut)
      (s s1 s2 : State) (m : MQueue) (rest : List (Word × Producer)) (e : Desc), sqTable i = some (d, q, row, body) →
      sqFront s s1 d.toNat q m (s.clsAt d.toNat a) a rest e → m.isRq = false → m.hold = none →
      e.tagOk m.pid (s.part m.pid).pgen = true → sqRow e = row → mitreHeadOk e = true →
      (3 ≤ row → q = (s.part m.pid).ctrlSq ∧ d.toNat = s.ctrlDie m.pid) →
      let doer := mitreDoer d.toNat q
      let g := { mitreAgent d.toNat m.pid (e.bits 2 0 2) with doer := doer }
      (∀ st peer user, body g e a s1 = (s2, .done st peer user) →
        let t := (itemTaken s2 d.toNat q rest).finishOp d.toNat q (delayable (BitVec.ofNat 2 (e.bits 2 0 2)) s2.run.demoted) st
          (sqKind row) peer 0 0 user a
        t.run.asks = [] → exec i s = .next (settled doer t)) ∧
      (body g e a s1 = (s2, .going) → s2.run.asks = [] → exec i s = .next (settled doer (itemTaken s2 d.toNat q rest))) ∧
      (body g e a s1 = (s2, .stay) → s2.run.asks = [] → exec i s = .next (settled doer s2))) ∧
    (∀ (d : BitVec 2) (q w : BitVec 12) (tgt : BitVec 32) (a : Nat) (cls : BitVec 2) (m x : MQueue) (s : State),
      s.mq d.toNat q = some m → m.hold = some (w, tgt, a, cls) → s.mq d.toNat w = some x →
      (x.records.toNat + 2 ^ 32 - tgt.toNat) % 2 ^ 32 < 2 ^ 31 →
      exec (.waitCount d q) s = .next ((s.setMq d.toNat q (some { m with hold := none })).finishOp d.toNat q
        (delayable cls false) stOk 3 0 0 0 0 a))) ∧
  (∀ (d : BitVec 2) (q : BitVec 12) (a : Nat) (s s1 s2 s3 : State) (m m' : MQueue) (rest : List (Word × Producer)) (e : Desc),
      sqFront s s1 d.toNat q m m.cls.toNat a rest e → m.isRq = true → s.heldBufs d.toNat < 16384 →
      e.tagOk m.pid (s.part m.pid).pgen = true → recvFields e = true →
      let g := mitreAgent d.toNat m.pid m.cls.toNat
      let zn := if e.n 32 8 = 0 then 0 else zmapBytes (e.n 24 8)
      s1.checkRanges g [(true, e.n 16 8, e.n 24 8), (true, e.n 32 8, zn)] = stOk →
      s1.mitreWicket g (e.n 16 8) (e.n 24 8) = (s2, stOk) → s2.mitreWicket g (e.n 32 8) zn = (s3, stOk) →
      (itemTaken s3 d.toNat q rest).mq d.toNat q = some m' →
      exec (.recv d q) s = .next (((itemTaken s3 d.toNat q rest).setMq d.toNat q (some { m' with
        bufs := m'.bufs ++ [{ desc := a, base := e.n 16 8, len := e.n 24 8, zmap := e.n 32 8,
                              user := BitVec.ofNat 64 (e.n 40 8) }] })).giveGrants d.toNat q))

/-- Where a frame goes: to the management ring where Mitre does not recognise it; counted where it is bad or its peer is
unknown; into the miss buffer where the context is not cached; else it is authenticated and counted, and then,
unless the peer is FAULTED or UNREACHABLE, an ACK acknowledges, a new packet of its window is placed or asks for
credit and is marked, once its bytes are accepted where they lie on another device, and a duplicate or one beyond
the window is counted. What happens to the frames of a lost or faulted peer is the model's reading (log 53). -/
def Obligations.FramesReachTheirPeer : Prop :=
  (∀ (f : Frame) (s : State), inService s → s.recognises f = false → exec (.nonMitreFrame f) s = .next (s.toMgmt f)) ∧
  (∀ (i : Instr) (ty : Nat) (f : Frame) (s : State), frameRow i = some (ty, f) → inService s →
    let h := f.peer
    let d := homeOf h
    (s.recognises f = false → exec i s = .next (s.toMgmt f)) ∧
    (s.recognises f = true → s.badFrame f = true → exec i s = .next (s.bump (mitrePage (f.port.toNat / 2)) 0x13C 1)) ∧
    (s.recognises f = true → s.badFrame f = false → f.ty = ty →
      ((∀ p, ¬ reachable s f p) → exec i s = .next (s.bump (mitrePage d) 0x124 1)) ∧
      (∀ p, reachable s f p → s.cached h = false → p.st ≠ .faulted → exec i s = .next ((s.toMiss h f).startFetch h)) ∧
      (∀ p, reachable s f p → s.cached h = true ∨ p.st = .faulted →
        let u := s.touch h
        (u.authenticate p f = none → exec i s =
          .next ((u.setPeer h (some { p with authFails := p.authFails + 1 })).bump (mitrePage d) 0x120 1)) ∧
        (∀ body old, u.authenticate p f = some (body, old) →
          let v := authentic u h p f old
          let psn : BitVec 32 := BitVec.ofNat 32 (f.n 20 4)
          let ahead := (psn.toNat + 2 ^ 32 - p.cum.toNat) % 2 ^ 32
          (p.st = .faulted ∨ p.st = .unreachable → exec i s = .next v) ∧
          (p.st ≠ .faulted → p.st ≠ .unreachable →
          (ty = 3 → exec i s = .next (v.ackArrival h f)) ∧
          (ty ≠ 3 → p.isPlacing psn = true → exec i s = .next v) ∧
          (ty ≠ 3 → p.isPlacing psn = false →
          (ty = 4 → ahead < 256 → p.seen.contains psn = false → exec i s = .next ((v.creditAsk h).acceptPsn h psn)) ∧
          (ty = 1 ∨ ty = 2 → ahead < 256 → p.seen.contains psn = false →
            let w := v.place' h f (ty = 2) body
            exec i s = .next (if (w.peer h).any (fun x => x.isPlacing psn) then w else w.acceptPsn h psn)) ∧
          (ahead < 256 ∧ p.seen.contains psn = true ∨ 2 ^ 31 ≤ ahead →
            exec i s = .next ((v.bump (mitrePage d) 0x12C 1).sendAck h)) ∧
          (256 ≤ ahead → ahead < 2 ^ 31 → exec i s = .next (v.bump (mitrePage d) 0x130 1))))))))

/-- What a peer does of its own: it sends the next packet of its oldest message, or asks for credit; its ACK is sent
when its delay is over; its packets are sent again at a timeout, and the peer is lost after the last; a message is
abandoned; an old key is released; a counter near its end asks for a rekey, and an exhausted one stops the peer.
Small readings are the model's (log 55). -/
def Obligations.PeersSendAndTimeOut : Prop :=
  ∀ (h : BitVec 22) (s : State) (p : Peer), s.peer h = some p →
    (∀ o, p.nextSend = some o → s.mayTransmit p = true → s.cached h = true →
      (o.msn.isSome = true ∨ p.allows p.msnNext = true → exec (.sendPacketTransmit h) s = .next ((s.touch h).sendNext h p o)) ∧
      (o.msn = none → p.allows p.msnNext = false → exec (.sendPacketTransmit h) s = .next ((s.touch h).askCredit h p o))) ∧
    (p.due = true → exec (.ackDelayExpiry h) s = .next (s.sendAck h) ∧
      (s.mayTransmit p = true → s.mitreValid ((p.portOf 0).toNat / 2) = true →
        (s.keyRequest p.pid p.txSlot mbMitreTx).1 = stOk → ∃ t hd bytes, exec (.ackDelayExpiry h) s = .next t ∧
          t.out = s.out ++ [.frame (p.portOf 0) hd bytes] ∧
          t.peer h = some { p with pktCtr := p.pktCtr + 1, ackDue := 0, due := false })) ∧
    (p.unacked ≠ [] → s.mayTransmit p = true →
      (p.retry = s.fld (mitrePage (homeOf h)) 0x104 24 4 → exec (.retransmitTimeout h) s = .next (s.peerLost h p)) ∧
      (p.retry ≠ s.fld (mitrePage (homeOf h)) 0x104 24 4 → exec (.retransmitTimeout h) s =
        .next ((p.unacked.foldl (fun (t : State) k => t.resend h k false) s).modPeer h
          (fun x => { x with retry := p.retry + 1, timeout := min 8000 (2 * p.timeout) })))) ∧
    (∀ msn m b, p.slots.find? (fun m => m.msn = msn && !m.mapping) = some m → m.buf = some b → exec (.messageAbandon h msn) s =
      .next ((s.setPeer h (some { p with slots := p.slots.filter (fun x => x.msn ≠ msn) })).endRecv p.pid p.rq b m.demoted
        stAbandoned h msn.toNat m.placed)) ∧
    (∀ msn m, p.slots.find? (fun m => m.msn = msn && !m.mapping) = some m → m.buf = none → exec (.messageAbandon h msn) s =
      .next (s.setPeer h (some { p with slots := p.slots.filter (fun x => x.msn ≠ msn) }))) ∧
    (p.rxNew = false → exec (.rxKeyRelease h) s = .next (s.setPeer h (some { p with oldRx := none }))) ∧
    (2 ^ 40 - 2 ^ 30 ≤ p.pktCtr → p.dueEvt = false → s.diesUp = true → exec (.rekeyDue h) s =
      let q := { p with dueEvt := true }
      .next (((s.setPeer h (some q)).mEvent (homeOf h) p.pid 3 0 h.toNat p.pktCtr).rtpRekey h q)) ∧
    (p.st = .active → 2 ^ 40 ≤ p.pktCtr → exec (.keyExhausted h) s =
      .next ((s.setPeer h (some { p with st := .keyExhausted })).mEvent (homeOf h) p.pid 4 0 h.toNat p.epoch.toNat))

/-- A fetch of a context, a C0 read of its backing area, ends: the context is cached, its packets leave the miss buffer
and are handled in order; one that fails its integrity check leaves its peer FAULTED, with no send and no message. A
record that waits for space in its ring is written there once READ_COUNT leaves room, and counts for its queue. A
port that goes up or down shows it in LINK and posts the event in the ring of the partition that holds the port, or
counts it as lost where there is none. Links: a replay sends the packets of its buffer again, in order, and the
eighth in a row takes the link down; a link that is down is in no route mask of its die; one that comes up is up,
with its partner; returned credit is at most 32 cells. Small readings are the model's (log 55), as are what a
returned credit acknowledges (log 61) and what a fetch takes of its bucket (log 99). -/
def Obligations.FetchesRingsAndLinksProceed : Prop :=
  ((∀ (h : BitVec 22) (s s1 : State) (p : Peer), s.engOn = true → (s.mit (homeOf h)).waiting.contains h = true →
      s.peer h = some p → s.cacheIn h = some s1 →
      let d := homeOf h
      let a := s.backAddr h p
      let u := if s.cached h = true then s1 else (s1.hbmRequest (mitreAgent d p.pid 0) a 256).1
      (s.cached h = true ∨ u.blockKey a = none ∨ (∃ key, u.blockKey a = some key ∧ (u.ver0 key = 0 ∨
          u.ver0 key ≠ 0xFFFFFFFF ∧ ∀ level < 3, u.macBad (macItem level key) = false)) →
        exec (.pctFetchComplete h) s = .next
          (((u.mit d).miss.filter (fun f => f.peer = h)).foldl (fun (t : State) f => t.packet h f)
            (u.setMit d { u.mit d with waiting := (u.mit d).waiting.filter (fun y => y ≠ h)
                                       miss := (u.mit d).miss.filter (fun f => f.peer ≠ h) }))) ∧
      (∀ key, s.cached h = false → u.blockKey a = some key → u.ver0 key ≠ 0 →
        (u.ver0 key = 0xFFFFFFFF ∨ ∃ level < 3, u.macBad (macItem level key) = true) →
        ∃ t x, exec (.pctFetchComplete h) s = .next t ∧ t.peer h = some x ∧ x.st = .faulted ∧ x.sends = [] ∧ x.slots = [] ∧
          (t.mit d).waiting.contains h = false)) ∧
    (∀ (d : BitVec 2) (cq : BitVec 10) (s : State) (r : Ring), s.ring d.toNat cq.toNat = some r →
      (r.waiting = [] ∨ s.ringRoom d.toNat r = false → exec (.cqSpaceResume d cq) s = .next s) ∧
      (∀ rec l lh m, r.waiting = [rec] → rec.length = 32 → ringReady s d.toNat r l lh →
        let q : BitVec 12 := BitVec.ofNat 12 (Crypto.leNat ((rec.drop 2).take 2))
        s.mq d.toNat q = some m → ∃ t, exec (.cqSpaceResume d cq) s = .next t ∧
          recordPut s t d.toNat cq.toNat { r with waiting := [] } l lh rec ∧
          t.mq d.toNat q = some { m with records := m.records + 1 })) ∧
    (∀ (port : BitVec 3) (status : Word) (s : State) (up : Bool) (pid : BitVec 5) (x : Part), s.diesUp = true →
      s.fld (ethPage port.toNat) 0x100 0 1 = (if up then 0 else 1) →
      s.parts.filter (fun e => e.2.ports.getLsbD port.toNat && e.2.st ≠ 0) = [(pid.toNat, x)] →
      let c := s.ctrlDie pid
      let ring := (s.mit c).rings.find? (fun e => match e.2 with
        | some r => r.isAeq && r.pid = pid
        | none => false)
      let event := [if up then 8 else 7] ++ bytesOf 3 port.toNat ++ bytesOf 4 0 ++ bytesOf 8 s.time.toNat ++
        bytesOf 8 status.toNat ++ bytesOf 8 0
      ∃ t, exec (if up then Instr.portUp port status else Instr.portDown port status) s = .next t ∧
        t.fld (ethPage port.toNat) 0x100 0 1 = (if up then 1 else 0) ∧
        (∀ n r l lh, ring = some (n, some r) → ringReady s c r l lh → recordPut s t c n r l lh event) ∧
        (ring = none → t.rdN (mitrePage (port.toNat / 2)) 0x148 = (s.rdN (mitrePage (port.toNat / 2)) 0x148 + 1) % 2 ^ 32))) ∧
  (∀ (d : BitVec 2) (lane : BitVec 6) (s : State),
      let l := s.link d.toNat lane.toNat
      let fallen (o : Out) : Prop := ∃ t, o = .next t ∧ (t.link d.toNat lane.toNat).up = false ∧
        ∀ dev, (t.routeMask d.toNat dev).getLsbD lane.toNat = false
      (l.up = true → l.replay ≠ [] → l.replays + 1 < 8 → ∃ t, exec (.linkReplay d lane) s = .next t ∧
        t.out = s.out ++ l.replay.map (fun x => .joist d lane.toNat x.1 x.2) ∧ t.link d.toNat lane.toNat = { l with replays := l.replays + 1 }) ∧
      (l.up = true → l.replay ≠ [] → 8 ≤ l.replays + 1 → fallen (exec (.linkReplay d lane) s)) ∧
      (l.up = true → fallen (exec (.linkDown d lane) s)) ∧
      (∀ dev other, l.up = false → l.queued = [] → s.laneInService d.toNat lane.toNat = true → s.diesUp = true → s.mode = 1 →
        ∃ t, exec (.linkUp d lane dev other) s = .next t ∧
          t.link d.toNat lane.toNat =
            { l with up := true, dev := dev, lane := other, credits := [], replays := 0, rx := [], queued := [] }) ∧
      (∀ cls cells, l.up = true → l.queued = [] → ∃ t, exec (.vcCreditGrant d lane cls cells) s = .next t ∧
        (t.link d.toNat lane.toNat).free cls.toNat = min 32 (l.free cls.toNat + cells.toNat)))

/-! ### Joist (chapter 10) -/

/-- A packet that arrives with room in its lane's receive buffer is forwarded where it is for another device; else it
frees its cells, and is a response to an outstanding access or operation, or a request that its partition's rights
decide. RD_REQ answers with the bytes it read, WR and ATOM with the status of what they did, a WR to part of a
poisoned line with INTEGRITY_FAIL and no byte written, and a refused request with its status, counted. The lane of
an answer and the layout of an atomic's payload are the model's choices (logs 59 and 60). -/
def Obligations.JoistPacketsAreServed : Prop :=
  ∀ (i : Instr) (d : BitVec 2) (lane : BitVec 6) (ty : Nat) (p : JPkt) (s : State), joistRow i = some (d, lane, ty, p) →
    inService s → (s.link d.toNat lane.toNat).up = true → (s.die d.toNat).vcHeld = [] →
    (s.link d.toNat lane.toNat).held p.cls.toNat + pktCells p ≤ 32 →
    let v := (s.setDie d.toNat (s.die d.toNat)).takeCells d.toNat lane.toNat p
    let u := v.freeCells d.toNat lane.toNat p
    let own := v.devNum d.toNat = some p.dst.toNat
    let g (pid : BitVec 5) : Agent := { die := d.toNat, pid := pid, cls := p.cls.toNat, sel := 0, port := 36 + d.toNat }
    (¬ own → exec i s = .next (v.forward d.toNat lane.toNat ty p)) ∧
    (own → (ty = 2 ∨ ty = 5) → exec i s = .next (u.response p)) ∧
    (own → ty = 1 → ∀ pid, u.rpidPart p.rpid = some pid → u.arrivalCheck p pid false false (p.size.toNat + 1) = stOk →
      ∀ t st bs, u.memRead (g pid) p.addr.toNat (p.size.toNat + 1) = (t, st, bs) →
        exec i s = .next (t.answer d.toNat lane.toNat p 2 st (if st = stOk then bs else []))) ∧
    (own → ty = 3 → ∀ pid, u.rpidPart p.rpid = some pid → u.arrivalCheck p pid true p.released p.payload.length = stOk →
      partPoisoned u p.addr.toNat p.payload.length → exec i s = .next (u.answer d.toNat lane.toNat p 5 0x40 [])) ∧
    (own → ty = 3 → ∀ pid, u.rpidPart p.rpid = some pid → u.arrivalCheck p pid true p.released p.payload.length = stOk →
      ¬ partPoisoned u p.addr.toNat p.payload.length → ∀ t st, u.memWrite (g pid) false none p.addr.toNat p.payload = (t, st) →
        exec i s = .next (t.answer d.toNat lane.toNat p 5 st [])) ∧
    (own → ty = 4 → p.op.toNat % 16 ≠ 4 → ∀ pid, u.rpidPart p.rpid = some pid →
      let n := if p.op.getLsbD 4 then 8 else 4
      u.arrivalCheck p pid true false n = stOk → ∀ t st old,
        u.atomicAt (g pid) (p.op.toNat % 16) p.addr.toNat n
          (Crypto.leNat (p.payload.take n)) (Crypto.leNat ((p.payload.drop n).take n)) = (t, st, old) →
        exec i s = .next (t.answer d.toNat lane.toNat p 5 st (if st = stOk then Crypto.leBytes 8 old else []))) ∧
    (own → ty = 4 → p.op.toNat % 16 = 4 → ∀ pid, u.rpidPart p.rpid = some pid →
      u.arrivalCheck p pid true false 20 = stOk → ∀ t st old, u.lfaddAt (g pid) p.addr.toNat 0 p.payload = (t, st, old) →
        exec i s = .next (t.answer d.toNat lane.toNat p 5 st (if st = stOk then Crypto.leBytes 8 old else []))) ∧
    (own → (ty = 1 ∨ ty = 3 ∨ ty = 4) → ∀ st : Status,
      (u.rpidPart p.rpid = none ∧ st = stBound ∨
        ∃ pid, u.rpidPart p.rpid = some pid ∧ st ≠ stOk ∧
          st = u.arrivalCheck p pid (decide (ty ≠ 1)) (decide (ty = 3) && p.released) (requestBytes ty p)) →
      exec i s = .next ((u.bump (joistPage d.toNat) 0x128 1).answer d.toNat lane.toNat p (if ty = 1 then 2 else 5) st []))

/-! ### The memory system's own work (chapter 08) -/

/-- Re-encryption and retirement of a page, and the write-back of a corrected word, leave every byte as it is; a scrub
that ends unassigns its regions and leaves them zero, and every byte outside them as it is. That retirement is a
step of its own is the model's choice (log 50). -/
def Obligations.MemoryMaintenanceKeepsData : Prop :=
  (∀ (a : BitVec 40) (key : Nat) (s : State), s.blockKey a.toNat = some key → s.versionsFull key = true →
    exec (.pageReencrypt a) s = .next (s.reencrypt key) ∧ ∀ b, (s.reencrypt key).byte b = s.byte b) ∧
  (∀ (st : BitVec 4) (lp : Nat) (s : State), 4 ≤ sget (fun _ => (0 : Nat)) (s.stack st.toNat).fails lp →
    s.fld (hbmcPage st.toNat) 0x110 16 9 ≠ 0 → ∃ t, exec (.pageRetire st lp) s = .next t ∧ (∀ b, t.byte b = s.byte b) ∧
      (t.stack st.toNat).phys lp = 15360 + (s.stack st.toNat).retired.length ∧
      (t.stack st.toNat).retired = (s.stack st.toNat).retired ++ [(s.stack st.toNat).phys lp]) ∧
  (∀ (a : BitVec 40) (s : State), ((∃ c l, s.placeLocal a.toNat = .press c l) ∨ ∃ k l, s.placeLocal a.toNat = .drawer k l) →
    ∃ t, exec (.eccWriteback a) s = .next t ∧ (∀ b, t.byte b = s.byte b) ∧ t.threads = s.threads ∧
      ∀ c l, s.placeLocal a.toNat = .press c l → t.rdN (s.clusterPage c 1) 0x100 = (s.rdN (s.clusterPage c 1) 0x100 + 1) % 2 ^ 32) ∧
  (∀ (idx : Nat) (sc : Scrub) (s : State), s.scrubs[idx]? = some sc → sc.pid = none →
    ∃ t, exec (.scrubComplete idx) s = .next t ∧ t.scrubs = s.scrubs.eraseIdx idx ∧
      (∀ r ∈ sc.regions, t.regionRaw r = none) ∧
      (∀ r ∈ sc.regions, (s.regionRaw r).isSome = true → ∀ i < 0x200000, t.byte (r * 0x200000 + i) = 0) ∧
      (∀ b, b / 0x200000 ∉ sc.regions → t.byte b = s.byte b)) ∧
  (∀ (idx : Nat) (sc : Scrub) (pid : BitVec 5) (s : State), s.scrubs[idx]? = some sc → sc.pid = some pid →
    exec (.scrubComplete idx) s = .next ((s.endScrub idx).freePartition pid))

/-! ### Seedbed (chapter 13) -/

/-- Seedbed's own work: at the end of the blocks, those of feeding sources that are not in start-up pair up, the lower
source first, and their SHA-384 goes into conditioning; a sample that is the 21st equal one in a row, or the 311th
that equals the first of its block, fails its source: every seed is lost, the DRBG holds and the source restarts,
and the fourth failure in the window is fatal; a source that passed its start-up samples rejoins; a seed
instantiates, ends the hold or waits; at L bytes the oldest seed reseeds; a request adds 4 KiB of output; and a
failure leaves the window. An odd block is discarded, a choice of the model (log 64). -/
def Obligations.SeedbedFollowsItsSources : Prop :=
  ∀ s : State, s.escOn = true → s.seedMode ≠ 3 →
    (∀ samples, exec (.sourceBlockEnd samples) s =
      .next (if (s.feedEnds samples).2.1 then (s.feedEnds samples).1
        else (s.feedEnds samples).1.blockEnd (s.feedEnds samples).2.2)) ∧
    (s.rawOn = false → (s.seed.inst = true ∨ s.startupPassed = true) → ∃ t, exec (.sourceBlockEnd []) s = .next t ∧
      (∀ i < 10, (s.source i).block.length = 512 → (t.source i).block = [] ∧ (t.source i).final = (s.source i).block.reverse) ∧
      let good := (List.range 10).filter (fun i => (s.source i).block.length = 512 && s.sourcesOn.getLsbD i && !s.seed.fresh.getLsbD i)
      (good.length ≤ 1 → t.seed.forming = s.seed.forming) ∧
      (∀ i j, good = [i, j] → s.seed.seeds.length + s.seed.forming.length < 4 → t.seed.forming = s.seed.forming ++
        [(Crypto.sha384 ((s.source i).block.reverse ++ (s.source j).block.reverse), true)])) ∧
    (∀ (src : BitVec 4) (b : Byte), s.sourcesOn.getLsbD src.toNat = true → s.rawOn = false →
      (s.source src.toNat).block.length < 512 →
      (20 ≤ (s.source src.toNat).run ∧ b = (s.source src.toNat).last ∨
        (s.source src.toNat).block ≠ [] ∧ 310 ≤ (s.source src.toNat).same ∧ b = (s.source src.toNat).first) →
      (s.fld seedPage 0x118 0 3 < 3 → ∃ t, exec (.healthTestFail src [b]) s = .next t ∧ t.seed.seeds = [] ∧
        t.seedHold = true ∧ t.seed.fresh.getLsbD src.toNat = true ∧ t.seed.passed.getLsbD src.toNat = false ∧
        t.fld seedPage 0x118 0 3 = s.fld seedPage 0x118 0 3 + 1 ∧ t.source src.toNat = SeedSource.reset) ∧
      (3 ≤ s.fld seedPage 0x118 0 3 → s.seed.wait = none → ∃ u : State, exec (.healthTestFail src [b]) s =
        .next (u.failCause 4 src.toNat) ∧ u.seedMode = 3 ∧ u.seed.inst = false ∧ u.seed.queue = [])) ∧
    (∀ src : BitVec 4, s.seed.fresh.getLsbD src.toNat = true → 4096 ≤ (s.source src.toNat).start →
      ∃ t, exec (.sourceStartupPass src) s = .next t ∧
        t.seed.fresh.getLsbD src.toNat = false ∧ t.seed.passed.getLsbD src.toNat = true ∧ t.regs = s.regs ∧
        (s.seed.inst = true → t.seed.forming = s.seed.forming)) ∧
    (∀ x b rest, s.seed.forming = (x, b) :: rest →
      (b = false ∨ (s.seed.inst = true ∧ s.seedHold = false) → exec .seedConditioned s =
        .next { s with seed := { s.seed with forming := rest, seeds := s.seed.seeds ++ [x] } }) ∧
      (b = true → (s.seed.inst = false ∨ s.seedHold = true) → ∃ t, exec .seedConditioned s = .next t ∧ t.seed.inst = true ∧
        t.seed.since = 0 ∧ t.seedHold = false ∧ t.seedMode = 1 ∧ t.seed.forming = rest)) ∧
    (∀ b rest, s.seed.inst = true → s.seedHold = false → s.seedLimit ≤ s.seed.since → s.seed.seeds = b :: rest →
      ∃ t, exec .drbgReseed s = .next t ∧ t.seed.seeds = rest ∧ t.seed.since = 0 ∧ t.seedLevel = s.seedLevel ∧
        (t.seed.key, t.seed.v) = drbgUpdate s.seed.key s.seed.v b) ∧
    (s.seed.inst = true → s.seedHold = false → s.seed.since < s.seedLimit → s.seedLevel + 4096 ≤ 65536 →
      ∃ t, exec .drbgGenerate s = .next t ∧ t.seedLevel = s.seedLevel + 4096 ∧ t.seed.since = s.seed.since + 4096) ∧
    (s.fld seedPage 0x118 0 3 ≠ 0 → ∃ t, exec .failureLeavesWindow s = .next t ∧
      t.fld seedPage 0x118 0 3 = s.fld seedPage 0x118 0 3 - 1 ∧ t.seed = s.seed)

/-! ### Events and snapshots (chapters 14 and 16) -/

/-- A source that is sampled: IDLE and enabled, it becomes PENDING, stamped with the time, at its level or at an edge of
its sense; an edge in ACTIVE is kept, and one in PENDING merges and is counted; at the end of its level, a PENDING
source is IDLE again and a HELD one is withdrawn, counted, its staged records losing their source; one that is not
enabled only keeps its line; and where the lines of the compute dies are not sensed, nothing happens. Number 0xFFF
is never pending. The first request in order goes to its best target, of class C3 to one that is less than half
full: its source is HELD there with its record staged, or, where that ends the target's episode and the host can be
written, ACTIVE, with everything staged written; C3 that finds only fuller targets waits and is counted. An episode
that ends writes the staged records to their slots of the ring and sends the vector that is armed or owed, or
signals the host. D3hot and the loss of bus mastering stop what the controller writes, and their end resumes it;
Gauge's input and the end of a snapshot act on its page; a page latches a snapshot once, and is disabled once
nothing of it is under way. What comes at once on a release is the model's reading (log 67). -/
def Obligations.EventsAreTakenRoutedAndReleased : Prop :=
  ((∀ (n : BitVec 12) (s : State), s.escOn = true → s.srcLine n.toNat = none → exec (.eventLineSample n) s = .next s) ∧
    ∀ (n : BitVec 12) (v : Bool) (s : State), s.escOn = true → s.srcLine n.toNat = some v → n ≠ 0xFFF →
      let e := s.src n.toNat
      let edge : Prop := (e.sense = 3 ∧ e.line = false ∧ v = true) ∨ (e.sense = 4 ∧ e.line = true ∧ v = false) ∨
        (e.sense = 5 ∧ e.line ≠ v)
      ∃ t, exec (.eventLineSample n) s = .next t ∧ (∀ a, t.byte a = s.byte a) ∧
        (∀ m, m ≠ n.toNat → t.src m = s.src m) ∧
        (e.en = false → t.src n.toNat = { e with line := v }) ∧
        (e.en = true → (e.level = true ∧ e.atLevel v = true ∨ edge) → e.st = .idle →
          t.src n.toNat = { e with line := v, st := .pending, time := s.time, merged := false }) ∧
        (e.en = true → edge → e.st = .active → t.src n.toNat = { e with line := v, st := .activePending }) ∧
        (e.en = true → edge → e.st = .pending → t.src n.toNat = { e with line := v, merged := true } ∧
          t.rdN evcPage 0x154 = (s.rdN evcPage 0x154 + 1) % 2 ^ 32) ∧
        (e.en = true → e.level = true → e.atLevel v = false → e.st = .pending →
          t.src n.toNat = { e with line := v, st := .idle, merged := false }) ∧
        (e.en = true → e.level = true → e.atLevel v = false → e.st = .held →
          t.src n.toNat = { e with line := v, st := .idle, withdrawn := decide (e.target ≠ 64) } ∧
          t.rdN evcPage 0x150 = (s.rdN evcPage 0x150 + 1) % 2 ^ 32 ∧
          ∀ k, (t.tgt k).staged = (s.tgt k).staged.map (fun r => if r.owner = n ∧ r.src ≠ 0xFFF then { r with src := 0xFFF } else r))) ∧
  ((∀ (n k : Nat) (rest : List (Nat × EvSrc)) (s : State), s.escOn = true → s.evcOn = true → s.evcHeld = false →
      n < 0xFFF → s.requests = (n, s.src n) :: rest →
      let e := s.src n
      let u : State := { s with fresh := s.fresh + 1 }
      let x := s.tgt k
      let r : EvRec := { src := BitVec.ofNat 12 n, owner := BitVec.ofNat 12 n, cls := e.cls, prio := e.prio, merged := e.merged,
                         flushed := false, time := e.time }
      let ends : Prop := x.modCount.toNat ≤ x.staged.length + 1 ∨ x.bypass ≤ e.prio ∨ x.due = true
      bestTgt ((u.eligible e).filter (fun y => e.cls ≠ 3 || y.2.2.2)) = some k →
      ∃ t, exec .eventRoute s = .next t ∧ (∀ a, t.byte a = s.byte a) ∧
        (k = 64 → t.src n = { e with st := .held, target := 64, merged := false } ∧ t.evc.rtp = s.evc.rtp ++ [r]) ∧
        (k < 64 → ¬ ends → t.src n = { e with st := .held, target := BitVec.ofNat 7 k, merged := false } ∧
          t.tgt k = { x with staged := x.staged ++ [r] }) ∧
        (k < 64 → ends → s.mode = 1 → s.hostWritable = true → (t.src n).st = .active ∧ (t.src n).target = BitVec.ofNat 7 k ∧
          (t.tgt k).staged = [] ∧ (t.tgt k).wr = x.wr + BitVec.ofNat 32 (x.staged.length + 1))) ∧
    (∀ (n : Nat) (s : State), s.escOn = true → s.evcOn = true → s.evcHeld = false → s.requests = [(n, s.src n)] →
      (s.src n).cls = 3 →
      let u : State := { s with fresh := s.fresh + 1 }
      u.eligible (s.src n) ≠ [] → (∀ y ∈ u.eligible (s.src n), y.2.2.2 = false) →
      exec .eventRoute s = .next (u.bump evcPage 0x158 1)) ∧
    (∀ (t : BitVec 6) (s : State), inService s → ((s.tgt t.toNat).staged ≠ [] ∨ (s.tgt t.toNat).owed = true) →
      s.evcHeld = false → s.evcOn = true →
      let x := s.tgt t.toNat
      ∃ u, exec (.moderationTimeout t) s = .next u ∧
        (s.hostWritable = true → x.load ≤ x.size → (u.tgt t.toNat).staged = [] ∧
          (u.tgt t.toNat).wr = x.wr + BitVec.ofNat 32 x.staged.length ∧
          (∀ (i : Nat) (r : EvRec), x.staged[i]? = some r → (r.src ≠ 0xFFF → (u.src r.owner.toNat).st = .active) ∧
            ∀ j < 16, u.hostByte (x.ring.toNat + (x.wr.toNat + i) % x.size * 16 + j) =
              (recordBytes x.log2n.toNat { r with flushed := false } false (x.wr + BitVec.ofNat 32 i)).getD j 0) ∧
          (x.owed = true ∨ x.armed = true → u.out = s.out ++ [.msix t] ∧ (u.tgt t.toNat).armed = false ∧
            (u.tgt t.toNat).owed = false) ∧
          (x.owed = false → x.armed = false → u.out = s.out)) ∧
        (s.hostWritable = false → u.host.pme = true ∧ u.host.mem = s.host.mem ∧ (u.tgt t.toNat).staged = x.staged ∧
          (u.tgt t.toNat).due = true)) ∧
    (∀ s : State, s.pins.por = true → s.host.rrs = false → s.host.inReset = false →
      (s.host.d3hot = false → ∃ t, exec .hostD3hot s = .next t ∧ t.host.d3hot = true ∧ t.hostWritable = false ∧
        t.host.pmeEn = Config.pmeEnable s.fresh) ∧
      exec .busMasterDisable s = .next { s with host := { s.host with bme := false } }) ∧
    (∀ s : State, s.pins.por = true → s.host.rrs = false → s.pins.perst = true →
      ∃ t, exec .busMasterResume s = .next t ∧ t.hostWritable = true ∧ t.pins.wakeN = true ∧ t.host.pme = false) ∧
    (∀ s : State, s.pins.por = true → (s.mode = 1 ∨ s.mode = 3) → (s.rd gaugePage 0x104).getLsbD 16 = true →
      ∃ t, exec .gaugeInEdge s = .next t ∧ (∀ a, t.byte a = s.byte a) ∧
        (s.gaugeBusy = true → t.rdN gaugePage 0x11C = (s.rdN gaugePage 0x11C + 1) % 2 ^ 32 ∧
          t.rdN gaugePage 0x10C = s.rdN gaugePage 0x10C) ∧
        (s.gaugeBusy = false → t.gaugeBusy = true ∧ t.rdN gaugePage 0x10C = (s.rdN gaugePage 0x10C + 1) % 2 ^ 32 ∧
          t.rd64 gaugePage 0x110 = (s.time.toNat - 1 + s.fld gaugePage 0x104 0 8) % 2 ^ 64)) ∧
    (∀ s : State, s.gaugeBusy = true → s.rd64 gaugePage 0x110 + 1 ≤ s.time.toNat →
      ∃ t, exec .gaugeDone s = .next t ∧ t.gaugeBusy = false ∧ t.rdN gaugePage 0x10C = s.rdN gaugePage 0x10C) ∧
    (∀ (page : BitVec 18) (p : Page) (s : State), pageAt page.toNat = some p → s.pageLive p = true →
      s.fld p 0x020 0 2 = 1 → s.rdN gaugePage 0x10C ≠ 0 → s.rdN p 0x024 ≠ s.rdN gaugePage 0x10C →
      s.rd64 gaugePage 0x110 ≤ s.time.toNat →
      ∃ t, exec (.snapshotLatch page) s = .next t ∧
          t.rdN p 0x024 = (if Config.capShadow p.type = true then s.rdN gaugePage 0x10C else s.rdN p 0x024) ∧
        exec (.snapshotLatch page) t = .next t) ∧
    (∀ (page : BitVec 18) (p : Page) (s : State), pageAt page.toNat = some p → s.pageLive p = true → s.disabling p = true →
      s.busy p = false → ∃ t, exec (.disableComplete page) s = .next t ∧ t.enabled p = false ∧ t.disabling p = false))

/-! ### Host interface, resets and start-up (chapters 15 and 18) -/

/-- BAR2 reads and writes the bytes of HBM in the open region and in the regions of OPEN partitions; a poisoned block
gives a poisoned completion without data. A CONFIDENTIAL partition's memory, that of every partition in the fail-
safe state, and what is unassigned read all ones and are not written, and are counted; a write that touches a frozen
range is not done at all. What the host reaches, and what its reads carry, are the model's readings (log 87). -/
def Obligations.ApertureReachesOpenMemory : Prop :=
  (∀ (off : BitVec 36) (n : Nat) (s : State), s.bar2Open = true → s.power = 0 → 1 ≤ n →
    let a := s.bar2Addr off.toNat
    a % 4096 + n ≤ 4096 →
    (openAt s a → (∀ i < n, ∃ key, soundBlock s (a + i) key) → exec (.bar2Read off n) s =
      .next { s with host := { s.host with read := 0, bytes := (List.range n).map (fun i => s.byte (a + i)),
                                           poisoned := false } }) ∧
    (∀ key, openAt s a → a % 256 + n ≤ 256 → s.blockKey a = some key → s.ver0 key = 0xFFFFFFFF →
      ∃ t, exec (.bar2Read off n) s = .next t ∧ hostGot t (List.replicate n 0) true ∧ ∀ b, t.byte b = s.byte b) ∧
    (deniedAt s a → ∃ t, exec (.bar2Read off n) s = .next t ∧ bar2Refused s t ∧ hostGot t (List.replicate n 0xFF) false) ∧
    (unassignedAt s a → ∃ t, exec (.bar2Read off n) s = .next t ∧ bar2Missed s t ∧ hostGot t (List.replicate n 0xFF) false)) ∧
  (∀ (off : BitVec 36) (bs : List Byte) (s : State), s.bar2Open = true → s.power = 0 → bs ≠ [] →
    let a := s.bar2Addr off.toNat
    ((∃ i < bs.length, openAt s (a + i) ∧ s.frozenAt none (a + i) = true) →
      ∃ t, exec (.bar2Write off bs) s = .next t ∧ bar2Refused s t) ∧
    (a % 4096 + bs.length ≤ 4096 →
      (deniedAt s a → ∃ t, exec (.bar2Write off bs) s = .next t ∧ bar2Refused s t) ∧
      (unassignedAt s a → ∃ t, exec (.bar2Write off bs) s = .next t ∧ bar2Missed s t)) ∧
    (∀ key, a % 256 + bs.length ≤ 256 → openAt s a → (∀ i < bs.length, s.frozenAt none (a + i) = false) →
      soundBlock s a key → (s.versionsFull key = true → s.ver0 key ≠ 0) →
      ∃ t, exec (.bar2Write off bs) s = .next t ∧ storedInBlock s t key a bs ∧ t.threads = s.threads ∧ t.host = s.host))

/-- The management endpoint answers with what its sensors read, and a firmware update goes whole to the bank that did
not boot; the pins and the link take their states; the test-access port opens unless a CONFIDENTIAL partition
exists; a PCIe reset ends bus mastering and D3hot, and a function-level reset also clears every target's enable; the
end of `PERST_N` opens the crossing to the controller again. Which registers survive a PCIe reset is the model's
reading (log 88), and the crossings that see one are log 83. -/
def Obligations.PinsLinksAndResetsAct : Prop :=
  (∀ s : State, s.firmwareOn = true →
    (∀ msg, ∃ reply, exec (.mctpMessage msg) s = .next { s with fresh := s.fresh + 1, out := s.out ++ [
      .mctp { watts := s.rdN ledgerPage 0x108, temp := BitVec.ofNat 8 (s.rdN ledgerPage 0x118),
              power := BitVec.ofNat 2 s.power, mode := BitVec.ofNat 4 s.mode } reply] }) ∧
    (∀ img : FwImage, img.body.length ≤ 0x1000000 →
      (s.rtp.bank1 = true → exec (.pldmFirmwareUpdate img) s = .next { s with flash := { s.flash with fw0 := some img } }) ∧
      (s.rtp.bank1 = false → exec (.pldmFirmwareUpdate img) s = .next { s with flash := { s.flash with fw1 := some img } }))) ∧
  (∀ s : State,
    exec .thermtrip s = .next { s with pins := { s.pins with thermN := if s.pins.por then false else s.pins.thermN } } ∧
    ∃ t, exec .perstRelease s = .next t ∧ t.pins = { s.pins with perst := true } ∧ (∀ a, t.byte a = s.byte a) ∧
      (s.pins.perst = false → t.crossOpen endPcie = true)) ∧
  (∀ s : State, s.pins.por = true → (s.mode = 1 ∨ s.mode = 3) →
    (s.confExists = false → exec .testAccessUnlock s = .next { s with rtp := { s.rtp with testOpen := true } }) ∧
    (s.confExists = true → exec .testAccessUnlock s = .next (s.emit (.testRefused stDebug)))) ∧
  (∀ (kind : PcieResetKind) (s : State), s.pins.por = true → ∃ t, exec (.pcieReset kind) s = .next t ∧
    t.host.bme = false ∧ t.host.d3hot = false ∧ t.host.inReset = true ∧ t.pcieUp = false ∧ (∀ a, t.byte a = s.byte a) ∧
    (kind = .perst → t.pins.perst = false)) ∧
  (∀ s : State, s.pins.por = true → s.pins.perst = true → s.host.rrs = false → ∃ t, exec .functionLevelReset s = .next t ∧
    t.host.bme = false ∧ t.host.inReset = true ∧ (t.pcieUp = s.pcieUp) ∧ ∀ n, (t.tgt n).enable = false) ∧
  (∀ (width : BitVec 6) (speed : BitVec 3) (s : State), s.escOn = true → s.pins.perst = true → s.pcieUp = false →
    width.toNat ∈ [1, 2, 4, 8, 16] → 1 ≤ speed.toNat → speed.toNat ≤ 6 → ∃ t, exec (.pcieLinkUp width speed) s = .next t ∧
      t.pcieUp = true ∧ t.fld pciePage 0x100 4 6 = width.toNat ∧ t.fld pciePage 0x100 0 3 = speed.toNat) ∧
  (∀ s : State, s.pins.por = true → ∃ t, exec .pcieLinkDown s = .next t ∧ t.pcieUp = false)

/-- Power-on reset keeps fuses, flash and the queue and stops every thread. Its release starts Seedbed; then each AON
cycle completes one stage, in order. LOCKED, with its reason and `FAULT_N` low, follows where neither bank holds an
image whose two signatures verify under the fused key and whose security version reaches the fuse minimum, where
PERM stands with 3 alarms, where the root's vote fails, a die fails or a stack fails its training and three retries.
The newer such image boots; stage 4 waits for Seedbed and loads the root; stage 9 clears HBM, and stage 10 is READY.
That each stage takes one AON cycle, and what a stage meets, are the model's choices (logs 88 and 89). -/
def Obligations.StartUpEndsReadyOrLocked : Prop :=
  (∀ (cause : BitVec 4) (s : State), cause.toNat < 2 → ∃ t, exec (.porAssert cause) s = .next t ∧ t.fuses = s.fuses ∧
    t.flash = s.flash ∧ t.pending = s.pending ∧ t.pins.por = false ∧ t.mode = 0 ∧ (∀ w, (t.thread w).st = .idle) ∧
    (∀ n, (t.key n).st = .empty) ∧ ∀ p, (t.part p).st = 0) ∧
  (∀ (env : BootEnv) (s : State), s.pins.por = false → ∃ t, exec (.porRelease env) s = .next t ∧ t.pins.por = true ∧
    t.start = some env ∧ t.seed.inst = false ∧ t.flash = s.flash ∧ t.fuses = s.fuses ∧ t.mode = s.mode ∧
    t.fld escPage 0x100 0 4 = s.fld escPage 0x100 0 4) ∧
  (∀ (env : BootEnv) (s : State), s.pending = [] → s.pins.por = true → s.mode = 0 → s.start = some env →
    let f := s.fuses
    let n := s.fld escPage 0x100 0 4
    let bootable (b : Option FwImage) : Prop := ∃ x, b = some x ∧ x.signer = f.fwKey ∧ x.mldsa = true ∧ x.ecdsa = true ∧
      f.fwMin ≤ x.security
    let version (b : Option FwImage) : Nat := (b.map (fun x => x.version.toNat)).getD 0
    let voted := (f.copy0 &&& f.copy1) ||| (f.copy0 &&& f.copy2) ||| (f.copy1 &&& f.copy2)
    let differ := ((List.range 288).filter (fun i => f.copy0.getLsbD i != f.copy1.getLsbD i ||
      f.copy0.getLsbD i != f.copy2.getLsbD i)).length
    ∃ t, step s = .next t ∧
      let stage (m : Nat) : Prop := t.fld escPage 0x100 0 4 = m
      let locked (reason : Nat) : Prop := t.mode = 2 ∧ t.fld mboxPage 0x114 8 8 = reason ∧ t.pins.faultN = false ∧
        t.start = none
      (n = 0 ∨ n = 1 ∨ n = 4 ∨ n = 5 → stage (n + 1)) ∧
      (n = 2 → ¬ bootable s.flash.fw0 → ¬ bootable s.flash.fw1 → locked 5) ∧
      (n = 2 → bootable s.flash.fw0 ∨ bootable s.flash.fw1 →
        (f.perm = true ∧ 3 ≤ f.count.toNat → locked 3) ∧
        (¬ (f.perm = true ∧ 3 ≤ f.count.toNat) → stage 3 ∧ t.mode = 0 ∧ (t.rtp.bank1 = true ↔
          bootable s.flash.fw1 ∧ (¬ bootable s.flash.fw0 ∨ version s.flash.fw0 < version s.flash.fw1)))) ∧
      (n = 3 → s.seed.inst = false → stage 3 ∧ t.mode = 0 ∧ t.start = some env ∧ t.keys = s.keys) ∧
      (n = 3 → s.seed.inst = true → fuseCopy (voted.extractLsb' 32 256) = voted → differ ≤ 24 → stage 4 ∧ t.mode = 0 ∧
        (t.key 0).st = .valid ∧ (t.key 0).origin = 1) ∧
      (n = 3 → s.seed.inst = true → ¬ (fuseCopy (voted.extractLsb' 32 256) = voted ∧ differ ≤ 24) → locked 2 ∧
        t.rdN escPage 0x104 = differ) ∧
      (n = 6 → ∀ d, env.dieFail = some d → locked 7 ∧ t.rdN escPage 0x104 = d.toNat) ∧
      (n = 6 → env.dieFail = none → stage 7 ∧ ∀ d < 4, t.railOn d = true) ∧
      (n = 7 → (∃ e ∈ env.stackFails, 3 < e.2) → locked 6) ∧
      (n = 7 → (∀ e ∈ env.stackFails, e.2 ≤ 3) → stage 8 ∧ t.mode = 0) ∧
      (n = 8 → stage 9 ∧ ∀ a, t.byte a = 0) ∧
      (n = 9 → stage 10 ∧ t.mode = 1 ∧ t.start = none ∧ t.rd64 escPage 0x108 = t.time.toNat))

/-- A cause of Table 17.3 enters the fail-safe state from READY: its mode, `FAULT_N` low, and the cause, its detail and
its time in SPARES. During start-up it locks the device with its reason and is recorded without that entry. In
LOCKED and in the fail-safe state it marks itself beside the recorded one; of causes in one ESC cycle, which the
model's TIME leaves open, the lower code may stand recorded and the other be marked. The commands that bring a cause
name it; a loss of lock is counted, and two hot readings in a row are a cause. Whether two causes of one AON cycle
fall in one ESC cycle is a free value (log 86). -/
def Obligations.FailSafeCausesAct : Prop :=
  (∀ (cause detail : Nat) (s : State), s.pins.por = true → 1 ≤ cause → cause ≤ 6 →
    let t := s.failCause cause detail
    let others (c : Nat) : Prop := t.fld sparesPage 0x12C (8 + c - 1) 1 = 1
    let same : Prop := s.rd64 sparesPage 0x138 = s.time.toNat ∧ s.mode = 3 ∧ cause < s.rtp.fsCause.toNat
    (s.mode = 1 → t.mode = 3 ∧ t.pins.faultN = false ∧ t.fld sparesPage 0x12C 0 8 = cause ∧
      t.fld sparesPage 0x12C 31 1 = 1 ∧ t.rdN sparesPage 0x130 = detail % 2 ^ 32 ∧ t.rd64 sparesPage 0x138 = t.time.toNat ∧
      t.rtp.fsCause.toNat = cause) ∧
    (s.mode = 0 → t.mode = 2 ∧ t.pins.faultN = false ∧
      t.fld mboxPage 0x114 8 8 = [0, 0x09, 0x08, 0x01, 0x04, 0x0B, 0x0A].getD cause 0 ∧
      t.rdN escPage 0x104 = detail % 2 ^ 32 ∧ t.fld sparesPage 0x12C 0 8 = cause ∧ t.fld sparesPage 0x12C 31 1 = 0) ∧
    (s.mode = 2 ∨ s.mode = 3 → s.rtp.fsCause.toNat = cause → t = s) ∧
    (s.mode = 2 ∨ s.mode = 3 → s.rtp.fsCause.toNat ≠ cause → ¬ same →
      others cause ∧ t.fld sparesPage 0x12C 0 8 = s.fld sparesPage 0x12C 0 8 ∧ t.mode = s.mode ∧ t.threads = s.threads) ∧
    (same → s.rtp.fsCause.toNat ≤ 6 → t.mode = 3 ∧ t.threads = s.threads ∧
      (others cause ∧ t.fld sparesPage 0x12C 0 8 = s.fld sparesPage 0x12C 0 8 ∨
        others s.rtp.fsCause.toNat ∧ t.fld sparesPage 0x12C 0 8 = cause ∧ t.rdN sparesPage 0x130 = detail % 2 ^ 32))) ∧
  (∀ (page : BitVec 24) (code : BitVec 32) (s : State),
    exec (.controlUe page) s = .next (s.failCause 1 page.toNat) ∧
    exec (.rtpFirmwareException code) s = .next (s.failCause 6 code.toNat) ∧
    exec (.rtpWatchdogExpiry code) s = .next (s.failCause 6 code.toNat)) ∧
  (∀ (die : BitVec 3) (pll : BitVec 2) (s : State), s.pllInUse die.toNat pll.toNat = true →
    let lost (u : State) := sget (fun _ => (0 : Nat)) u.pllLoss (3 * die.toNat + pll.toNat)
    (s.mode = 2 ∨ s.mode = 3 → exec (.pllLockLoss die pll) s = .next (s.failCause 2 (16 * die.toNat + pll.toNat))) ∧
    (s.mode ≠ 2 → s.mode ≠ 3 → ∃ u : State, exec (.pllLockLoss die pll) s =
      .next (u.failCause 2 (16 * die.toNat + pll.toNat)) ∧ lost u = min 65535 (lost s + 1) ∧ u.mode = s.mode)) ∧
  (∀ (c : BitVec 8) (s : State), s.escOn = true →
    let hot : Prop := celsius (s.fld ledgerPage 0x11C 8 8) ≤ c.toInt
    (¬ hot → ∃ t, exec (.tempReading c) s = .next t ∧ t.ledger.tempRun = 0 ∧
      t.rdN ledgerPage 0x118 = c.toNat ∧ ∀ a, t.byte a = s.byte a) ∧
    (hot → s.ledger.tempRun = 0 → ∃ t, exec (.tempReading c) s = .next t ∧ t.ledger.tempRun = 1 ∧
      t.rdN ledgerPage 0x118 = c.toNat ∧ t.mode = s.mode) ∧
    (hot → 1 ≤ s.ledger.tempRun → ∃ u : State,
      exec (.tempReading c) s = .next (u.failCause 5 c.toNat) ∧ u.rdN ledgerPage 0x118 = c.toNat ∧
      u.ledger.tempRun = s.ledger.tempRun + 1 ∧ u.mode = s.mode))

/-! ### The Ledger, wear and the Journal (chapters 15 to 17) -/

/-- An epoch admits C1, C2 and C3 in sixteenths, each class only where the one before it is whole, so that the demand
admitted fits in the limit wherever what it may not lower does; what the base takes is at most 180 W of leakage and
240 W of idle power. The coefficients of activity and the leakage are free, and the largest admissions that fit are
the model's choice (log 85). -/
def Obligations.EpochsAdmitWithinTheLimit : Prop :=
  ∀ (x : EpochDemand) (s : State), s.escOn = true → s.power ≠ 2 → (s.mode = 1 ∨ s.mode = 3) →
    let d := s.demand x
    ∃ t a3 a2 a1, exec (.ledgerEpoch x) s = .next t ∧ t.rdN ledgerPage 0x110 = a3 * 65536 + a2 * 256 + a1 ∧
      d.base ≤ 420 ∧ a3 ≤ 16 ∧ a2 ≤ 16 ∧ a1 ≤ 16 ∧ (a3 ≠ 0 → a2 = 16) ∧ (a2 ≠ 0 → a1 = 16) ∧
      (d.base + d.c0 ≤ s.epochLimit.1 →
        16 * (d.base + d.c0) + d.c1 * a1 + d.c2 * a2 + d.c3 * a3 ≤ 16 * s.epochLimit.1) ∧
      (d.base + d.c0 + d.c1 + d.c2 + d.c3 ≤ s.epochLimit.1 → a1 = 16 ∧ a2 = 16 ∧ a3 = 16) ∧
      t.threads = s.threads ∧ ∀ a, t.byte a = s.byte a

/-- A unit whose counter has reached its threshold is marked worn; hot minutes count up to 2^32 − 1; the spares record,
of two banks under the next sequence number, takes the maps and the marks, or the counters as well; an entry of the
Journal extends the hash, and a capture that waited for it copies that. When a unit is marked is the model's reading
(log 86). -/
def Obligations.WearAndJournalAreKept : Prop :=
  (∀ (kind : BitVec 3) (unit : BitVec 10) (s : State), s.escOn = true → s.rtpWrites = true →
    unit.toNat < (unitsOf kind.toNat) → s.isWorn kind.toNat unit.toNat = false → s.atThreshold kind.toNat unit.toNat = true →
    ∃ t, exec (.wearThreshold kind unit) s = .next t ∧ t.isWorn kind.toNat unit.toNat = true ∧ (∀ a, t.byte a = s.byte a)) ∧
  (∀ (kind : BitVec 3) (unit : BitVec 10) (c : BitVec 8) (s : State), s.escOn = true → unit.toNat < unitsOf kind.toNat →
    ∃ t, exec (.wearHotTick kind unit c) s = .next t ∧ t.wearCount kind.toNat unit.toNat 2 =
      min (s.wearCount kind.toNat unit.toNat 2 + (c.toInt - 85).toNat) 0xFFFFFFFF) ∧
  (∀ s : State, s.escOn = true → s.rtpWrites = true →
    (∃ t, exec .sparesRecordWrite s = .next t ∧ t.flash.record.spares.worn = s.spares.worn ∧
      t.flash.record.spares.coreMap = s.spares.coreMap ∧ t.flash.record.spares.ce = s.flash.record.spares.ce ∧
      t.flash.record.seq = s.flash.record.seq + 1 ∧ t.spares = s.spares) ∧
    (∃ t, exec .wearCounterSave s = .next t ∧ t.flash.record.spares = s.spares ∧
      t.flash.record.seq = s.flash.record.seq + 1 ∧ t.spares = s.spares)) ∧
  (∀ (s : State) (e : List Byte) (rest : List (List Byte)), s.pins.por = true → s.journal.queue = e :: rest →
    let hash := Crypto.sha384 (s.pageBytes journalPage 0x100 12 ++ e)
    ∃ u : State, exec .journalEntryAbsorbed s = .next (drainWrites u s.journal.writes) ∧ u.journal.queue = rest ∧
      u.pageBytes journalPage 0x100 12 = hash ∧ u.rd64 journalPage 0x130 = (s.rd64 journalPage 0x130 + 1) % 2 ^ 64 ∧
      ((∃ n ∈ s.journal.captures, n ≤ u.rd64 journalPage 0x130) →
        u.pageBytes journalPage 0x180 12 = hash ∧ u.rd64 journalPage 0x1B0 = u.rd64 journalPage 0x130))
end

