-- ==== Sys2Proof/Laws/Sparse.lean ====
section
/-!
SUPPORT. The laws of the finite maps: a read after a write, at the key and elsewhere, over any list; and that
a write keeps the canonical form.
-/

namespace Sys2Proof.Machine

theorem sget_sdel_other {α : Type} (d : Nat → α) (l : List (Nat × α)) (k a : Nat) (h : a ≠ k) :
    sget d (sdel k l) a = sget d l a := by
  induction l with
  | nil => rfl
  | cons e l ih =>
    obtain ⟨k', v⟩ := e
    by_cases hk : k' = k
    · subst hk; simp [sdel, sget, Ne.symm h] at ih ⊢; exact ih
    · simp [sdel, sget, hk] at ih ⊢; rw [ih]

theorem sget_sdel_same {α : Type} (d : Nat → α) (l : List (Nat × α)) (k : Nat) :
    sget d (sdel k l) k = d k := by
  induction l with
  | nil => rfl
  | cons e l ih =>
    obtain ⟨k', v⟩ := e
    by_cases hk : k' = k
    · subst hk; simp [sdel] at ih ⊢; exact ih
    · simp [sdel, sget, hk] at ih ⊢; exact ih

theorem sget_sins_other {α : Type} (d : Nat → α) (l : List (Nat × α)) (k a : Nat) (v : α) (h : a ≠ k) :
    sget d (sins k v l) a = sget d l a := by
  induction l with
  | nil => simp [sins, sget, Ne.symm h]
  | cons e l ih =>
    obtain ⟨k', v'⟩ := e
    simp only [sins]
    split
    · simp [sget, Ne.symm h]
    · simp [sget, ih]

theorem sget_sins_same {α : Type} (d : Nat → α) (l : List (Nat × α)) (k : Nat) (v : α)
    (h : ∀ e ∈ l, e.1 ≠ k) : sget d (sins k v l) k = v := by
  induction l with
  | nil => simp [sins, sget]
  | cons e l ih =>
    obtain ⟨k', v'⟩ := e
    have hk : k' ≠ k := h (k', v') (by simp)
    have ih' := ih (fun e he => h e (by simp [he]))
    simp only [sins]
    split
    · simp [sget]
    · simp [sget, hk, ih']

theorem sdel_keys {α : Type} (l : List (Nat × α)) (k : Nat) : ∀ e ∈ sdel k l, e.1 ≠ k := by
  intro e he; simp [sdel] at he; exact he.2

/-- A read at the written key gives the written value. -/
@[simp] theorem sget_sput_same {α : Type} [DecidableEq α] (d : Nat → α) (l : List (Nat × α)) (k : Nat)
    (v : α) : sget d (sput d l k v) k = v := by
  unfold sput
  split
  · next h => rw [sget_sdel_same, h]
  · exact sget_sins_same d _ k v (sdel_keys l k)

/-- A read at another key gives what it gave before. -/
theorem sget_sput_other {α : Type} [DecidableEq α] (d : Nat → α) (l : List (Nat × α)) (k a : Nat) (v : α)
    (h : a ≠ k) : sget d (sput d l k v) a = sget d l a := by
  unfold sput
  split
  · exact sget_sdel_other d l k a h
  · rw [sget_sins_other d _ k a v h, sget_sdel_other d l k a h]

theorem mem_sins {α : Type} (l : List (Nat × α)) (k : Nat) (v : α) (e : Nat × α) :
    e ∈ sins k v l ↔ e = (k, v) ∨ e ∈ l := by
  induction l with
  | nil => simp [sins]
  | cons x l ih =>
    obtain ⟨k', v'⟩ := x
    simp only [sins]
    split
    · simp
    · simp only [List.mem_cons, ih]; tauto

theorem sins_sorted {α : Type} (l : List (Nat × α)) (k : Nat) (v : α)
    (hs : l.Pairwise (fun a b => a.1 < b.1)) (hk : ∀ e ∈ l, e.1 ≠ k) :
    (sins k v l).Pairwise (fun a b => a.1 < b.1) := by
  induction l with
  | nil => simp [sins]
  | cons x l ih =>
    obtain ⟨k', v'⟩ := x
    rw [List.pairwise_cons] at hs
    have hne : k' ≠ k := hk (k', v') (by simp)
    simp only [sins]
    split
    · next hlt =>
      rw [List.pairwise_cons]
      refine ⟨fun b hb => ?_, List.pairwise_cons.mpr hs⟩
      rcases List.mem_cons.mp hb with rfl | hb
      · exact hlt
      · exact Nat.lt_trans hlt (hs.1 b hb)
    · next hlt =>
      rw [List.pairwise_cons]
      refine ⟨fun b hb => ?_, ih hs.2 (fun e he => hk e (by simp [he]))⟩
      rcases (mem_sins l k v b).mp hb with rfl | hb
      · show k' < k; omega
      · exact hs.1 b hb

/-- A write keeps the canonical form. -/
theorem sput_wf {α : Type} [DecidableEq α] (d : Nat → α) (l : List (Nat × α)) (k : Nat) (v : α)
    (h : Sparse.wf d l) : Sparse.wf d (sput d l k v) := by
  have hd : Sparse.wf d (sdel k l) := by
    refine ⟨h.1.filter _, fun e he => h.2 e ?_⟩
    exact (List.mem_filter.mp he).1
  unfold sput
  split
  · exact hd
  · next hv =>
    refine ⟨sins_sorted _ k v hd.1 (sdel_keys l k), fun e he => ?_⟩
    rcases (mem_sins _ k v e).mp he with rfl | he
    · exact hv
    · exact hd.2 e he

/-- Writing bytes one after another keeps the canonical form. -/
theorem sputs_wf {α : Type} [DecidableEq α] (d : Nat → α) (vs : List α) (l : List (Nat × α)) (a : Nat)
    (h : Sparse.wf d l) : Sparse.wf d (sputs d l a vs) := by
  induction vs generalizing l a with
  | nil => exact h
  | cons v vs ih => exact ih _ _ (sput_wf d l a v h)

/-- Writing bytes from a on leaves every key outside them alone. -/
theorem sget_sputs_outside {α : Type} [DecidableEq α] (d : Nat → α) (vs : List α) (l : List (Nat × α))
    (a k : Nat) (h : k < a ∨ a + vs.length ≤ k) : sget d (sputs d l a vs) k = sget d l k := by
  induction vs generalizing l a with
  | nil => rfl
  | cons v vs ih =>
    simp only [sputs]
    rw [ih _ _ (by simp at h; omega), sget_sput_other d l a k v (by simp at h; omega)]

/-- The i-th of the written bytes reads back. -/
theorem sget_sputs_inside {α : Type} [DecidableEq α] (d : Nat → α) (vs : List α) (l : List (Nat × α))
    (a i : Nat) (h : i < vs.length) : sget d (sputs d l a vs) (a + i) = vs[i] := by
  induction vs generalizing l a i with
  | nil => simp at h
  | cons v vs ih =>
    simp only [sputs]
    cases i with
    | zero => rw [sget_sputs_outside _ _ _ _ _ (by omega)]; simp
    | succ i =>
      have := ih (sput d l a v) (a + 1) i (by simpa using h)
      rw [show a + (i + 1) = a + 1 + i by omega, this]; simp

end Sys2Proof.Machine
end

