-- ==== Sys2Proof/Laws/State.lean ====
section
/-!
SUPPORT. What each update of the state leaves as it was, field by field, and what a read after an update gives.
-/

namespace Sys2Proof.Machine

/-! ### wr -/

@[simp] theorem State.wr_pending (s : State) (p : Page) (off : Nat) (v : Reg32) : (s.wr p off v).pending = s.pending := rfl
@[simp] theorem State.wr_time (s : State) (p : Page) (off : Nat) (v : Reg32) : (s.wr p off v).time = s.time := rfl
@[simp] theorem State.wr_eng (s : State) (p : Page) (off : Nat) (v : Reg32) : (s.wr p off v).eng = s.eng := rfl
@[simp] theorem State.wr_mem (s : State) (p : Page) (off : Nat) (v : Reg32) : (s.wr p off v).mem = s.mem := rfl
@[simp] theorem State.wr_v0 (s : State) (p : Page) (off : Nat) (v : Reg32) : (s.wr p off v).v0 = s.v0 := rfl
@[simp] theorem State.wr_badLines (s : State) (p : Page) (off : Nat) (v : Reg32) : (s.wr p off v).badLines = s.badLines := rfl
@[simp] theorem State.wr_macErr (s : State) (p : Page) (off : Nat) (v : Reg32) : (s.wr p off v).macErr = s.macErr := rfl
@[simp] theorem State.wr_remote (s : State) (p : Page) (off : Nat) (v : Reg32) : (s.wr p off v).remote = s.remote := rfl
@[simp] theorem State.wr_run (s : State) (p : Page) (off : Nat) (v : Reg32) : (s.wr p off v).run = s.run := rfl
@[simp] theorem State.wr_meters (s : State) (p : Page) (off : Nat) (v : Reg32) : (s.wr p off v).meters = s.meters := rfl
@[simp] theorem State.wr_cmdNum (s : State) (p : Page) (off : Nat) (v : Reg32) : (s.wr p off v).cmdNum = s.cmdNum := rfl
@[simp] theorem State.wr_hbm (s : State) (p : Page) (off : Nat) (v : Reg32) : (s.wr p off v).hbm = s.hbm := rfl
@[simp] theorem State.wr_regions (s : State) (p : Page) (off : Nat) (v : Reg32) : (s.wr p off v).regions = s.regions := rfl
@[simp] theorem State.wr_scrubs (s : State) (p : Page) (off : Nat) (v : Reg32) : (s.wr p off v).scrubs = s.scrubs := rfl
@[simp] theorem State.wr_frozen (s : State) (p : Page) (off : Nat) (v : Reg32) : (s.wr p off v).frozen = s.frozen := rfl
@[simp] theorem State.wr_threads (s : State) (p : Page) (off : Nat) (v : Reg32) : (s.wr p off v).threads = s.threads := rfl
@[simp] theorem State.wr_cores (s : State) (p : Page) (off : Nat) (v : Reg32) : (s.wr p off v).cores = s.cores := rfl
@[simp] theorem State.wr_clusters (s : State) (p : Page) (off : Nat) (v : Reg32) : (s.wr p off v).clusters = s.clusters := rfl
@[simp] theorem State.wr_dies (s : State) (p : Page) (off : Nat) (v : Reg32) : (s.wr p off v).dies = s.dies := rfl
@[simp] theorem State.wr_parts (s : State) (p : Page) (off : Nat) (v : Reg32) : (s.wr p off v).parts = s.parts := rfl
@[simp] theorem State.wr_keys (s : State) (p : Page) (off : Nat) (v : Reg32) : (s.wr p off v).keys = s.keys := rfl
@[simp] theorem State.wr_nodes (s : State) (p : Page) (off : Nat) (v : Reg32) : (s.wr p off v).nodes = s.nodes := rfl
@[simp] theorem State.wr_rtp (s : State) (p : Page) (off : Nat) (v : Reg32) : (s.wr p off v).rtp = s.rtp := rfl
@[simp] theorem State.wr_fuses (s : State) (p : Page) (off : Nat) (v : Reg32) : (s.wr p off v).fuses = s.fuses := rfl
@[simp] theorem State.wr_flash (s : State) (p : Page) (off : Nat) (v : Reg32) : (s.wr p off v).flash = s.flash := rfl
@[simp] theorem State.wr_spares (s : State) (p : Page) (off : Nat) (v : Reg32) : (s.wr p off v).spares = s.spares := rfl
@[simp] theorem State.wr_seed (s : State) (p : Page) (off : Nat) (v : Reg32) : (s.wr p off v).seed = s.seed := rfl
@[simp] theorem State.wr_start (s : State) (p : Page) (off : Nat) (v : Reg32) : (s.wr p off v).start = s.start := rfl
@[simp] theorem State.wr_evc (s : State) (p : Page) (off : Nat) (v : Reg32) : (s.wr p off v).evc = s.evc := rfl
@[simp] theorem State.wr_host (s : State) (p : Page) (off : Nat) (v : Reg32) : (s.wr p off v).host = s.host := rfl
@[simp] theorem State.wr_pins (s : State) (p : Page) (off : Nat) (v : Reg32) : (s.wr p off v).pins = s.pins := rfl
@[simp] theorem State.wr_journal (s : State) (p : Page) (off : Nat) (v : Reg32) : (s.wr p off v).journal = s.journal := rfl
@[simp] theorem State.wr_ledger (s : State) (p : Page) (off : Nat) (v : Reg32) : (s.wr p off v).ledger = s.ledger := rfl
@[simp] theorem State.wr_pllLoss (s : State) (p : Page) (off : Nat) (v : Reg32) : (s.wr p off v).pllLoss = s.pllLoss := rfl
@[simp] theorem State.wr_thresh (s : State) (p : Page) (off : Nat) (v : Reg32) : (s.wr p off v).thresh = s.thresh := rfl
@[simp] theorem State.wr_mgmt (s : State) (p : Page) (off : Nat) (v : Reg32) : (s.wr p off v).mgmt = s.mgmt := rfl
@[simp] theorem State.wr_out (s : State) (p : Page) (off : Nat) (v : Reg32) : (s.wr p off v).out = s.out := rfl
@[simp] theorem State.wr_fresh (s : State) (p : Page) (off : Nat) (v : Reg32) : (s.wr p off v).fresh = s.fresh := rfl

/-! ### setThread -/

@[simp] theorem State.setThread_pending (s : State) (w : Who) (t : Thread) : (s.setThread w t).pending = s.pending := rfl
@[simp] theorem State.setThread_time (s : State) (w : Who) (t : Thread) : (s.setThread w t).time = s.time := rfl
@[simp] theorem State.setThread_eng (s : State) (w : Who) (t : Thread) : (s.setThread w t).eng = s.eng := rfl
@[simp] theorem State.setThread_regs (s : State) (w : Who) (t : Thread) : (s.setThread w t).regs = s.regs := rfl
@[simp] theorem State.setThread_mem (s : State) (w : Who) (t : Thread) : (s.setThread w t).mem = s.mem := rfl
@[simp] theorem State.setThread_v0 (s : State) (w : Who) (t : Thread) : (s.setThread w t).v0 = s.v0 := rfl
@[simp] theorem State.setThread_badLines (s : State) (w : Who) (t : Thread) : (s.setThread w t).badLines = s.badLines := rfl
@[simp] theorem State.setThread_macErr (s : State) (w : Who) (t : Thread) : (s.setThread w t).macErr = s.macErr := rfl
@[simp] theorem State.setThread_remote (s : State) (w : Who) (t : Thread) : (s.setThread w t).remote = s.remote := rfl
@[simp] theorem State.setThread_run (s : State) (w : Who) (t : Thread) : (s.setThread w t).run = s.run := rfl
@[simp] theorem State.setThread_meters (s : State) (w : Who) (t : Thread) : (s.setThread w t).meters = s.meters := rfl
@[simp] theorem State.setThread_cmdNum (s : State) (w : Who) (t : Thread) : (s.setThread w t).cmdNum = s.cmdNum := rfl
@[simp] theorem State.setThread_hbm (s : State) (w : Who) (t : Thread) : (s.setThread w t).hbm = s.hbm := rfl
@[simp] theorem State.setThread_regions (s : State) (w : Who) (t : Thread) : (s.setThread w t).regions = s.regions := rfl
@[simp] theorem State.setThread_scrubs (s : State) (w : Who) (t : Thread) : (s.setThread w t).scrubs = s.scrubs := rfl
@[simp] theorem State.setThread_frozen (s : State) (w : Who) (t : Thread) : (s.setThread w t).frozen = s.frozen := rfl
@[simp] theorem State.setThread_cores (s : State) (w : Who) (t : Thread) : (s.setThread w t).cores = s.cores := rfl
@[simp] theorem State.setThread_clusters (s : State) (w : Who) (t : Thread) : (s.setThread w t).clusters = s.clusters := rfl
@[simp] theorem State.setThread_dies (s : State) (w : Who) (t : Thread) : (s.setThread w t).dies = s.dies := rfl
@[simp] theorem State.setThread_parts (s : State) (w : Who) (t : Thread) : (s.setThread w t).parts = s.parts := rfl
@[simp] theorem State.setThread_keys (s : State) (w : Who) (t : Thread) : (s.setThread w t).keys = s.keys := rfl
@[simp] theorem State.setThread_nodes (s : State) (w : Who) (t : Thread) : (s.setThread w t).nodes = s.nodes := rfl
@[simp] theorem State.setThread_rtp (s : State) (w : Who) (t : Thread) : (s.setThread w t).rtp = s.rtp := rfl
@[simp] theorem State.setThread_fuses (s : State) (w : Who) (t : Thread) : (s.setThread w t).fuses = s.fuses := rfl
@[simp] theorem State.setThread_flash (s : State) (w : Who) (t : Thread) : (s.setThread w t).flash = s.flash := rfl
@[simp] theorem State.setThread_spares (s : State) (w : Who) (t : Thread) : (s.setThread w t).spares = s.spares := rfl
@[simp] theorem State.setThread_seed (s : State) (w : Who) (t : Thread) : (s.setThread w t).seed = s.seed := rfl
@[simp] theorem State.setThread_start (s : State) (w : Who) (t : Thread) : (s.setThread w t).start = s.start := rfl
@[simp] theorem State.setThread_evc (s : State) (w : Who) (t : Thread) : (s.setThread w t).evc = s.evc := rfl
@[simp] theorem State.setThread_host (s : State) (w : Who) (t : Thread) : (s.setThread w t).host = s.host := rfl
@[simp] theorem State.setThread_pins (s : State) (w : Who) (t : Thread) : (s.setThread w t).pins = s.pins := rfl
@[simp] theorem State.setThread_journal (s : State) (w : Who) (t : Thread) : (s.setThread w t).journal = s.journal := rfl
@[simp] theorem State.setThread_ledger (s : State) (w : Who) (t : Thread) : (s.setThread w t).ledger = s.ledger := rfl
@[simp] theorem State.setThread_pllLoss (s : State) (w : Who) (t : Thread) : (s.setThread w t).pllLoss = s.pllLoss := rfl
@[simp] theorem State.setThread_thresh (s : State) (w : Who) (t : Thread) : (s.setThread w t).thresh = s.thresh := rfl
@[simp] theorem State.setThread_mgmt (s : State) (w : Who) (t : Thread) : (s.setThread w t).mgmt = s.mgmt := rfl
@[simp] theorem State.setThread_out (s : State) (w : Who) (t : Thread) : (s.setThread w t).out = s.out := rfl
@[simp] theorem State.setThread_fresh (s : State) (w : Who) (t : Thread) : (s.setThread w t).fresh = s.fresh := rfl

/-! ### setCore -/

@[simp] theorem State.setCore_pending (s : State) (k : Nat) (c : CoreSt) : (s.setCore k c).pending = s.pending := rfl
@[simp] theorem State.setCore_time (s : State) (k : Nat) (c : CoreSt) : (s.setCore k c).time = s.time := rfl
@[simp] theorem State.setCore_eng (s : State) (k : Nat) (c : CoreSt) : (s.setCore k c).eng = s.eng := rfl
@[simp] theorem State.setCore_regs (s : State) (k : Nat) (c : CoreSt) : (s.setCore k c).regs = s.regs := rfl
@[simp] theorem State.setCore_mem (s : State) (k : Nat) (c : CoreSt) : (s.setCore k c).mem = s.mem := rfl
@[simp] theorem State.setCore_v0 (s : State) (k : Nat) (c : CoreSt) : (s.setCore k c).v0 = s.v0 := rfl
@[simp] theorem State.setCore_badLines (s : State) (k : Nat) (c : CoreSt) : (s.setCore k c).badLines = s.badLines := rfl
@[simp] theorem State.setCore_macErr (s : State) (k : Nat) (c : CoreSt) : (s.setCore k c).macErr = s.macErr := rfl
@[simp] theorem State.setCore_remote (s : State) (k : Nat) (c : CoreSt) : (s.setCore k c).remote = s.remote := rfl
@[simp] theorem State.setCore_run (s : State) (k : Nat) (c : CoreSt) : (s.setCore k c).run = s.run := rfl
@[simp] theorem State.setCore_meters (s : State) (k : Nat) (c : CoreSt) : (s.setCore k c).meters = s.meters := rfl
@[simp] theorem State.setCore_cmdNum (s : State) (k : Nat) (c : CoreSt) : (s.setCore k c).cmdNum = s.cmdNum := rfl
@[simp] theorem State.setCore_hbm (s : State) (k : Nat) (c : CoreSt) : (s.setCore k c).hbm = s.hbm := rfl
@[simp] theorem State.setCore_regions (s : State) (k : Nat) (c : CoreSt) : (s.setCore k c).regions = s.regions := rfl
@[simp] theorem State.setCore_scrubs (s : State) (k : Nat) (c : CoreSt) : (s.setCore k c).scrubs = s.scrubs := rfl
@[simp] theorem State.setCore_frozen (s : State) (k : Nat) (c : CoreSt) : (s.setCore k c).frozen = s.frozen := rfl
@[simp] theorem State.setCore_threads (s : State) (k : Nat) (c : CoreSt) : (s.setCore k c).threads = s.threads := rfl
@[simp] theorem State.setCore_clusters (s : State) (k : Nat) (c : CoreSt) : (s.setCore k c).clusters = s.clusters := rfl
@[simp] theorem State.setCore_dies (s : State) (k : Nat) (c : CoreSt) : (s.setCore k c).dies = s.dies := rfl
@[simp] theorem State.setCore_parts (s : State) (k : Nat) (c : CoreSt) : (s.setCore k c).parts = s.parts := rfl
@[simp] theorem State.setCore_keys (s : State) (k : Nat) (c : CoreSt) : (s.setCore k c).keys = s.keys := rfl
@[simp] theorem State.setCore_nodes (s : State) (k : Nat) (c : CoreSt) : (s.setCore k c).nodes = s.nodes := rfl
@[simp] theorem State.setCore_rtp (s : State) (k : Nat) (c : CoreSt) : (s.setCore k c).rtp = s.rtp := rfl
@[simp] theorem State.setCore_fuses (s : State) (k : Nat) (c : CoreSt) : (s.setCore k c).fuses = s.fuses := rfl
@[simp] theorem State.setCore_flash (s : State) (k : Nat) (c : CoreSt) : (s.setCore k c).flash = s.flash := rfl
@[simp] theorem State.setCore_spares (s : State) (k : Nat) (c : CoreSt) : (s.setCore k c).spares = s.spares := rfl
@[simp] theorem State.setCore_seed (s : State) (k : Nat) (c : CoreSt) : (s.setCore k c).seed = s.seed := rfl
@[simp] theorem State.setCore_start (s : State) (k : Nat) (c : CoreSt) : (s.setCore k c).start = s.start := rfl
@[simp] theorem State.setCore_evc (s : State) (k : Nat) (c : CoreSt) : (s.setCore k c).evc = s.evc := rfl
@[simp] theorem State.setCore_host (s : State) (k : Nat) (c : CoreSt) : (s.setCore k c).host = s.host := rfl
@[simp] theorem State.setCore_pins (s : State) (k : Nat) (c : CoreSt) : (s.setCore k c).pins = s.pins := rfl
@[simp] theorem State.setCore_journal (s : State) (k : Nat) (c : CoreSt) : (s.setCore k c).journal = s.journal := rfl
@[simp] theorem State.setCore_ledger (s : State) (k : Nat) (c : CoreSt) : (s.setCore k c).ledger = s.ledger := rfl
@[simp] theorem State.setCore_pllLoss (s : State) (k : Nat) (c : CoreSt) : (s.setCore k c).pllLoss = s.pllLoss := rfl
@[simp] theorem State.setCore_thresh (s : State) (k : Nat) (c : CoreSt) : (s.setCore k c).thresh = s.thresh := rfl
@[simp] theorem State.setCore_mgmt (s : State) (k : Nat) (c : CoreSt) : (s.setCore k c).mgmt = s.mgmt := rfl
@[simp] theorem State.setCore_out (s : State) (k : Nat) (c : CoreSt) : (s.setCore k c).out = s.out := rfl
@[simp] theorem State.setCore_fresh (s : State) (k : Nat) (c : CoreSt) : (s.setCore k c).fresh = s.fresh := rfl

/-! ### setCluster -/

@[simp] theorem State.setCluster_pending (s : State) (c : Nat) (x : ClusterSt) : (s.setCluster c x).pending = s.pending := rfl
@[simp] theorem State.setCluster_time (s : State) (c : Nat) (x : ClusterSt) : (s.setCluster c x).time = s.time := rfl
@[simp] theorem State.setCluster_eng (s : State) (c : Nat) (x : ClusterSt) : (s.setCluster c x).eng = s.eng := rfl
@[simp] theorem State.setCluster_regs (s : State) (c : Nat) (x : ClusterSt) : (s.setCluster c x).regs = s.regs := rfl
@[simp] theorem State.setCluster_mem (s : State) (c : Nat) (x : ClusterSt) : (s.setCluster c x).mem = s.mem := rfl
@[simp] theorem State.setCluster_v0 (s : State) (c : Nat) (x : ClusterSt) : (s.setCluster c x).v0 = s.v0 := rfl
@[simp] theorem State.setCluster_badLines (s : State) (c : Nat) (x : ClusterSt) : (s.setCluster c x).badLines = s.badLines := rfl
@[simp] theorem State.setCluster_macErr (s : State) (c : Nat) (x : ClusterSt) : (s.setCluster c x).macErr = s.macErr := rfl
@[simp] theorem State.setCluster_remote (s : State) (c : Nat) (x : ClusterSt) : (s.setCluster c x).remote = s.remote := rfl
@[simp] theorem State.setCluster_run (s : State) (c : Nat) (x : ClusterSt) : (s.setCluster c x).run = s.run := rfl
@[simp] theorem State.setCluster_meters (s : State) (c : Nat) (x : ClusterSt) : (s.setCluster c x).meters = s.meters := rfl
@[simp] theorem State.setCluster_cmdNum (s : State) (c : Nat) (x : ClusterSt) : (s.setCluster c x).cmdNum = s.cmdNum := rfl
@[simp] theorem State.setCluster_hbm (s : State) (c : Nat) (x : ClusterSt) : (s.setCluster c x).hbm = s.hbm := rfl
@[simp] theorem State.setCluster_regions (s : State) (c : Nat) (x : ClusterSt) : (s.setCluster c x).regions = s.regions := rfl
@[simp] theorem State.setCluster_scrubs (s : State) (c : Nat) (x : ClusterSt) : (s.setCluster c x).scrubs = s.scrubs := rfl
@[simp] theorem State.setCluster_frozen (s : State) (c : Nat) (x : ClusterSt) : (s.setCluster c x).frozen = s.frozen := rfl
@[simp] theorem State.setCluster_threads (s : State) (c : Nat) (x : ClusterSt) : (s.setCluster c x).threads = s.threads := rfl
@[simp] theorem State.setCluster_cores (s : State) (c : Nat) (x : ClusterSt) : (s.setCluster c x).cores = s.cores := rfl
@[simp] theorem State.setCluster_dies (s : State) (c : Nat) (x : ClusterSt) : (s.setCluster c x).dies = s.dies := rfl
@[simp] theorem State.setCluster_parts (s : State) (c : Nat) (x : ClusterSt) : (s.setCluster c x).parts = s.parts := rfl
@[simp] theorem State.setCluster_keys (s : State) (c : Nat) (x : ClusterSt) : (s.setCluster c x).keys = s.keys := rfl
@[simp] theorem State.setCluster_nodes (s : State) (c : Nat) (x : ClusterSt) : (s.setCluster c x).nodes = s.nodes := rfl
@[simp] theorem State.setCluster_rtp (s : State) (c : Nat) (x : ClusterSt) : (s.setCluster c x).rtp = s.rtp := rfl
@[simp] theorem State.setCluster_fuses (s : State) (c : Nat) (x : ClusterSt) : (s.setCluster c x).fuses = s.fuses := rfl
@[simp] theorem State.setCluster_flash (s : State) (c : Nat) (x : ClusterSt) : (s.setCluster c x).flash = s.flash := rfl
@[simp] theorem State.setCluster_spares (s : State) (c : Nat) (x : ClusterSt) : (s.setCluster c x).spares = s.spares := rfl
@[simp] theorem State.setCluster_seed (s : State) (c : Nat) (x : ClusterSt) : (s.setCluster c x).seed = s.seed := rfl
@[simp] theorem State.setCluster_start (s : State) (c : Nat) (x : ClusterSt) : (s.setCluster c x).start = s.start := rfl
@[simp] theorem State.setCluster_evc (s : State) (c : Nat) (x : ClusterSt) : (s.setCluster c x).evc = s.evc := rfl
@[simp] theorem State.setCluster_host (s : State) (c : Nat) (x : ClusterSt) : (s.setCluster c x).host = s.host := rfl
@[simp] theorem State.setCluster_pins (s : State) (c : Nat) (x : ClusterSt) : (s.setCluster c x).pins = s.pins := rfl
@[simp] theorem State.setCluster_journal (s : State) (c : Nat) (x : ClusterSt) : (s.setCluster c x).journal = s.journal := rfl
@[simp] theorem State.setCluster_ledger (s : State) (c : Nat) (x : ClusterSt) : (s.setCluster c x).ledger = s.ledger := rfl
@[simp] theorem State.setCluster_pllLoss (s : State) (c : Nat) (x : ClusterSt) : (s.setCluster c x).pllLoss = s.pllLoss := rfl
@[simp] theorem State.setCluster_thresh (s : State) (c : Nat) (x : ClusterSt) : (s.setCluster c x).thresh = s.thresh := rfl
@[simp] theorem State.setCluster_mgmt (s : State) (c : Nat) (x : ClusterSt) : (s.setCluster c x).mgmt = s.mgmt := rfl
@[simp] theorem State.setCluster_out (s : State) (c : Nat) (x : ClusterSt) : (s.setCluster c x).out = s.out := rfl
@[simp] theorem State.setCluster_fresh (s : State) (c : Nat) (x : ClusterSt) : (s.setCluster c x).fresh = s.fresh := rfl

/-! ### setDie -/

@[simp] theorem State.setDie_pending (s : State) (d : Nat) (x : DieSt) : (s.setDie d x).pending = s.pending := rfl
@[simp] theorem State.setDie_time (s : State) (d : Nat) (x : DieSt) : (s.setDie d x).time = s.time := rfl
@[simp] theorem State.setDie_eng (s : State) (d : Nat) (x : DieSt) : (s.setDie d x).eng = s.eng := rfl
@[simp] theorem State.setDie_regs (s : State) (d : Nat) (x : DieSt) : (s.setDie d x).regs = s.regs := rfl
@[simp] theorem State.setDie_mem (s : State) (d : Nat) (x : DieSt) : (s.setDie d x).mem = s.mem := rfl
@[simp] theorem State.setDie_v0 (s : State) (d : Nat) (x : DieSt) : (s.setDie d x).v0 = s.v0 := rfl
@[simp] theorem State.setDie_badLines (s : State) (d : Nat) (x : DieSt) : (s.setDie d x).badLines = s.badLines := rfl
@[simp] theorem State.setDie_macErr (s : State) (d : Nat) (x : DieSt) : (s.setDie d x).macErr = s.macErr := rfl
@[simp] theorem State.setDie_remote (s : State) (d : Nat) (x : DieSt) : (s.setDie d x).remote = s.remote := rfl
@[simp] theorem State.setDie_run (s : State) (d : Nat) (x : DieSt) : (s.setDie d x).run = s.run := rfl
@[simp] theorem State.setDie_meters (s : State) (d : Nat) (x : DieSt) : (s.setDie d x).meters = s.meters := rfl
@[simp] theorem State.setDie_cmdNum (s : State) (d : Nat) (x : DieSt) : (s.setDie d x).cmdNum = s.cmdNum := rfl
@[simp] theorem State.setDie_hbm (s : State) (d : Nat) (x : DieSt) : (s.setDie d x).hbm = s.hbm := rfl
@[simp] theorem State.setDie_regions (s : State) (d : Nat) (x : DieSt) : (s.setDie d x).regions = s.regions := rfl
@[simp] theorem State.setDie_scrubs (s : State) (d : Nat) (x : DieSt) : (s.setDie d x).scrubs = s.scrubs := rfl
@[simp] theorem State.setDie_frozen (s : State) (d : Nat) (x : DieSt) : (s.setDie d x).frozen = s.frozen := rfl
@[simp] theorem State.setDie_threads (s : State) (d : Nat) (x : DieSt) : (s.setDie d x).threads = s.threads := rfl
@[simp] theorem State.setDie_cores (s : State) (d : Nat) (x : DieSt) : (s.setDie d x).cores = s.cores := rfl
@[simp] theorem State.setDie_clusters (s : State) (d : Nat) (x : DieSt) : (s.setDie d x).clusters = s.clusters := rfl
@[simp] theorem State.setDie_parts (s : State) (d : Nat) (x : DieSt) : (s.setDie d x).parts = s.parts := rfl
@[simp] theorem State.setDie_keys (s : State) (d : Nat) (x : DieSt) : (s.setDie d x).keys = s.keys := rfl
@[simp] theorem State.setDie_nodes (s : State) (d : Nat) (x : DieSt) : (s.setDie d x).nodes = s.nodes := rfl
@[simp] theorem State.setDie_rtp (s : State) (d : Nat) (x : DieSt) : (s.setDie d x).rtp = s.rtp := rfl
@[simp] theorem State.setDie_fuses (s : State) (d : Nat) (x : DieSt) : (s.setDie d x).fuses = s.fuses := rfl
@[simp] theorem State.setDie_flash (s : State) (d : Nat) (x : DieSt) : (s.setDie d x).flash = s.flash := rfl
@[simp] theorem State.setDie_spares (s : State) (d : Nat) (x : DieSt) : (s.setDie d x).spares = s.spares := rfl
@[simp] theorem State.setDie_seed (s : State) (d : Nat) (x : DieSt) : (s.setDie d x).seed = s.seed := rfl
@[simp] theorem State.setDie_start (s : State) (d : Nat) (x : DieSt) : (s.setDie d x).start = s.start := rfl
@[simp] theorem State.setDie_evc (s : State) (d : Nat) (x : DieSt) : (s.setDie d x).evc = s.evc := rfl
@[simp] theorem State.setDie_host (s : State) (d : Nat) (x : DieSt) : (s.setDie d x).host = s.host := rfl
@[simp] theorem State.setDie_pins (s : State) (d : Nat) (x : DieSt) : (s.setDie d x).pins = s.pins := rfl
@[simp] theorem State.setDie_journal (s : State) (d : Nat) (x : DieSt) : (s.setDie d x).journal = s.journal := rfl
@[simp] theorem State.setDie_ledger (s : State) (d : Nat) (x : DieSt) : (s.setDie d x).ledger = s.ledger := rfl
@[simp] theorem State.setDie_pllLoss (s : State) (d : Nat) (x : DieSt) : (s.setDie d x).pllLoss = s.pllLoss := rfl
@[simp] theorem State.setDie_thresh (s : State) (d : Nat) (x : DieSt) : (s.setDie d x).thresh = s.thresh := rfl
@[simp] theorem State.setDie_mgmt (s : State) (d : Nat) (x : DieSt) : (s.setDie d x).mgmt = s.mgmt := rfl
@[simp] theorem State.setDie_out (s : State) (d : Nat) (x : DieSt) : (s.setDie d x).out = s.out := rfl
@[simp] theorem State.setDie_fresh (s : State) (d : Nat) (x : DieSt) : (s.setDie d x).fresh = s.fresh := rfl

/-! ### setPart -/

@[simp] theorem State.setPart_pending (s : State) (p : BitVec 5) (x : Part) : (s.setPart p x).pending = s.pending := rfl
@[simp] theorem State.setPart_time (s : State) (p : BitVec 5) (x : Part) : (s.setPart p x).time = s.time := rfl
@[simp] theorem State.setPart_eng (s : State) (p : BitVec 5) (x : Part) : (s.setPart p x).eng = s.eng := rfl
@[simp] theorem State.setPart_regs (s : State) (p : BitVec 5) (x : Part) : (s.setPart p x).regs = s.regs := rfl
@[simp] theorem State.setPart_mem (s : State) (p : BitVec 5) (x : Part) : (s.setPart p x).mem = s.mem := rfl
@[simp] theorem State.setPart_v0 (s : State) (p : BitVec 5) (x : Part) : (s.setPart p x).v0 = s.v0 := rfl
@[simp] theorem State.setPart_badLines (s : State) (p : BitVec 5) (x : Part) : (s.setPart p x).badLines = s.badLines := rfl
@[simp] theorem State.setPart_macErr (s : State) (p : BitVec 5) (x : Part) : (s.setPart p x).macErr = s.macErr := rfl
@[simp] theorem State.setPart_remote (s : State) (p : BitVec 5) (x : Part) : (s.setPart p x).remote = s.remote := rfl
@[simp] theorem State.setPart_run (s : State) (p : BitVec 5) (x : Part) : (s.setPart p x).run = s.run := rfl
@[simp] theorem State.setPart_meters (s : State) (p : BitVec 5) (x : Part) : (s.setPart p x).meters = s.meters := rfl
@[simp] theorem State.setPart_cmdNum (s : State) (p : BitVec 5) (x : Part) : (s.setPart p x).cmdNum = s.cmdNum := rfl
@[simp] theorem State.setPart_hbm (s : State) (p : BitVec 5) (x : Part) : (s.setPart p x).hbm = s.hbm := rfl
@[simp] theorem State.setPart_regions (s : State) (p : BitVec 5) (x : Part) : (s.setPart p x).regions = s.regions := rfl
@[simp] theorem State.setPart_scrubs (s : State) (p : BitVec 5) (x : Part) : (s.setPart p x).scrubs = s.scrubs := rfl
@[simp] theorem State.setPart_frozen (s : State) (p : BitVec 5) (x : Part) : (s.setPart p x).frozen = s.frozen := rfl
@[simp] theorem State.setPart_threads (s : State) (p : BitVec 5) (x : Part) : (s.setPart p x).threads = s.threads := rfl
@[simp] theorem State.setPart_cores (s : State) (p : BitVec 5) (x : Part) : (s.setPart p x).cores = s.cores := rfl
@[simp] theorem State.setPart_clusters (s : State) (p : BitVec 5) (x : Part) : (s.setPart p x).clusters = s.clusters := rfl
@[simp] theorem State.setPart_dies (s : State) (p : BitVec 5) (x : Part) : (s.setPart p x).dies = s.dies := rfl
@[simp] theorem State.setPart_keys (s : State) (p : BitVec 5) (x : Part) : (s.setPart p x).keys = s.keys := rfl
@[simp] theorem State.setPart_nodes (s : State) (p : BitVec 5) (x : Part) : (s.setPart p x).nodes = s.nodes := rfl
@[simp] theorem State.setPart_rtp (s : State) (p : BitVec 5) (x : Part) : (s.setPart p x).rtp = s.rtp := rfl
@[simp] theorem State.setPart_fuses (s : State) (p : BitVec 5) (x : Part) : (s.setPart p x).fuses = s.fuses := rfl
@[simp] theorem State.setPart_flash (s : State) (p : BitVec 5) (x : Part) : (s.setPart p x).flash = s.flash := rfl
@[simp] theorem State.setPart_spares (s : State) (p : BitVec 5) (x : Part) : (s.setPart p x).spares = s.spares := rfl
@[simp] theorem State.setPart_seed (s : State) (p : BitVec 5) (x : Part) : (s.setPart p x).seed = s.seed := rfl
@[simp] theorem State.setPart_start (s : State) (p : BitVec 5) (x : Part) : (s.setPart p x).start = s.start := rfl
@[simp] theorem State.setPart_evc (s : State) (p : BitVec 5) (x : Part) : (s.setPart p x).evc = s.evc := rfl
@[simp] theorem State.setPart_host (s : State) (p : BitVec 5) (x : Part) : (s.setPart p x).host = s.host := rfl
@[simp] theorem State.setPart_pins (s : State) (p : BitVec 5) (x : Part) : (s.setPart p x).pins = s.pins := rfl
@[simp] theorem State.setPart_journal (s : State) (p : BitVec 5) (x : Part) : (s.setPart p x).journal = s.journal := rfl
@[simp] theorem State.setPart_ledger (s : State) (p : BitVec 5) (x : Part) : (s.setPart p x).ledger = s.ledger := rfl
@[simp] theorem State.setPart_pllLoss (s : State) (p : BitVec 5) (x : Part) : (s.setPart p x).pllLoss = s.pllLoss := rfl
@[simp] theorem State.setPart_thresh (s : State) (p : BitVec 5) (x : Part) : (s.setPart p x).thresh = s.thresh := rfl
@[simp] theorem State.setPart_mgmt (s : State) (p : BitVec 5) (x : Part) : (s.setPart p x).mgmt = s.mgmt := rfl
@[simp] theorem State.setPart_out (s : State) (p : BitVec 5) (x : Part) : (s.setPart p x).out = s.out := rfl
@[simp] theorem State.setPart_fresh (s : State) (p : BitVec 5) (x : Part) : (s.setPart p x).fresh = s.fresh := rfl

/-! ### setKey -/

@[simp] theorem State.setKey_pending (s : State) (n : BitVec 8) (x : KeySlot) : (s.setKey n x).pending = s.pending := rfl
@[simp] theorem State.setKey_time (s : State) (n : BitVec 8) (x : KeySlot) : (s.setKey n x).time = s.time := rfl
@[simp] theorem State.setKey_eng (s : State) (n : BitVec 8) (x : KeySlot) : (s.setKey n x).eng = s.eng := rfl
@[simp] theorem State.setKey_regs (s : State) (n : BitVec 8) (x : KeySlot) : (s.setKey n x).regs = s.regs := rfl
@[simp] theorem State.setKey_mem (s : State) (n : BitVec 8) (x : KeySlot) : (s.setKey n x).mem = s.mem := rfl
@[simp] theorem State.setKey_v0 (s : State) (n : BitVec 8) (x : KeySlot) : (s.setKey n x).v0 = s.v0 := rfl
@[simp] theorem State.setKey_badLines (s : State) (n : BitVec 8) (x : KeySlot) : (s.setKey n x).badLines = s.badLines := rfl
@[simp] theorem State.setKey_macErr (s : State) (n : BitVec 8) (x : KeySlot) : (s.setKey n x).macErr = s.macErr := rfl
@[simp] theorem State.setKey_remote (s : State) (n : BitVec 8) (x : KeySlot) : (s.setKey n x).remote = s.remote := rfl
@[simp] theorem State.setKey_run (s : State) (n : BitVec 8) (x : KeySlot) : (s.setKey n x).run = s.run := rfl
@[simp] theorem State.setKey_meters (s : State) (n : BitVec 8) (x : KeySlot) : (s.setKey n x).meters = s.meters := rfl
@[simp] theorem State.setKey_cmdNum (s : State) (n : BitVec 8) (x : KeySlot) : (s.setKey n x).cmdNum = s.cmdNum := rfl
@[simp] theorem State.setKey_hbm (s : State) (n : BitVec 8) (x : KeySlot) : (s.setKey n x).hbm = s.hbm := rfl
@[simp] theorem State.setKey_regions (s : State) (n : BitVec 8) (x : KeySlot) : (s.setKey n x).regions = s.regions := rfl
@[simp] theorem State.setKey_scrubs (s : State) (n : BitVec 8) (x : KeySlot) : (s.setKey n x).scrubs = s.scrubs := rfl
@[simp] theorem State.setKey_frozen (s : State) (n : BitVec 8) (x : KeySlot) : (s.setKey n x).frozen = s.frozen := rfl
@[simp] theorem State.setKey_threads (s : State) (n : BitVec 8) (x : KeySlot) : (s.setKey n x).threads = s.threads := rfl
@[simp] theorem State.setKey_cores (s : State) (n : BitVec 8) (x : KeySlot) : (s.setKey n x).cores = s.cores := rfl
@[simp] theorem State.setKey_clusters (s : State) (n : BitVec 8) (x : KeySlot) : (s.setKey n x).clusters = s.clusters := rfl
@[simp] theorem State.setKey_dies (s : State) (n : BitVec 8) (x : KeySlot) : (s.setKey n x).dies = s.dies := rfl
@[simp] theorem State.setKey_parts (s : State) (n : BitVec 8) (x : KeySlot) : (s.setKey n x).parts = s.parts := rfl
@[simp] theorem State.setKey_nodes (s : State) (n : BitVec 8) (x : KeySlot) : (s.setKey n x).nodes = s.nodes := rfl
@[simp] theorem State.setKey_rtp (s : State) (n : BitVec 8) (x : KeySlot) : (s.setKey n x).rtp = s.rtp := rfl
@[simp] theorem State.setKey_fuses (s : State) (n : BitVec 8) (x : KeySlot) : (s.setKey n x).fuses = s.fuses := rfl
@[simp] theorem State.setKey_flash (s : State) (n : BitVec 8) (x : KeySlot) : (s.setKey n x).flash = s.flash := rfl
@[simp] theorem State.setKey_spares (s : State) (n : BitVec 8) (x : KeySlot) : (s.setKey n x).spares = s.spares := rfl
@[simp] theorem State.setKey_seed (s : State) (n : BitVec 8) (x : KeySlot) : (s.setKey n x).seed = s.seed := rfl
@[simp] theorem State.setKey_start (s : State) (n : BitVec 8) (x : KeySlot) : (s.setKey n x).start = s.start := rfl
@[simp] theorem State.setKey_evc (s : State) (n : BitVec 8) (x : KeySlot) : (s.setKey n x).evc = s.evc := rfl
@[simp] theorem State.setKey_host (s : State) (n : BitVec 8) (x : KeySlot) : (s.setKey n x).host = s.host := rfl
@[simp] theorem State.setKey_pins (s : State) (n : BitVec 8) (x : KeySlot) : (s.setKey n x).pins = s.pins := rfl
@[simp] theorem State.setKey_journal (s : State) (n : BitVec 8) (x : KeySlot) : (s.setKey n x).journal = s.journal := rfl
@[simp] theorem State.setKey_ledger (s : State) (n : BitVec 8) (x : KeySlot) : (s.setKey n x).ledger = s.ledger := rfl
@[simp] theorem State.setKey_pllLoss (s : State) (n : BitVec 8) (x : KeySlot) : (s.setKey n x).pllLoss = s.pllLoss := rfl
@[simp] theorem State.setKey_thresh (s : State) (n : BitVec 8) (x : KeySlot) : (s.setKey n x).thresh = s.thresh := rfl
@[simp] theorem State.setKey_mgmt (s : State) (n : BitVec 8) (x : KeySlot) : (s.setKey n x).mgmt = s.mgmt := rfl
@[simp] theorem State.setKey_out (s : State) (n : BitVec 8) (x : KeySlot) : (s.setKey n x).out = s.out := rfl
@[simp] theorem State.setKey_fresh (s : State) (n : BitVec 8) (x : KeySlot) : (s.setKey n x).fresh = s.fresh := rfl

/-! ### setNode -/

@[simp] theorem State.setNode_pending (s : State) (n : Nat) (x : Option Node) : (s.setNode n x).pending = s.pending := rfl
@[simp] theorem State.setNode_time (s : State) (n : Nat) (x : Option Node) : (s.setNode n x).time = s.time := rfl
@[simp] theorem State.setNode_eng (s : State) (n : Nat) (x : Option Node) : (s.setNode n x).eng = s.eng := rfl
@[simp] theorem State.setNode_regs (s : State) (n : Nat) (x : Option Node) : (s.setNode n x).regs = s.regs := rfl
@[simp] theorem State.setNode_mem (s : State) (n : Nat) (x : Option Node) : (s.setNode n x).mem = s.mem := rfl
@[simp] theorem State.setNode_v0 (s : State) (n : Nat) (x : Option Node) : (s.setNode n x).v0 = s.v0 := rfl
@[simp] theorem State.setNode_badLines (s : State) (n : Nat) (x : Option Node) : (s.setNode n x).badLines = s.badLines := rfl
@[simp] theorem State.setNode_macErr (s : State) (n : Nat) (x : Option Node) : (s.setNode n x).macErr = s.macErr := rfl
@[simp] theorem State.setNode_remote (s : State) (n : Nat) (x : Option Node) : (s.setNode n x).remote = s.remote := rfl
@[simp] theorem State.setNode_run (s : State) (n : Nat) (x : Option Node) : (s.setNode n x).run = s.run := rfl
@[simp] theorem State.setNode_meters (s : State) (n : Nat) (x : Option Node) : (s.setNode n x).meters = s.meters := rfl
@[simp] theorem State.setNode_cmdNum (s : State) (n : Nat) (x : Option Node) : (s.setNode n x).cmdNum = s.cmdNum := rfl
@[simp] theorem State.setNode_hbm (s : State) (n : Nat) (x : Option Node) : (s.setNode n x).hbm = s.hbm := rfl
@[simp] theorem State.setNode_regions (s : State) (n : Nat) (x : Option Node) : (s.setNode n x).regions = s.regions := rfl
@[simp] theorem State.setNode_scrubs (s : State) (n : Nat) (x : Option Node) : (s.setNode n x).scrubs = s.scrubs := rfl
@[simp] theorem State.setNode_frozen (s : State) (n : Nat) (x : Option Node) : (s.setNode n x).frozen = s.frozen := rfl
@[simp] theorem State.setNode_threads (s : State) (n : Nat) (x : Option Node) : (s.setNode n x).threads = s.threads := rfl
@[simp] theorem State.setNode_cores (s : State) (n : Nat) (x : Option Node) : (s.setNode n x).cores = s.cores := rfl
@[simp] theorem State.setNode_clusters (s : State) (n : Nat) (x : Option Node) : (s.setNode n x).clusters = s.clusters := rfl
@[simp] theorem State.setNode_dies (s : State) (n : Nat) (x : Option Node) : (s.setNode n x).dies = s.dies := rfl
@[simp] theorem State.setNode_parts (s : State) (n : Nat) (x : Option Node) : (s.setNode n x).parts = s.parts := rfl
@[simp] theorem State.setNode_keys (s : State) (n : Nat) (x : Option Node) : (s.setNode n x).keys = s.keys := rfl
@[simp] theorem State.setNode_rtp (s : State) (n : Nat) (x : Option Node) : (s.setNode n x).rtp = s.rtp := rfl
@[simp] theorem State.setNode_fuses (s : State) (n : Nat) (x : Option Node) : (s.setNode n x).fuses = s.fuses := rfl
@[simp] theorem State.setNode_flash (s : State) (n : Nat) (x : Option Node) : (s.setNode n x).flash = s.flash := rfl
@[simp] theorem State.setNode_spares (s : State) (n : Nat) (x : Option Node) : (s.setNode n x).spares = s.spares := rfl
@[simp] theorem State.setNode_seed (s : State) (n : Nat) (x : Option Node) : (s.setNode n x).seed = s.seed := rfl
@[simp] theorem State.setNode_start (s : State) (n : Nat) (x : Option Node) : (s.setNode n x).start = s.start := rfl
@[simp] theorem State.setNode_evc (s : State) (n : Nat) (x : Option Node) : (s.setNode n x).evc = s.evc := rfl
@[simp] theorem State.setNode_host (s : State) (n : Nat) (x : Option Node) : (s.setNode n x).host = s.host := rfl
@[simp] theorem State.setNode_pins (s : State) (n : Nat) (x : Option Node) : (s.setNode n x).pins = s.pins := rfl
@[simp] theorem State.setNode_journal (s : State) (n : Nat) (x : Option Node) : (s.setNode n x).journal = s.journal := rfl
@[simp] theorem State.setNode_ledger (s : State) (n : Nat) (x : Option Node) : (s.setNode n x).ledger = s.ledger := rfl
@[simp] theorem State.setNode_pllLoss (s : State) (n : Nat) (x : Option Node) : (s.setNode n x).pllLoss = s.pllLoss := rfl
@[simp] theorem State.setNode_thresh (s : State) (n : Nat) (x : Option Node) : (s.setNode n x).thresh = s.thresh := rfl
@[simp] theorem State.setNode_mgmt (s : State) (n : Nat) (x : Option Node) : (s.setNode n x).mgmt = s.mgmt := rfl
@[simp] theorem State.setNode_out (s : State) (n : Nat) (x : Option Node) : (s.setNode n x).out = s.out := rfl
@[simp] theorem State.setNode_fresh (s : State) (n : Nat) (x : Option Node) : (s.setNode n x).fresh = s.fresh := rfl

/-! ### setStack -/

@[simp] theorem State.setStack_pending (s : State) (n : Nat) (x : StackSt) : (s.setStack n x).pending = s.pending := rfl
@[simp] theorem State.setStack_time (s : State) (n : Nat) (x : StackSt) : (s.setStack n x).time = s.time := rfl
@[simp] theorem State.setStack_eng (s : State) (n : Nat) (x : StackSt) : (s.setStack n x).eng = s.eng := rfl
@[simp] theorem State.setStack_regs (s : State) (n : Nat) (x : StackSt) : (s.setStack n x).regs = s.regs := rfl
@[simp] theorem State.setStack_mem (s : State) (n : Nat) (x : StackSt) : (s.setStack n x).mem = s.mem := rfl
@[simp] theorem State.setStack_v0 (s : State) (n : Nat) (x : StackSt) : (s.setStack n x).v0 = s.v0 := rfl
@[simp] theorem State.setStack_badLines (s : State) (n : Nat) (x : StackSt) : (s.setStack n x).badLines = s.badLines := rfl
@[simp] theorem State.setStack_macErr (s : State) (n : Nat) (x : StackSt) : (s.setStack n x).macErr = s.macErr := rfl
@[simp] theorem State.setStack_remote (s : State) (n : Nat) (x : StackSt) : (s.setStack n x).remote = s.remote := rfl
@[simp] theorem State.setStack_run (s : State) (n : Nat) (x : StackSt) : (s.setStack n x).run = s.run := rfl
@[simp] theorem State.setStack_meters (s : State) (n : Nat) (x : StackSt) : (s.setStack n x).meters = s.meters := rfl
@[simp] theorem State.setStack_cmdNum (s : State) (n : Nat) (x : StackSt) : (s.setStack n x).cmdNum = s.cmdNum := rfl
@[simp] theorem State.setStack_regions (s : State) (n : Nat) (x : StackSt) : (s.setStack n x).regions = s.regions := rfl
@[simp] theorem State.setStack_scrubs (s : State) (n : Nat) (x : StackSt) : (s.setStack n x).scrubs = s.scrubs := rfl
@[simp] theorem State.setStack_frozen (s : State) (n : Nat) (x : StackSt) : (s.setStack n x).frozen = s.frozen := rfl
@[simp] theorem State.setStack_threads (s : State) (n : Nat) (x : StackSt) : (s.setStack n x).threads = s.threads := rfl
@[simp] theorem State.setStack_cores (s : State) (n : Nat) (x : StackSt) : (s.setStack n x).cores = s.cores := rfl
@[simp] theorem State.setStack_clusters (s : State) (n : Nat) (x : StackSt) : (s.setStack n x).clusters = s.clusters := rfl
@[simp] theorem State.setStack_dies (s : State) (n : Nat) (x : StackSt) : (s.setStack n x).dies = s.dies := rfl
@[simp] theorem State.setStack_parts (s : State) (n : Nat) (x : StackSt) : (s.setStack n x).parts = s.parts := rfl
@[simp] theorem State.setStack_keys (s : State) (n : Nat) (x : StackSt) : (s.setStack n x).keys = s.keys := rfl
@[simp] theorem State.setStack_nodes (s : State) (n : Nat) (x : StackSt) : (s.setStack n x).nodes = s.nodes := rfl
@[simp] theorem State.setStack_rtp (s : State) (n : Nat) (x : StackSt) : (s.setStack n x).rtp = s.rtp := rfl
@[simp] theorem State.setStack_fuses (s : State) (n : Nat) (x : StackSt) : (s.setStack n x).fuses = s.fuses := rfl
@[simp] theorem State.setStack_flash (s : State) (n : Nat) (x : StackSt) : (s.setStack n x).flash = s.flash := rfl
@[simp] theorem State.setStack_spares (s : State) (n : Nat) (x : StackSt) : (s.setStack n x).spares = s.spares := rfl
@[simp] theorem State.setStack_seed (s : State) (n : Nat) (x : StackSt) : (s.setStack n x).seed = s.seed := rfl
@[simp] theorem State.setStack_start (s : State) (n : Nat) (x : StackSt) : (s.setStack n x).start = s.start := rfl
@[simp] theorem State.setStack_evc (s : State) (n : Nat) (x : StackSt) : (s.setStack n x).evc = s.evc := rfl
@[simp] theorem State.setStack_host (s : State) (n : Nat) (x : StackSt) : (s.setStack n x).host = s.host := rfl
@[simp] theorem State.setStack_pins (s : State) (n : Nat) (x : StackSt) : (s.setStack n x).pins = s.pins := rfl
@[simp] theorem State.setStack_journal (s : State) (n : Nat) (x : StackSt) : (s.setStack n x).journal = s.journal := rfl
@[simp] theorem State.setStack_ledger (s : State) (n : Nat) (x : StackSt) : (s.setStack n x).ledger = s.ledger := rfl
@[simp] theorem State.setStack_pllLoss (s : State) (n : Nat) (x : StackSt) : (s.setStack n x).pllLoss = s.pllLoss := rfl
@[simp] theorem State.setStack_thresh (s : State) (n : Nat) (x : StackSt) : (s.setStack n x).thresh = s.thresh := rfl
@[simp] theorem State.setStack_mgmt (s : State) (n : Nat) (x : StackSt) : (s.setStack n x).mgmt = s.mgmt := rfl
@[simp] theorem State.setStack_out (s : State) (n : Nat) (x : StackSt) : (s.setStack n x).out = s.out := rfl
@[simp] theorem State.setStack_fresh (s : State) (n : Nat) (x : StackSt) : (s.setStack n x).fresh = s.fresh := rfl

/-! ### setRegion -/

@[simp] theorem State.setRegion_pending (s : State) (r : Nat) (x : Option Region) : (s.setRegion r x).pending = s.pending := rfl
@[simp] theorem State.setRegion_time (s : State) (r : Nat) (x : Option Region) : (s.setRegion r x).time = s.time := rfl
@[simp] theorem State.setRegion_eng (s : State) (r : Nat) (x : Option Region) : (s.setRegion r x).eng = s.eng := rfl
@[simp] theorem State.setRegion_regs (s : State) (r : Nat) (x : Option Region) : (s.setRegion r x).regs = s.regs := rfl
@[simp] theorem State.setRegion_mem (s : State) (r : Nat) (x : Option Region) : (s.setRegion r x).mem = s.mem := rfl
@[simp] theorem State.setRegion_v0 (s : State) (r : Nat) (x : Option Region) : (s.setRegion r x).v0 = s.v0 := rfl
@[simp] theorem State.setRegion_badLines (s : State) (r : Nat) (x : Option Region) : (s.setRegion r x).badLines = s.badLines := rfl
@[simp] theorem State.setRegion_macErr (s : State) (r : Nat) (x : Option Region) : (s.setRegion r x).macErr = s.macErr := rfl
@[simp] theorem State.setRegion_remote (s : State) (r : Nat) (x : Option Region) : (s.setRegion r x).remote = s.remote := rfl
@[simp] theorem State.setRegion_run (s : State) (r : Nat) (x : Option Region) : (s.setRegion r x).run = s.run := rfl
@[simp] theorem State.setRegion_meters (s : State) (r : Nat) (x : Option Region) : (s.setRegion r x).meters = s.meters := rfl
@[simp] theorem State.setRegion_cmdNum (s : State) (r : Nat) (x : Option Region) : (s.setRegion r x).cmdNum = s.cmdNum := rfl
@[simp] theorem State.setRegion_hbm (s : State) (r : Nat) (x : Option Region) : (s.setRegion r x).hbm = s.hbm := rfl
@[simp] theorem State.setRegion_scrubs (s : State) (r : Nat) (x : Option Region) : (s.setRegion r x).scrubs = s.scrubs := rfl
@[simp] theorem State.setRegion_frozen (s : State) (r : Nat) (x : Option Region) : (s.setRegion r x).frozen = s.frozen := rfl
@[simp] theorem State.setRegion_threads (s : State) (r : Nat) (x : Option Region) : (s.setRegion r x).threads = s.threads := rfl
@[simp] theorem State.setRegion_cores (s : State) (r : Nat) (x : Option Region) : (s.setRegion r x).cores = s.cores := rfl
@[simp] theorem State.setRegion_clusters (s : State) (r : Nat) (x : Option Region) : (s.setRegion r x).clusters = s.clusters := rfl
@[simp] theorem State.setRegion_dies (s : State) (r : Nat) (x : Option Region) : (s.setRegion r x).dies = s.dies := rfl
@[simp] theorem State.setRegion_parts (s : State) (r : Nat) (x : Option Region) : (s.setRegion r x).parts = s.parts := rfl
@[simp] theorem State.setRegion_keys (s : State) (r : Nat) (x : Option Region) : (s.setRegion r x).keys = s.keys := rfl
@[simp] theorem State.setRegion_nodes (s : State) (r : Nat) (x : Option Region) : (s.setRegion r x).nodes = s.nodes := rfl
@[simp] theorem State.setRegion_rtp (s : State) (r : Nat) (x : Option Region) : (s.setRegion r x).rtp = s.rtp := rfl
@[simp] theorem State.setRegion_fuses (s : State) (r : Nat) (x : Option Region) : (s.setRegion r x).fuses = s.fuses := rfl
@[simp] theorem State.setRegion_flash (s : State) (r : Nat) (x : Option Region) : (s.setRegion r x).flash = s.flash := rfl
@[simp] theorem State.setRegion_spares (s : State) (r : Nat) (x : Option Region) : (s.setRegion r x).spares = s.spares := rfl
@[simp] theorem State.setRegion_seed (s : State) (r : Nat) (x : Option Region) : (s.setRegion r x).seed = s.seed := rfl
@[simp] theorem State.setRegion_start (s : State) (r : Nat) (x : Option Region) : (s.setRegion r x).start = s.start := rfl
@[simp] theorem State.setRegion_evc (s : State) (r : Nat) (x : Option Region) : (s.setRegion r x).evc = s.evc := rfl
@[simp] theorem State.setRegion_host (s : State) (r : Nat) (x : Option Region) : (s.setRegion r x).host = s.host := rfl
@[simp] theorem State.setRegion_pins (s : State) (r : Nat) (x : Option Region) : (s.setRegion r x).pins = s.pins := rfl
@[simp] theorem State.setRegion_journal (s : State) (r : Nat) (x : Option Region) : (s.setRegion r x).journal = s.journal := rfl
@[simp] theorem State.setRegion_ledger (s : State) (r : Nat) (x : Option Region) : (s.setRegion r x).ledger = s.ledger := rfl
@[simp] theorem State.setRegion_pllLoss (s : State) (r : Nat) (x : Option Region) : (s.setRegion r x).pllLoss = s.pllLoss := rfl
@[simp] theorem State.setRegion_thresh (s : State) (r : Nat) (x : Option Region) : (s.setRegion r x).thresh = s.thresh := rfl
@[simp] theorem State.setRegion_mgmt (s : State) (r : Nat) (x : Option Region) : (s.setRegion r x).mgmt = s.mgmt := rfl
@[simp] theorem State.setRegion_out (s : State) (r : Nat) (x : Option Region) : (s.setRegion r x).out = s.out := rfl
@[simp] theorem State.setRegion_fresh (s : State) (r : Nat) (x : Option Region) : (s.setRegion r x).fresh = s.fresh := rfl

/-! ### setVer0 -/

@[simp] theorem State.setVer0_pending (s : State) (k v : Nat) : (s.setVer0 k v).pending = s.pending := rfl
@[simp] theorem State.setVer0_time (s : State) (k v : Nat) : (s.setVer0 k v).time = s.time := rfl
@[simp] theorem State.setVer0_eng (s : State) (k v : Nat) : (s.setVer0 k v).eng = s.eng := rfl
@[simp] theorem State.setVer0_regs (s : State) (k v : Nat) : (s.setVer0 k v).regs = s.regs := rfl
@[simp] theorem State.setVer0_mem (s : State) (k v : Nat) : (s.setVer0 k v).mem = s.mem := rfl
@[simp] theorem State.setVer0_badLines (s : State) (k v : Nat) : (s.setVer0 k v).badLines = s.badLines := rfl
@[simp] theorem State.setVer0_macErr (s : State) (k v : Nat) : (s.setVer0 k v).macErr = s.macErr := rfl
@[simp] theorem State.setVer0_remote (s : State) (k v : Nat) : (s.setVer0 k v).remote = s.remote := rfl
@[simp] theorem State.setVer0_run (s : State) (k v : Nat) : (s.setVer0 k v).run = s.run := rfl
@[simp] theorem State.setVer0_meters (s : State) (k v : Nat) : (s.setVer0 k v).meters = s.meters := rfl
@[simp] theorem State.setVer0_cmdNum (s : State) (k v : Nat) : (s.setVer0 k v).cmdNum = s.cmdNum := rfl
@[simp] theorem State.setVer0_hbm (s : State) (k v : Nat) : (s.setVer0 k v).hbm = s.hbm := rfl
@[simp] theorem State.setVer0_regions (s : State) (k v : Nat) : (s.setVer0 k v).regions = s.regions := rfl
@[simp] theorem State.setVer0_scrubs (s : State) (k v : Nat) : (s.setVer0 k v).scrubs = s.scrubs := rfl
@[simp] theorem State.setVer0_frozen (s : State) (k v : Nat) : (s.setVer0 k v).frozen = s.frozen := rfl
@[simp] theorem State.setVer0_threads (s : State) (k v : Nat) : (s.setVer0 k v).threads = s.threads := rfl
@[simp] theorem State.setVer0_cores (s : State) (k v : Nat) : (s.setVer0 k v).cores = s.cores := rfl
@[simp] theorem State.setVer0_clusters (s : State) (k v : Nat) : (s.setVer0 k v).clusters = s.clusters := rfl
@[simp] theorem State.setVer0_dies (s : State) (k v : Nat) : (s.setVer0 k v).dies = s.dies := rfl
@[simp] theorem State.setVer0_parts (s : State) (k v : Nat) : (s.setVer0 k v).parts = s.parts := rfl
@[simp] theorem State.setVer0_keys (s : State) (k v : Nat) : (s.setVer0 k v).keys = s.keys := rfl
@[simp] theorem State.setVer0_nodes (s : State) (k v : Nat) : (s.setVer0 k v).nodes = s.nodes := rfl
@[simp] theorem State.setVer0_rtp (s : State) (k v : Nat) : (s.setVer0 k v).rtp = s.rtp := rfl
@[simp] theorem State.setVer0_fuses (s : State) (k v : Nat) : (s.setVer0 k v).fuses = s.fuses := rfl
@[simp] theorem State.setVer0_flash (s : State) (k v : Nat) : (s.setVer0 k v).flash = s.flash := rfl
@[simp] theorem State.setVer0_spares (s : State) (k v : Nat) : (s.setVer0 k v).spares = s.spares := rfl
@[simp] theorem State.setVer0_seed (s : State) (k v : Nat) : (s.setVer0 k v).seed = s.seed := rfl
@[simp] theorem State.setVer0_start (s : State) (k v : Nat) : (s.setVer0 k v).start = s.start := rfl
@[simp] theorem State.setVer0_evc (s : State) (k v : Nat) : (s.setVer0 k v).evc = s.evc := rfl
@[simp] theorem State.setVer0_host (s : State) (k v : Nat) : (s.setVer0 k v).host = s.host := rfl
@[simp] theorem State.setVer0_pins (s : State) (k v : Nat) : (s.setVer0 k v).pins = s.pins := rfl
@[simp] theorem State.setVer0_journal (s : State) (k v : Nat) : (s.setVer0 k v).journal = s.journal := rfl
@[simp] theorem State.setVer0_ledger (s : State) (k v : Nat) : (s.setVer0 k v).ledger = s.ledger := rfl
@[simp] theorem State.setVer0_pllLoss (s : State) (k v : Nat) : (s.setVer0 k v).pllLoss = s.pllLoss := rfl
@[simp] theorem State.setVer0_thresh (s : State) (k v : Nat) : (s.setVer0 k v).thresh = s.thresh := rfl
@[simp] theorem State.setVer0_mgmt (s : State) (k v : Nat) : (s.setVer0 k v).mgmt = s.mgmt := rfl
@[simp] theorem State.setVer0_out (s : State) (k v : Nat) : (s.setVer0 k v).out = s.out := rfl
@[simp] theorem State.setVer0_fresh (s : State) (k v : Nat) : (s.setVer0 k v).fresh = s.fresh := rfl

/-! ### putBytes -/

@[simp] theorem State.putBytes_pending (s : State) (a : Nat) (bs : List Byte) : (s.putBytes a bs).pending = s.pending := rfl
@[simp] theorem State.putBytes_time (s : State) (a : Nat) (bs : List Byte) : (s.putBytes a bs).time = s.time := rfl
@[simp] theorem State.putBytes_eng (s : State) (a : Nat) (bs : List Byte) : (s.putBytes a bs).eng = s.eng := rfl
@[simp] theorem State.putBytes_regs (s : State) (a : Nat) (bs : List Byte) : (s.putBytes a bs).regs = s.regs := rfl
@[simp] theorem State.putBytes_v0 (s : State) (a : Nat) (bs : List Byte) : (s.putBytes a bs).v0 = s.v0 := rfl
@[simp] theorem State.putBytes_badLines (s : State) (a : Nat) (bs : List Byte) : (s.putBytes a bs).badLines = s.badLines := rfl
@[simp] theorem State.putBytes_macErr (s : State) (a : Nat) (bs : List Byte) : (s.putBytes a bs).macErr = s.macErr := rfl
@[simp] theorem State.putBytes_remote (s : State) (a : Nat) (bs : List Byte) : (s.putBytes a bs).remote = s.remote := rfl
@[simp] theorem State.putBytes_run (s : State) (a : Nat) (bs : List Byte) : (s.putBytes a bs).run = s.run := rfl
@[simp] theorem State.putBytes_meters (s : State) (a : Nat) (bs : List Byte) : (s.putBytes a bs).meters = s.meters := rfl
@[simp] theorem State.putBytes_cmdNum (s : State) (a : Nat) (bs : List Byte) : (s.putBytes a bs).cmdNum = s.cmdNum := rfl
@[simp] theorem State.putBytes_hbm (s : State) (a : Nat) (bs : List Byte) : (s.putBytes a bs).hbm = s.hbm := rfl
@[simp] theorem State.putBytes_regions (s : State) (a : Nat) (bs : List Byte) : (s.putBytes a bs).regions = s.regions := rfl
@[simp] theorem State.putBytes_scrubs (s : State) (a : Nat) (bs : List Byte) : (s.putBytes a bs).scrubs = s.scrubs := rfl
@[simp] theorem State.putBytes_frozen (s : State) (a : Nat) (bs : List Byte) : (s.putBytes a bs).frozen = s.frozen := rfl
@[simp] theorem State.putBytes_threads (s : State) (a : Nat) (bs : List Byte) : (s.putBytes a bs).threads = s.threads := rfl
@[simp] theorem State.putBytes_cores (s : State) (a : Nat) (bs : List Byte) : (s.putBytes a bs).cores = s.cores := rfl
@[simp] theorem State.putBytes_clusters (s : State) (a : Nat) (bs : List Byte) : (s.putBytes a bs).clusters = s.clusters := rfl
@[simp] theorem State.putBytes_dies (s : State) (a : Nat) (bs : List Byte) : (s.putBytes a bs).dies = s.dies := rfl
@[simp] theorem State.putBytes_parts (s : State) (a : Nat) (bs : List Byte) : (s.putBytes a bs).parts = s.parts := rfl
@[simp] theorem State.putBytes_keys (s : State) (a : Nat) (bs : List Byte) : (s.putBytes a bs).keys = s.keys := rfl
@[simp] theorem State.putBytes_nodes (s : State) (a : Nat) (bs : List Byte) : (s.putBytes a bs).nodes = s.nodes := rfl
@[simp] theorem State.putBytes_rtp (s : State) (a : Nat) (bs : List Byte) : (s.putBytes a bs).rtp = s.rtp := rfl
@[simp] theorem State.putBytes_fuses (s : State) (a : Nat) (bs : List Byte) : (s.putBytes a bs).fuses = s.fuses := rfl
@[simp] theorem State.putBytes_flash (s : State) (a : Nat) (bs : List Byte) : (s.putBytes a bs).flash = s.flash := rfl
@[simp] theorem State.putBytes_spares (s : State) (a : Nat) (bs : List Byte) : (s.putBytes a bs).spares = s.spares := rfl
@[simp] theorem State.putBytes_seed (s : State) (a : Nat) (bs : List Byte) : (s.putBytes a bs).seed = s.seed := rfl
@[simp] theorem State.putBytes_start (s : State) (a : Nat) (bs : List Byte) : (s.putBytes a bs).start = s.start := rfl
@[simp] theorem State.putBytes_evc (s : State) (a : Nat) (bs : List Byte) : (s.putBytes a bs).evc = s.evc := rfl
@[simp] theorem State.putBytes_host (s : State) (a : Nat) (bs : List Byte) : (s.putBytes a bs).host = s.host := rfl
@[simp] theorem State.putBytes_pins (s : State) (a : Nat) (bs : List Byte) : (s.putBytes a bs).pins = s.pins := rfl
@[simp] theorem State.putBytes_journal (s : State) (a : Nat) (bs : List Byte) : (s.putBytes a bs).journal = s.journal := rfl
@[simp] theorem State.putBytes_ledger (s : State) (a : Nat) (bs : List Byte) : (s.putBytes a bs).ledger = s.ledger := rfl
@[simp] theorem State.putBytes_pllLoss (s : State) (a : Nat) (bs : List Byte) : (s.putBytes a bs).pllLoss = s.pllLoss := rfl
@[simp] theorem State.putBytes_thresh (s : State) (a : Nat) (bs : List Byte) : (s.putBytes a bs).thresh = s.thresh := rfl
@[simp] theorem State.putBytes_mgmt (s : State) (a : Nat) (bs : List Byte) : (s.putBytes a bs).mgmt = s.mgmt := rfl
@[simp] theorem State.putBytes_out (s : State) (a : Nat) (bs : List Byte) : (s.putBytes a bs).out = s.out := rfl
@[simp] theorem State.putBytes_fresh (s : State) (a : Nat) (bs : List Byte) : (s.putBytes a bs).fresh = s.fresh := rfl

/-! ### clearBytes -/

@[simp] theorem State.clearBytes_pending (s : State) (a n : Nat) : (s.clearBytes a n).pending = s.pending := rfl
@[simp] theorem State.clearBytes_time (s : State) (a n : Nat) : (s.clearBytes a n).time = s.time := rfl
@[simp] theorem State.clearBytes_eng (s : State) (a n : Nat) : (s.clearBytes a n).eng = s.eng := rfl
@[simp] theorem State.clearBytes_regs (s : State) (a n : Nat) : (s.clearBytes a n).regs = s.regs := rfl
@[simp] theorem State.clearBytes_v0 (s : State) (a n : Nat) : (s.clearBytes a n).v0 = s.v0 := rfl
@[simp] theorem State.clearBytes_badLines (s : State) (a n : Nat) : (s.clearBytes a n).badLines = s.badLines := rfl
@[simp] theorem State.clearBytes_macErr (s : State) (a n : Nat) : (s.clearBytes a n).macErr = s.macErr := rfl
@[simp] theorem State.clearBytes_remote (s : State) (a n : Nat) : (s.clearBytes a n).remote = s.remote := rfl
@[simp] theorem State.clearBytes_run (s : State) (a n : Nat) : (s.clearBytes a n).run = s.run := rfl
@[simp] theorem State.clearBytes_meters (s : State) (a n : Nat) : (s.clearBytes a n).meters = s.meters := rfl
@[simp] theorem State.clearBytes_cmdNum (s : State) (a n : Nat) : (s.clearBytes a n).cmdNum = s.cmdNum := rfl
@[simp] theorem State.clearBytes_hbm (s : State) (a n : Nat) : (s.clearBytes a n).hbm = s.hbm := rfl
@[simp] theorem State.clearBytes_regions (s : State) (a n : Nat) : (s.clearBytes a n).regions = s.regions := rfl
@[simp] theorem State.clearBytes_scrubs (s : State) (a n : Nat) : (s.clearBytes a n).scrubs = s.scrubs := rfl
@[simp] theorem State.clearBytes_frozen (s : State) (a n : Nat) : (s.clearBytes a n).frozen = s.frozen := rfl
@[simp] theorem State.clearBytes_threads (s : State) (a n : Nat) : (s.clearBytes a n).threads = s.threads := rfl
@[simp] theorem State.clearBytes_cores (s : State) (a n : Nat) : (s.clearBytes a n).cores = s.cores := rfl
@[simp] theorem State.clearBytes_clusters (s : State) (a n : Nat) : (s.clearBytes a n).clusters = s.clusters := rfl
@[simp] theorem State.clearBytes_dies (s : State) (a n : Nat) : (s.clearBytes a n).dies = s.dies := rfl
@[simp] theorem State.clearBytes_parts (s : State) (a n : Nat) : (s.clearBytes a n).parts = s.parts := rfl
@[simp] theorem State.clearBytes_keys (s : State) (a n : Nat) : (s.clearBytes a n).keys = s.keys := rfl
@[simp] theorem State.clearBytes_nodes (s : State) (a n : Nat) : (s.clearBytes a n).nodes = s.nodes := rfl
@[simp] theorem State.clearBytes_rtp (s : State) (a n : Nat) : (s.clearBytes a n).rtp = s.rtp := rfl
@[simp] theorem State.clearBytes_fuses (s : State) (a n : Nat) : (s.clearBytes a n).fuses = s.fuses := rfl
@[simp] theorem State.clearBytes_flash (s : State) (a n : Nat) : (s.clearBytes a n).flash = s.flash := rfl
@[simp] theorem State.clearBytes_spares (s : State) (a n : Nat) : (s.clearBytes a n).spares = s.spares := rfl
@[simp] theorem State.clearBytes_seed (s : State) (a n : Nat) : (s.clearBytes a n).seed = s.seed := rfl
@[simp] theorem State.clearBytes_start (s : State) (a n : Nat) : (s.clearBytes a n).start = s.start := rfl
@[simp] theorem State.clearBytes_evc (s : State) (a n : Nat) : (s.clearBytes a n).evc = s.evc := rfl
@[simp] theorem State.clearBytes_host (s : State) (a n : Nat) : (s.clearBytes a n).host = s.host := rfl
@[simp] theorem State.clearBytes_pins (s : State) (a n : Nat) : (s.clearBytes a n).pins = s.pins := rfl
@[simp] theorem State.clearBytes_journal (s : State) (a n : Nat) : (s.clearBytes a n).journal = s.journal := rfl
@[simp] theorem State.clearBytes_ledger (s : State) (a n : Nat) : (s.clearBytes a n).ledger = s.ledger := rfl
@[simp] theorem State.clearBytes_pllLoss (s : State) (a n : Nat) : (s.clearBytes a n).pllLoss = s.pllLoss := rfl
@[simp] theorem State.clearBytes_thresh (s : State) (a n : Nat) : (s.clearBytes a n).thresh = s.thresh := rfl
@[simp] theorem State.clearBytes_mgmt (s : State) (a n : Nat) : (s.clearBytes a n).mgmt = s.mgmt := rfl
@[simp] theorem State.clearBytes_out (s : State) (a n : Nat) : (s.clearBytes a n).out = s.out := rfl
@[simp] theorem State.clearBytes_fresh (s : State) (a n : Nat) : (s.clearBytes a n).fresh = s.fresh := rfl

/-! ### emit -/

@[simp] theorem State.emit_pending (s : State) (e : Emit) : (s.emit e).pending = s.pending := rfl
@[simp] theorem State.emit_time (s : State) (e : Emit) : (s.emit e).time = s.time := rfl
@[simp] theorem State.emit_eng (s : State) (e : Emit) : (s.emit e).eng = s.eng := rfl
@[simp] theorem State.emit_regs (s : State) (e : Emit) : (s.emit e).regs = s.regs := rfl
@[simp] theorem State.emit_mem (s : State) (e : Emit) : (s.emit e).mem = s.mem := rfl
@[simp] theorem State.emit_v0 (s : State) (e : Emit) : (s.emit e).v0 = s.v0 := rfl
@[simp] theorem State.emit_badLines (s : State) (e : Emit) : (s.emit e).badLines = s.badLines := rfl
@[simp] theorem State.emit_macErr (s : State) (e : Emit) : (s.emit e).macErr = s.macErr := rfl
@[simp] theorem State.emit_remote (s : State) (e : Emit) : (s.emit e).remote = s.remote := rfl
@[simp] theorem State.emit_run (s : State) (e : Emit) : (s.emit e).run = s.run := rfl
@[simp] theorem State.emit_meters (s : State) (e : Emit) : (s.emit e).meters = s.meters := rfl
@[simp] theorem State.emit_cmdNum (s : State) (e : Emit) : (s.emit e).cmdNum = s.cmdNum := rfl
@[simp] theorem State.emit_hbm (s : State) (e : Emit) : (s.emit e).hbm = s.hbm := rfl
@[simp] theorem State.emit_regions (s : State) (e : Emit) : (s.emit e).regions = s.regions := rfl
@[simp] theorem State.emit_scrubs (s : State) (e : Emit) : (s.emit e).scrubs = s.scrubs := rfl
@[simp] theorem State.emit_frozen (s : State) (e : Emit) : (s.emit e).frozen = s.frozen := rfl
@[simp] theorem State.emit_threads (s : State) (e : Emit) : (s.emit e).threads = s.threads := rfl
@[simp] theorem State.emit_cores (s : State) (e : Emit) : (s.emit e).cores = s.cores := rfl
@[simp] theorem State.emit_clusters (s : State) (e : Emit) : (s.emit e).clusters = s.clusters := rfl
@[simp] theorem State.emit_dies (s : State) (e : Emit) : (s.emit e).dies = s.dies := rfl
@[simp] theorem State.emit_parts (s : State) (e : Emit) : (s.emit e).parts = s.parts := rfl
@[simp] theorem State.emit_keys (s : State) (e : Emit) : (s.emit e).keys = s.keys := rfl
@[simp] theorem State.emit_nodes (s : State) (e : Emit) : (s.emit e).nodes = s.nodes := rfl
@[simp] theorem State.emit_rtp (s : State) (e : Emit) : (s.emit e).rtp = s.rtp := rfl
@[simp] theorem State.emit_fuses (s : State) (e : Emit) : (s.emit e).fuses = s.fuses := rfl
@[simp] theorem State.emit_flash (s : State) (e : Emit) : (s.emit e).flash = s.flash := rfl
@[simp] theorem State.emit_spares (s : State) (e : Emit) : (s.emit e).spares = s.spares := rfl
@[simp] theorem State.emit_seed (s : State) (e : Emit) : (s.emit e).seed = s.seed := rfl
@[simp] theorem State.emit_start (s : State) (e : Emit) : (s.emit e).start = s.start := rfl
@[simp] theorem State.emit_evc (s : State) (e : Emit) : (s.emit e).evc = s.evc := rfl
@[simp] theorem State.emit_host (s : State) (e : Emit) : (s.emit e).host = s.host := rfl
@[simp] theorem State.emit_pins (s : State) (e : Emit) : (s.emit e).pins = s.pins := rfl
@[simp] theorem State.emit_journal (s : State) (e : Emit) : (s.emit e).journal = s.journal := rfl
@[simp] theorem State.emit_ledger (s : State) (e : Emit) : (s.emit e).ledger = s.ledger := rfl
@[simp] theorem State.emit_pllLoss (s : State) (e : Emit) : (s.emit e).pllLoss = s.pllLoss := rfl
@[simp] theorem State.emit_thresh (s : State) (e : Emit) : (s.emit e).thresh = s.thresh := rfl
@[simp] theorem State.emit_mgmt (s : State) (e : Emit) : (s.emit e).mgmt = s.mgmt := rfl
@[simp] theorem State.emit_fresh (s : State) (e : Emit) : (s.emit e).fresh = s.fresh := rfl

/-! ### Reads after updates -/

@[simp] theorem State.rd_wr_same (s : State) (p : Page) (off : Nat) (v : Reg32) : (s.wr p off v).rd p off = v := by
  simp [State.rd, State.wr]

theorem State.rd_wr_other (s : State) (p q : Page) (off o : Nat) (v : Reg32) (h : regKey q o ≠ regKey p off) :
    (s.wr p off v).rd q o = s.rd q o := by
  simp only [State.rd, State.wr]; exact sget_sput_other _ _ _ _ _ h

theorem whoKey_ne {a b : Who} (h : a ≠ b) : whoKey a ≠ whoKey b := by
  obtain ⟨ac, ath⟩ := a
  obtain ⟨bc, bth⟩ := b
  intro e
  apply h
  simp only [whoKey] at e
  have h1 := ath.isLt
  have h2 := bth.isLt
  have hc : ac.toNat = bc.toNat := by omega
  have ht : ath.toNat = bth.toNat := by omega
  rw [BitVec.eq_of_toNat_eq hc, BitVec.eq_of_toNat_eq ht]

@[simp] theorem State.thread_setThread_same (s : State) (w : Who) (t : Thread) : (s.setThread w t).thread w = t := by
  simp [State.thread, State.setThread]

theorem State.thread_setThread_other (s : State) {w v : Who} (t : Thread) (h : v ≠ w) :
    (s.setThread w t).thread v = s.thread v := by
  simp only [State.thread, State.setThread]; exact sget_sput_other _ _ _ _ _ (whoKey_ne h)

@[simp] theorem State.core_setCore_same (s : State) (k : Nat) (x : CoreSt) : (s.setCore k x).core k = x := by
  simp [State.core, State.setCore]

theorem State.core_setCore_other (s : State) {k j : Nat} (x : CoreSt) (h : j ≠ k) : (s.setCore k x).core j = s.core j := by
  simp only [State.core, State.setCore]; exact sget_sput_other _ _ _ _ _ h

@[simp] theorem State.cluster_setCluster_same (s : State) (k : Nat) (x : ClusterSt) : (s.setCluster k x).cluster k = x := by
  simp [State.cluster, State.setCluster]

theorem State.cluster_setCluster_other (s : State) {k j : Nat} (x : ClusterSt) (h : j ≠ k) : (s.setCluster k x).cluster j = s.cluster j := by
  simp only [State.cluster, State.setCluster]; exact sget_sput_other _ _ _ _ _ h

@[simp] theorem State.die_setDie_same (s : State) (k : Nat) (x : DieSt) : (s.setDie k x).die k = x := by
  simp [State.die, State.setDie]

theorem State.die_setDie_other (s : State) {k j : Nat} (x : DieSt) (h : j ≠ k) : (s.setDie k x).die j = s.die j := by
  simp only [State.die, State.setDie]; exact sget_sput_other _ _ _ _ _ h

@[simp] theorem State.node_setNode_same (s : State) (k : Nat) (x : Option Node) : (s.setNode k x).node k = x := by
  simp [State.node, State.setNode]

theorem State.node_setNode_other (s : State) {k j : Nat} (x : Option Node) (h : j ≠ k) : (s.setNode k x).node j = s.node j := by
  simp only [State.node, State.setNode]; exact sget_sput_other _ _ _ _ _ h

@[simp] theorem State.stack_setStack_same (s : State) (k : Nat) (x : StackSt) : (s.setStack k x).stack k = x := by
  simp [State.stack, State.setStack]

theorem State.stack_setStack_other (s : State) {k j : Nat} (x : StackSt) (h : j ≠ k) : (s.setStack k x).stack j = s.stack j := by
  simp only [State.stack, State.setStack]; exact sget_sput_other _ _ _ _ _ h

@[simp] theorem State.regionRaw_setRegion_same (s : State) (k : Nat) (x : Option Region) : (s.setRegion k x).regionRaw k = x := by
  simp [State.regionRaw, State.setRegion]

theorem State.regionRaw_setRegion_other (s : State) {k j : Nat} (x : Option Region) (h : j ≠ k) : (s.setRegion k x).regionRaw j = s.regionRaw j := by
  simp only [State.regionRaw, State.setRegion]; exact sget_sput_other _ _ _ _ _ h

@[simp] theorem State.part_setPart_same (s : State) (k : BitVec 5) (x : Part) : (s.setPart k x).part k = x := by
  simp [State.part, State.setPart]

theorem State.part_setPart_other (s : State) {k j : BitVec 5} (x : Part) (h : j ≠ k) :
    (s.setPart k x).part j = s.part j := by
  simp only [State.part, State.setPart]
  exact sget_sput_other _ _ _ _ _ (fun e => h (BitVec.eq_of_toNat_eq e))

@[simp] theorem State.key_setKey_same (s : State) (k : BitVec 8) (x : KeySlot) : (s.setKey k x).key k = x := by
  simp [State.key, State.setKey]

theorem State.key_setKey_other (s : State) {k j : BitVec 8} (x : KeySlot) (h : j ≠ k) :
    (s.setKey k x).key j = s.key j := by
  simp only [State.key, State.setKey]
  exact sget_sput_other _ _ _ _ _ (fun e => h (BitVec.eq_of_toNat_eq e))

/-! ### Accessors through updates of other fields -/

@[simp] theorem State.thread_wr (s : State) (p : Page) (off : Nat) (v : Reg32) (u : Who) : (s.wr p off v).thread u = s.thread u := rfl
@[simp] theorem State.core_wr (s : State) (p : Page) (off : Nat) (v : Reg32) (j : Nat) : (s.wr p off v).core j = s.core j := rfl
@[simp] theorem State.cluster_wr (s : State) (p : Page) (off : Nat) (v : Reg32) (j : Nat) : (s.wr p off v).cluster j = s.cluster j := rfl
@[simp] theorem State.die_wr (s : State) (p : Page) (off : Nat) (v : Reg32) (j : Nat) : (s.wr p off v).die j = s.die j := rfl
@[simp] theorem State.part_wr (s : State) (p : Page) (off : Nat) (v : Reg32) (j : BitVec 5) : (s.wr p off v).part j = s.part j := rfl
@[simp] theorem State.key_wr (s : State) (p : Page) (off : Nat) (v : Reg32) (j : BitVec 8) : (s.wr p off v).key j = s.key j := rfl
@[simp] theorem State.node_wr (s : State) (p : Page) (off : Nat) (v : Reg32) (j : Nat) : (s.wr p off v).node j = s.node j := rfl
@[simp] theorem State.stack_wr (s : State) (p : Page) (off : Nat) (v : Reg32) (j : Nat) : (s.wr p off v).stack j = s.stack j := rfl
@[simp] theorem State.byte_wr (s : State) (p : Page) (off : Nat) (v : Reg32) (b : Nat) : (s.wr p off v).byte b = s.byte b := rfl
@[simp] theorem State.core_setThread (s : State) (w : Who) (t : Thread) (j : Nat) : (s.setThread w t).core j = s.core j := rfl
@[simp] theorem State.cluster_setThread (s : State) (w : Who) (t : Thread) (j : Nat) : (s.setThread w t).cluster j = s.cluster j := rfl
@[simp] theorem State.die_setThread (s : State) (w : Who) (t : Thread) (j : Nat) : (s.setThread w t).die j = s.die j := rfl
@[simp] theorem State.part_setThread (s : State) (w : Who) (t : Thread) (j : BitVec 5) : (s.setThread w t).part j = s.part j := rfl
@[simp] theorem State.key_setThread (s : State) (w : Who) (t : Thread) (j : BitVec 8) : (s.setThread w t).key j = s.key j := rfl
@[simp] theorem State.node_setThread (s : State) (w : Who) (t : Thread) (j : Nat) : (s.setThread w t).node j = s.node j := rfl
@[simp] theorem State.stack_setThread (s : State) (w : Who) (t : Thread) (j : Nat) : (s.setThread w t).stack j = s.stack j := rfl
@[simp] theorem State.rd_setThread (s : State) (w : Who) (t : Thread) (q : Page) (o : Nat) : (s.setThread w t).rd q o = s.rd q o := rfl
@[simp] theorem State.byte_setThread (s : State) (w : Who) (t : Thread) (b : Nat) : (s.setThread w t).byte b = s.byte b := rfl
@[simp] theorem State.thread_setCore (s : State) (k : Nat) (c : CoreSt) (u : Who) : (s.setCore k c).thread u = s.thread u := rfl
@[simp] theorem State.cluster_setCore (s : State) (k : Nat) (c : CoreSt) (j : Nat) : (s.setCore k c).cluster j = s.cluster j := rfl
@[simp] theorem State.die_setCore (s : State) (k : Nat) (c : CoreSt) (j : Nat) : (s.setCore k c).die j = s.die j := rfl
@[simp] theorem State.part_setCore (s : State) (k : Nat) (c : CoreSt) (j : BitVec 5) : (s.setCore k c).part j = s.part j := rfl
@[simp] theorem State.key_setCore (s : State) (k : Nat) (c : CoreSt) (j : BitVec 8) : (s.setCore k c).key j = s.key j := rfl
@[simp] theorem State.node_setCore (s : State) (k : Nat) (c : CoreSt) (j : Nat) : (s.setCore k c).node j = s.node j := rfl
@[simp] theorem State.stack_setCore (s : State) (k : Nat) (c : CoreSt) (j : Nat) : (s.setCore k c).stack j = s.stack j := rfl
@[simp] theorem State.rd_setCore (s : State) (k : Nat) (c : CoreSt) (q : Page) (o : Nat) : (s.setCore k c).rd q o = s.rd q o := rfl
@[simp] theorem State.byte_setCore (s : State) (k : Nat) (c : CoreSt) (b : Nat) : (s.setCore k c).byte b = s.byte b := rfl
@[simp] theorem State.thread_setCluster (s : State) (c : Nat) (x : ClusterSt) (u : Who) : (s.setCluster c x).thread u = s.thread u := rfl
@[simp] theorem State.core_setCluster (s : State) (c : Nat) (x : ClusterSt) (j : Nat) : (s.setCluster c x).core j = s.core j := rfl
@[simp] theorem State.die_setCluster (s : State) (c : Nat) (x : ClusterSt) (j : Nat) : (s.setCluster c x).die j = s.die j := rfl
@[simp] theorem State.part_setCluster (s : State) (c : Nat) (x : ClusterSt) (j : BitVec 5) : (s.setCluster c x).part j = s.part j := rfl
@[simp] theorem State.key_setCluster (s : State) (c : Nat) (x : ClusterSt) (j : BitVec 8) : (s.setCluster c x).key j = s.key j := rfl
@[simp] theorem State.node_setCluster (s : State) (c : Nat) (x : ClusterSt) (j : Nat) : (s.setCluster c x).node j = s.node j := rfl
@[simp] theorem State.stack_setCluster (s : State) (c : Nat) (x : ClusterSt) (j : Nat) : (s.setCluster c x).stack j = s.stack j := rfl
@[simp] theorem State.rd_setCluster (s : State) (c : Nat) (x : ClusterSt) (q : Page) (o : Nat) : (s.setCluster c x).rd q o = s.rd q o := rfl
@[simp] theorem State.byte_setCluster (s : State) (c : Nat) (x : ClusterSt) (b : Nat) : (s.setCluster c x).byte b = s.byte b := rfl
@[simp] theorem State.thread_setDie (s : State) (d : Nat) (x : DieSt) (u : Who) : (s.setDie d x).thread u = s.thread u := rfl
@[simp] theorem State.core_setDie (s : State) (d : Nat) (x : DieSt) (j : Nat) : (s.setDie d x).core j = s.core j := rfl
@[simp] theorem State.cluster_setDie (s : State) (d : Nat) (x : DieSt) (j : Nat) : (s.setDie d x).cluster j = s.cluster j := rfl
@[simp] theorem State.part_setDie (s : State) (d : Nat) (x : DieSt) (j : BitVec 5) : (s.setDie d x).part j = s.part j := rfl
@[simp] theorem State.key_setDie (s : State) (d : Nat) (x : DieSt) (j : BitVec 8) : (s.setDie d x).key j = s.key j := rfl
@[simp] theorem State.node_setDie (s : State) (d : Nat) (x : DieSt) (j : Nat) : (s.setDie d x).node j = s.node j := rfl
@[simp] theorem State.stack_setDie (s : State) (d : Nat) (x : DieSt) (j : Nat) : (s.setDie d x).stack j = s.stack j := rfl
@[simp] theorem State.rd_setDie (s : State) (d : Nat) (x : DieSt) (q : Page) (o : Nat) : (s.setDie d x).rd q o = s.rd q o := rfl
@[simp] theorem State.byte_setDie (s : State) (d : Nat) (x : DieSt) (b : Nat) : (s.setDie d x).byte b = s.byte b := rfl
@[simp] theorem State.thread_setPart (s : State) (p : BitVec 5) (x : Part) (u : Who) : (s.setPart p x).thread u = s.thread u := rfl
@[simp] theorem State.core_setPart (s : State) (p : BitVec 5) (x : Part) (j : Nat) : (s.setPart p x).core j = s.core j := rfl
@[simp] theorem State.cluster_setPart (s : State) (p : BitVec 5) (x : Part) (j : Nat) : (s.setPart p x).cluster j = s.cluster j := rfl
@[simp] theorem State.die_setPart (s : State) (p : BitVec 5) (x : Part) (j : Nat) : (s.setPart p x).die j = s.die j := rfl
@[simp] theorem State.key_setPart (s : State) (p : BitVec 5) (x : Part) (j : BitVec 8) : (s.setPart p x).key j = s.key j := rfl
@[simp] theorem State.node_setPart (s : State) (p : BitVec 5) (x : Part) (j : Nat) : (s.setPart p x).node j = s.node j := rfl
@[simp] theorem State.stack_setPart (s : State) (p : BitVec 5) (x : Part) (j : Nat) : (s.setPart p x).stack j = s.stack j := rfl
@[simp] theorem State.rd_setPart (s : State) (p : BitVec 5) (x : Part) (q : Page) (o : Nat) : (s.setPart p x).rd q o = s.rd q o := rfl
@[simp] theorem State.byte_setPart (s : State) (p : BitVec 5) (x : Part) (b : Nat) : (s.setPart p x).byte b = s.byte b := rfl
@[simp] theorem State.thread_setKey (s : State) (n : BitVec 8) (x : KeySlot) (u : Who) : (s.setKey n x).thread u = s.thread u := rfl
@[simp] theorem State.core_setKey (s : State) (n : BitVec 8) (x : KeySlot) (j : Nat) : (s.setKey n x).core j = s.core j := rfl
@[simp] theorem State.cluster_setKey (s : State) (n : BitVec 8) (x : KeySlot) (j : Nat) : (s.setKey n x).cluster j = s.cluster j := rfl
@[simp] theorem State.die_setKey (s : State) (n : BitVec 8) (x : KeySlot) (j : Nat) : (s.setKey n x).die j = s.die j := rfl
@[simp] theorem State.part_setKey (s : State) (n : BitVec 8) (x : KeySlot) (j : BitVec 5) : (s.setKey n x).part j = s.part j := rfl
@[simp] theorem State.node_setKey (s : State) (n : BitVec 8) (x : KeySlot) (j : Nat) : (s.setKey n x).node j = s.node j := rfl
@[simp] theorem State.stack_setKey (s : State) (n : BitVec 8) (x : KeySlot) (j : Nat) : (s.setKey n x).stack j = s.stack j := rfl
@[simp] theorem State.rd_setKey (s : State) (n : BitVec 8) (x : KeySlot) (q : Page) (o : Nat) : (s.setKey n x).rd q o = s.rd q o := rfl
@[simp] theorem State.byte_setKey (s : State) (n : BitVec 8) (x : KeySlot) (b : Nat) : (s.setKey n x).byte b = s.byte b := rfl
@[simp] theorem State.thread_setNode (s : State) (n : Nat) (x : Option Node) (u : Who) : (s.setNode n x).thread u = s.thread u := rfl
@[simp] theorem State.core_setNode (s : State) (n : Nat) (x : Option Node) (j : Nat) : (s.setNode n x).core j = s.core j := rfl
@[simp] theorem State.cluster_setNode (s : State) (n : Nat) (x : Option Node) (j : Nat) : (s.setNode n x).cluster j = s.cluster j := rfl
@[simp] theorem State.die_setNode (s : State) (n : Nat) (x : Option Node) (j : Nat) : (s.setNode n x).die j = s.die j := rfl
@[simp] theorem State.part_setNode (s : State) (n : Nat) (x : Option Node) (j : BitVec 5) : (s.setNode n x).part j = s.part j := rfl
@[simp] theorem State.key_setNode (s : State) (n : Nat) (x : Option Node) (j : BitVec 8) : (s.setNode n x).key j = s.key j := rfl
@[simp] theorem State.stack_setNode (s : State) (n : Nat) (x : Option Node) (j : Nat) : (s.setNode n x).stack j = s.stack j := rfl
@[simp] theorem State.rd_setNode (s : State) (n : Nat) (x : Option Node) (q : Page) (o : Nat) : (s.setNode n x).rd q o = s.rd q o := rfl
@[simp] theorem State.byte_setNode (s : State) (n : Nat) (x : Option Node) (b : Nat) : (s.setNode n x).byte b = s.byte b := rfl
@[simp] theorem State.thread_setStack (s : State) (n : Nat) (x : StackSt) (u : Who) : (s.setStack n x).thread u = s.thread u := rfl
@[simp] theorem State.core_setStack (s : State) (n : Nat) (x : StackSt) (j : Nat) : (s.setStack n x).core j = s.core j := rfl
@[simp] theorem State.cluster_setStack (s : State) (n : Nat) (x : StackSt) (j : Nat) : (s.setStack n x).cluster j = s.cluster j := rfl
@[simp] theorem State.die_setStack (s : State) (n : Nat) (x : StackSt) (j : Nat) : (s.setStack n x).die j = s.die j := rfl
@[simp] theorem State.part_setStack (s : State) (n : Nat) (x : StackSt) (j : BitVec 5) : (s.setStack n x).part j = s.part j := rfl
@[simp] theorem State.key_setStack (s : State) (n : Nat) (x : StackSt) (j : BitVec 8) : (s.setStack n x).key j = s.key j := rfl
@[simp] theorem State.node_setStack (s : State) (n : Nat) (x : StackSt) (j : Nat) : (s.setStack n x).node j = s.node j := rfl
@[simp] theorem State.rd_setStack (s : State) (n : Nat) (x : StackSt) (q : Page) (o : Nat) : (s.setStack n x).rd q o = s.rd q o := rfl
@[simp] theorem State.byte_setStack (s : State) (n : Nat) (x : StackSt) (b : Nat) : (s.setStack n x).byte b = s.byte b := rfl
@[simp] theorem State.thread_setRegion (s : State) (r : Nat) (x : Option Region) (u : Who) : (s.setRegion r x).thread u = s.thread u := rfl
@[simp] theorem State.core_setRegion (s : State) (r : Nat) (x : Option Region) (j : Nat) : (s.setRegion r x).core j = s.core j := rfl
@[simp] theorem State.cluster_setRegion (s : State) (r : Nat) (x : Option Region) (j : Nat) : (s.setRegion r x).cluster j = s.cluster j := rfl
@[simp] theorem State.die_setRegion (s : State) (r : Nat) (x : Option Region) (j : Nat) : (s.setRegion r x).die j = s.die j := rfl
@[simp] theorem State.part_setRegion (s : State) (r : Nat) (x : Option Region) (j : BitVec 5) : (s.setRegion r x).part j = s.part j := rfl
@[simp] theorem State.key_setRegion (s : State) (r : Nat) (x : Option Region) (j : BitVec 8) : (s.setRegion r x).key j = s.key j := rfl
@[simp] theorem State.node_setRegion (s : State) (r : Nat) (x : Option Region) (j : Nat) : (s.setRegion r x).node j = s.node j := rfl
@[simp] theorem State.stack_setRegion (s : State) (r : Nat) (x : Option Region) (j : Nat) : (s.setRegion r x).stack j = s.stack j := rfl
@[simp] theorem State.rd_setRegion (s : State) (r : Nat) (x : Option Region) (q : Page) (o : Nat) : (s.setRegion r x).rd q o = s.rd q o := rfl
@[simp] theorem State.byte_setRegion (s : State) (r : Nat) (x : Option Region) (b : Nat) : (s.setRegion r x).byte b = s.byte b := rfl
@[simp] theorem State.thread_setVer0 (s : State) (k v : Nat) (u : Who) : (s.setVer0 k v).thread u = s.thread u := rfl
@[simp] theorem State.core_setVer0 (s : State) (k v : Nat) (j : Nat) : (s.setVer0 k v).core j = s.core j := rfl
@[simp] theorem State.cluster_setVer0 (s : State) (k v : Nat) (j : Nat) : (s.setVer0 k v).cluster j = s.cluster j := rfl
@[simp] theorem State.die_setVer0 (s : State) (k v : Nat) (j : Nat) : (s.setVer0 k v).die j = s.die j := rfl
@[simp] theorem State.part_setVer0 (s : State) (k v : Nat) (j : BitVec 5) : (s.setVer0 k v).part j = s.part j := rfl
@[simp] theorem State.key_setVer0 (s : State) (k v : Nat) (j : BitVec 8) : (s.setVer0 k v).key j = s.key j := rfl
@[simp] theorem State.node_setVer0 (s : State) (k v : Nat) (j : Nat) : (s.setVer0 k v).node j = s.node j := rfl
@[simp] theorem State.stack_setVer0 (s : State) (k v : Nat) (j : Nat) : (s.setVer0 k v).stack j = s.stack j := rfl
@[simp] theorem State.rd_setVer0 (s : State) (k v : Nat) (q : Page) (o : Nat) : (s.setVer0 k v).rd q o = s.rd q o := rfl
@[simp] theorem State.byte_setVer0 (s : State) (k v : Nat) (b : Nat) : (s.setVer0 k v).byte b = s.byte b := rfl
@[simp] theorem State.thread_putBytes (s : State) (a : Nat) (bs : List Byte) (u : Who) : (s.putBytes a bs).thread u = s.thread u := rfl
@[simp] theorem State.core_putBytes (s : State) (a : Nat) (bs : List Byte) (j : Nat) : (s.putBytes a bs).core j = s.core j := rfl
@[simp] theorem State.cluster_putBytes (s : State) (a : Nat) (bs : List Byte) (j : Nat) : (s.putBytes a bs).cluster j = s.cluster j := rfl
@[simp] theorem State.die_putBytes (s : State) (a : Nat) (bs : List Byte) (j : Nat) : (s.putBytes a bs).die j = s.die j := rfl
@[simp] theorem State.part_putBytes (s : State) (a : Nat) (bs : List Byte) (j : BitVec 5) : (s.putBytes a bs).part j = s.part j := rfl
@[simp] theorem State.key_putBytes (s : State) (a : Nat) (bs : List Byte) (j : BitVec 8) : (s.putBytes a bs).key j = s.key j := rfl
@[simp] theorem State.node_putBytes (s : State) (a : Nat) (bs : List Byte) (j : Nat) : (s.putBytes a bs).node j = s.node j := rfl
@[simp] theorem State.stack_putBytes (s : State) (a : Nat) (bs : List Byte) (j : Nat) : (s.putBytes a bs).stack j = s.stack j := rfl
@[simp] theorem State.rd_putBytes (s : State) (a : Nat) (bs : List Byte) (q : Page) (o : Nat) : (s.putBytes a bs).rd q o = s.rd q o := rfl
@[simp] theorem State.thread_clearBytes (s : State) (a n : Nat) (u : Who) : (s.clearBytes a n).thread u = s.thread u := rfl
@[simp] theorem State.core_clearBytes (s : State) (a n : Nat) (j : Nat) : (s.clearBytes a n).core j = s.core j := rfl
@[simp] theorem State.cluster_clearBytes (s : State) (a n : Nat) (j : Nat) : (s.clearBytes a n).cluster j = s.cluster j := rfl
@[simp] theorem State.die_clearBytes (s : State) (a n : Nat) (j : Nat) : (s.clearBytes a n).die j = s.die j := rfl
@[simp] theorem State.part_clearBytes (s : State) (a n : Nat) (j : BitVec 5) : (s.clearBytes a n).part j = s.part j := rfl
@[simp] theorem State.key_clearBytes (s : State) (a n : Nat) (j : BitVec 8) : (s.clearBytes a n).key j = s.key j := rfl
@[simp] theorem State.node_clearBytes (s : State) (a n : Nat) (j : Nat) : (s.clearBytes a n).node j = s.node j := rfl
@[simp] theorem State.stack_clearBytes (s : State) (a n : Nat) (j : Nat) : (s.clearBytes a n).stack j = s.stack j := rfl
@[simp] theorem State.rd_clearBytes (s : State) (a n : Nat) (q : Page) (o : Nat) : (s.clearBytes a n).rd q o = s.rd q o := rfl
@[simp] theorem State.thread_emit (s : State) (e : Emit) (u : Who) : (s.emit e).thread u = s.thread u := rfl
@[simp] theorem State.core_emit (s : State) (e : Emit) (j : Nat) : (s.emit e).core j = s.core j := rfl
@[simp] theorem State.cluster_emit (s : State) (e : Emit) (j : Nat) : (s.emit e).cluster j = s.cluster j := rfl
@[simp] theorem State.die_emit (s : State) (e : Emit) (j : Nat) : (s.emit e).die j = s.die j := rfl
@[simp] theorem State.part_emit (s : State) (e : Emit) (j : BitVec 5) : (s.emit e).part j = s.part j := rfl
@[simp] theorem State.key_emit (s : State) (e : Emit) (j : BitVec 8) : (s.emit e).key j = s.key j := rfl
@[simp] theorem State.node_emit (s : State) (e : Emit) (j : Nat) : (s.emit e).node j = s.node j := rfl
@[simp] theorem State.stack_emit (s : State) (e : Emit) (j : Nat) : (s.emit e).stack j = s.stack j := rfl
@[simp] theorem State.rd_emit (s : State) (e : Emit) (q : Page) (o : Nat) : (s.emit e).rd q o = s.rd q o := rfl
@[simp] theorem State.byte_emit (s : State) (e : Emit) (b : Nat) : (s.emit e).byte b = s.byte b := rfl

/-! ### General registers -/

/-- g0 reads zero (R71). -/
@[simp] theorem Thread.reg_zero (t : Thread) : t.reg 0 = 0 := rfl

/-- A write of g0 is discarded (R71). -/
@[simp] theorem Thread.setReg_zero (t : Thread) (v : Word) : t.setReg 0 v = t := rfl

@[simp] theorem Thread.reg_setReg_same (t : Thread) (r : BitVec 5) (v : Word) (h : r ≠ 0) : (t.setReg r v).reg r = v := by
  unfold Thread.reg Thread.setReg
  rw [if_neg h, if_neg h]
  exact sget_sput_same _ _ _ _

theorem Thread.reg_setReg_other (t : Thread) (r q : BitVec 5) (v : Word) (h : q ≠ r) : (t.setReg r v).reg q = t.reg q := by
  unfold Thread.setReg
  split
  · rfl
  · unfold Thread.reg
    split
    · rfl
    · exact sget_sput_other _ _ _ _ _ (fun e => h (BitVec.eq_of_toNat_eq e))

end Sys2Proof.Machine
end

