-- ==== Sys2Proof/Laws/Memory.lean ====
section
/-!
SUPPORT. The memories keep their canonical form under every operation, and a byte outside what an operation writes reads
as before.
-/

namespace Sys2Proof.Machine

/-! ### The canonical form -/

theorem State.reset_mem_wf : Memory.wf State.reset.mem := by decide

theorem State.putBytes_mem_wf (s : State) (a : Nat) (bs : List Byte) (h : Memory.wf s.mem) :
    Memory.wf (s.putBytes a bs).mem := sputs_wf _ bs s.mem a h

theorem State.clearBytes_mem_wf (s : State) (a n : Nat) (h : Memory.wf s.mem) : Memory.wf (s.clearBytes a n).mem :=
  ⟨h.1.filter _, fun e he => h.2 e (List.mem_of_mem_filter he)⟩

theorem State.putHost_mem_wf (s : State) (a : Nat) (bs : List Byte) (h : Memory.hostWf s.host.mem) :
    Memory.hostWf (s.putHost a bs).host.mem := sputs_wf _ bs s.host.mem a h

/-! ### Bytes after a write -/

theorem State.byte_putBytes_outside (s : State) (a b : Nat) (bs : List Byte) (h : b < a ∨ a + bs.length ≤ b) :
    (s.putBytes a bs).byte b = s.byte b := sget_sputs_outside _ bs s.mem a b h

theorem State.byte_putBytes_inside (s : State) (a i : Nat) (bs : List Byte) (h : i < bs.length) :
    (s.putBytes a bs).byte (a + i) = bs[i] := sget_sputs_inside _ bs s.mem a i h

theorem sget_filter {α : Type} (d : Nat → α) (l : List (Nat × α)) (f : Nat → Bool) (k : Nat) (h : f k = true) :
    sget d (l.filter (fun e => f e.1)) k = sget d l k := by
  induction l with
  | nil => rfl
  | cons e l ih =>
    by_cases hf : f e.1
    · simp only [List.filter_cons, hf, if_true, sget, ih]
    · have hk : e.1 ≠ k := fun he => hf (by rw [he]; exact h)
      simp only [List.filter_cons, hf, sget, hk, if_false]
      simpa using ih

theorem State.byte_clearBytes_outside (s : State) (a n b : Nat) (h : b < a ∨ a + n ≤ b) :
    (s.clearBytes a n).byte b = s.byte b :=
  sget_filter _ s.mem (fun k => decide (k < a ∨ a + n ≤ k)) b (by simpa using h)

/-! ### Operations that leave memory and the queue of waiting commands as they were -/

/-- A state with the memory and the queue of another. -/
def Still (s t : State) : Prop := t.mem = s.mem ∧ t.pending = s.pending

theorem Still.refl (s : State) : Still s s := ⟨rfl, rfl⟩

theorem Still.trans {s t u : State} (h : Still s t) (k : Still t u) : Still s u := ⟨k.1.trans h.1, k.2.trans h.2⟩

theorem Still.foldl {α : Type} {f : State → α → State} (hf : ∀ s x, Still s (f s x)) (l : List α) (s : State) :
    Still s (l.foldl f s) := by
  induction l generalizing s with
  | nil => exact .refl s
  | cons x l ih => exact (hf s x).trans (ih _)

@[simp] theorem State.wrN_mem (s : State) (p : Page) (off n : Nat) : (s.wrN p off n).mem = s.mem := rfl
@[simp] theorem State.bump_mem (s : State) (p : Page) (off n : Nat) : (s.bump p off n).mem = s.mem := rfl
@[simp] theorem State.raise_mem (s : State) (p : Page) (b : Nat) : (s.raise p b).mem = s.mem := rfl

theorem State.wr_still (s : State) (p : Page) (off : Nat) (v : Reg32) : Still s (s.wr p off v) := ⟨rfl, rfl⟩
theorem State.wr64_still (s : State) (p : Page) (off n : Nat) : Still s (s.wr64 p off n) := ⟨rfl, rfl⟩
theorem State.bump_still (s : State) (p : Page) (off n : Nat) : Still s (s.bump p off n) := ⟨rfl, rfl⟩
theorem State.raise_still (s : State) (p : Page) (b : Nat) : Still s (s.raise p b) := ⟨rfl, rfl⟩
theorem State.setStack_still (s : State) (n : Nat) (x : StackSt) : Still s (s.setStack n x) := ⟨rfl, rfl⟩
theorem State.treeWrite_still (s : State) (key v : Nat) : Still s (s.treeWrite key v) := ⟨rfl, rfl⟩
theorem State.macGood_still (s : State) (i : Nat) : Still s (s.macGood i) := ⟨rfl, rfl⟩

theorem State.cond_still (s : State) (p : Page) (b : Nat) (v : Bool) : Still s (s.cond p b v) := by
  unfold State.cond; split <;> exact ⟨rfl, rfl⟩

theorem State.meter_still (s : State) (m : Meter) (port n : Nat) (mark : Bool) : Still s (s.meter m port n mark) := by
  unfold State.meter; dsimp only; split <;> exact ⟨rfl, rfl⟩

theorem State.ownAccess_still (s : State) (st cls n : Nat) : Still s (s.ownAccess st cls n) := by
  unfold State.ownAccess; split
  · exact State.meter_still ..
  · exact .refl _

theorem State.retirePage_still (s : State) (st lp : Nat) : Still s (s.retirePage st lp) := by
  unfold State.retirePage; dsimp only; split
  · exact ⟨rfl, rfl⟩
  · refine Still.trans ?_ (State.ownAccess_still ..)
    exact ⟨rfl, rfl⟩

theorem State.restartVersions_still (s : State) (st lp : Nat) : Still s (s.restartVersions st lp) := ⟨rfl, rfl⟩

theorem State.reencrypt_still (s : State) (key : Nat) : Still s (s.reencrypt key) := by
  unfold State.reencrypt; dsimp only; split
  · exact (State.restartVersions_still ..).trans (State.retirePage_still ..)
  · refine Still.trans ?_ (State.ownAccess_still ..)
    exact ⟨rfl, rfl⟩

theorem State.poisonBlock_still (s : State) (key : Nat) : Still s (s.poisonBlock key) := by
  have h : Still s (if s.treeFull key then s.reencrypt key else s) := by
    split
    · exact State.reencrypt_still ..
    · exact .refl _
  exact (((h.trans (State.treeWrite_still ..)).trans (State.macGood_still ..)).trans (State.macGood_still ..)).trans
    (State.macGood_still ..)

theorem State.integrityFailure_still (s : State) (a key first n : Nat) : Still s (s.integrityFailure a key first n) :=
  ((((Still.foldl (fun t i => State.poisonBlock_still t (first + i)) (List.range n) s).trans (State.setStack_still ..)).trans
    (State.bump_still ..)).trans (State.wr64_still ..)).trans (State.raise_still ..)

theorem State.blockCheck_still (s : State) (a key : Nat) : Still s (s.blockCheck a key).1 := by
  unfold State.blockCheck
  split
  · exact ⟨rfl, rfl⟩
  · split
    · exact State.integrityFailure_still ..
    · exact .refl _

theorem State.lineCheck_still (s : State) (a key : Nat) : Still s (s.lineCheck a key).1 := by
  unfold State.lineCheck
  split
  · exact State.integrityFailure_still ..
  · exact .refl _

theorem State.roomForVersion_still (s : State) (key : Nat) : Still s (s.roomForVersion key) := by
  unfold State.roomForVersion; split
  · exact State.reencrypt_still ..
  · exact .refl _

theorem State.dropWaiter_still (s : State) (w : Who) : Still s (s.dropWaiter w) := by
  unfold State.dropWaiter; split <;> exact ⟨rfl, rfl⟩

theorem State.threadFault_still (s : State) (w : Who) (cause : BitVec 4) (pc addr : Word) :
    Still s (s.threadFault w cause pc addr) :=
  ((s.dropWaiter_still w).trans ⟨rfl, rfl⟩).trans (State.cond_still ..)

theorem State.endThread_still (s : State) (w : Who) : Still s (s.endThread w) :=
  ((s.dropWaiter_still w).trans ⟨rfl, rfl⟩).trans (State.cond_still ..)

theorem State.wakePark_still (s : State) (w : Who) : Still s (s.wakePark w) := by
  unfold State.wakePark; dsimp only; split
  · split
    · exact State.threadFault_still ..
    · exact ⟨rfl, rfl⟩
  · exact .refl _

theorem State.wakeParks_still (s : State) (a n : Nat) : Still s (s.wakeParks a n) := by
  unfold State.wakeParks
  refine Still.foldl (fun t e => ?_) _ _
  split
  · split
    · exact State.wakePark_still ..
    · exact .refl _
  · exact .refl _

/-! ### What an agent sends -/

theorem State.freeCells_still (s : State) (d lane : Nat) (p : JPkt) : Still s (s.freeCells d lane p) := by
  unfold State.freeCells; dsimp only; split <;> exact ⟨rfl, rfl⟩

theorem State.joistSend_still (s : State) (d lane : Nat) (ty : BitVec 4) (p : JPkt) (org : Option (BitVec 2 × BitVec 6))
    (mark : Bool) (port : Option Nat) : Still s (s.joistSend d lane ty p org mark port) := by
  unfold State.joistSend; dsimp only
  split
  · exact .refl _
  split
  · have h : ∀ u : State, Still s u → Still s (if p.cls.toNat = 0 then
        u.meter (.lane d lane) (s.packetPort p org port) (16 + p.payload.length) mark else u) := fun u hu => by
      split
      · exact hu.trans (State.meter_still ..)
      · exact hu
    split
    · refine Still.trans ?_ (State.freeCells_still ..)
      exact h _ ⟨rfl, rfl⟩
    · exact h _ ⟨rfl, rfl⟩
  · exact ⟨rfl, rfl⟩

theorem State.sendRemote_still (s : State) (g : Agent) (ty : BitVec 4) (p : JPkt) : Still s (s.sendRemote g ty p) := by
  unfold State.sendRemote; dsimp only; split
  · exact ⟨rfl, rfl⟩
  · exact Still.trans ⟨rfl, rfl⟩ (State.joistSend_still ..)

theorem State.sendOp_still (s : State) (g : Agent) (read lf : Bool) (dev l n : Nat) (rel : Bool) (bs : List Byte) :
    Still s (s.sendOp g read lf dev l n rel bs) := by
  have h := State.sendRemote_still s g (if read then 1 else if lf then 4 else 3)
    (s.remotePkt g dev l n (if lf then 4 else 0) rel bs)
  unfold State.sendOp; dsimp only; split
  · exact h.trans ⟨rfl, rfl⟩
  · exact h

theorem State.hbmRequest_still (s : State) (g : Agent) (a n : Nat) : Still s (s.hbmRequest g a n).1 := by
  unfold State.hbmRequest
  split
  · split
    · exact State.meter_still ..
    · exact .refl _
  · split
    · split
      · dsimp only; split
        · exact ⟨rfl, rfl⟩
        · split <;> exact ⟨rfl, rfl⟩
      · exact .refl _
    · exact .refl _

/-! ### Reads -/

/-- A read of one piece leaves memory and the queue as they were. -/
theorem State.readPiece_still (s : State) (g : Agent) (a n : Nat) : Still s (s.readPiece g a n).1 := by
  unfold State.readPiece
  split
  · rename_i l _
    split
    · exact .refl _
    · rename_i key _
      have hq := State.hbmRequest_still s g l n
      revert hq
      generalize s.hbmRequest g l n = q
      intro hq
      dsimp only
      split
      · exact hq
      · split
        · exact hq
        · split
          · exact hq
          · exact hq.trans (State.blockCheck_still ..)
  · split <;> exact .refl _
  · split <;> exact .refl _
  · split <;> exact .refl _
  · split <;> exact ⟨rfl, rfl⟩
  · exact .refl _
  · exact .refl _
  · exact .refl _

theorem State.readPieces_still (g : Agent) (r : MemResult) (ps : List (Nat × Nat)) :
    Still r.1 (State.readPieces g r ps).1 := by
  unfold State.readPieces
  induction ps generalizing r with
  | nil => exact .refl _
  | cons p ps ih =>
    rw [List.foldl_cons]
    refine Still.trans ?_ (ih _)
    split
    · exact .refl _
    · exact State.readPiece_still ..

/-- A read leaves memory and the queue as they were. -/
theorem State.memRead_still (s : State) (g : Agent) (a n : Nat) : Still s (s.memRead g a n).1 := by
  have key : ∀ (l : List (Nat × Nat)) (r : MemResult), Still r.1 (l.foldl (fun (r : MemResult) p =>
      State.readPieces g r (if (r.1.placeOf g p.1).isRemote then [p] else piecesOf 64 p.1 p.2)) r).1 := fun l => by
    induction l with
    | nil => exact fun r => .refl _
    | cons p l ih => exact fun r => (State.readPieces_still ..).trans (ih _)
  exact key _ _

@[simp] theorem State.memRead_mem (s : State) (g : Agent) (a n : Nat) : (s.memRead g a n).1.mem = s.mem :=
  (s.memRead_still g a n).1

@[simp] theorem State.memRead_pending (s : State) (g : Agent) (a n : Nat) : (s.memRead g a n).1.pending = s.pending :=
  (s.memRead_still g a n).2

/-! ### Writes -/

/-- An operation keeps the queue of waiting commands, and the canonical form of memory. -/
def Sound (s t : State) : Prop := t.pending = s.pending ∧ (Memory.wf s.mem → Memory.wf t.mem)

theorem Still.sound {s t : State} (h : Still s t) : Sound s t := ⟨h.2, fun w => by rw [h.1]; exact w⟩

theorem Sound.trans {s t u : State} (h : Sound s t) (k : Sound t u) : Sound s u := ⟨k.1.trans h.1, fun w => k.2 (h.2 w)⟩

theorem Sound.foldl {α β : Type} {f : State × β → α → State × β} (hf : ∀ r x, Sound r.1 (f r x).1) (l : List α)
    (r : State × β) : Sound r.1 (l.foldl f r).1 := by
  induction l generalizing r with
  | nil => exact (Still.refl _).sound
  | cons x l ih => exact (hf r x).trans (ih _)

theorem State.putBytes_sound (s : State) (a : Nat) (bs : List Byte) : Sound s (s.putBytes a bs) :=
  ⟨rfl, State.putBytes_mem_wf s a bs⟩

theorem State.clearBytes_sound (s : State) (a n : Nat) : Sound s (s.clearBytes a n) := ⟨rfl, State.clearBytes_mem_wf s a n⟩

theorem State.zeroFresh_sound (s : State) (key a : Nat) : Sound s (s.zeroFresh key a) := by
  unfold State.zeroFresh; split
  · exact State.clearBytes_sound ..
  · exact (Still.refl _).sound

/-- A write within a block keeps the canonical form (R220 to R222). -/
theorem State.blockWrite_sound (s : State) (a : Nat) (bs : List Byte) : Sound s (s.blockWrite a bs).1 := by
  unfold State.blockWrite
  split
  · exact (Still.refl _).sound
  · rename_i key _
    dsimp only
    split
    · exact (Still.refl _).sound
    split
    · exact (Still.refl _).sound
    · have hc : Still s (if (decide (bs.length = 256)) = true ∨ s.ver0 key = 0 then s.lineCheck a key
          else s.blockCheck a key).1 := by
        split
        · exact State.lineCheck_still ..
        · exact State.blockCheck_still ..
      revert hc
      generalize (if (decide (bs.length = 256)) = true ∨ s.ver0 key = 0 then s.lineCheck a key
          else s.blockCheck a key) = c
      intro hc
      split
      · exact hc.sound
      · refine Sound.trans ?_ (State.putBytes_sound ..)
        refine Sound.trans ((hc.trans (State.roomForVersion_still c.1 key)).sound.trans (State.zeroFresh_sound _ key a)) ?_
        exact ((State.macGood_still ..).trans (State.treeWrite_still ..)).sound

/-- A write within a line of Press or Drawer keeps the canonical form. -/
theorem State.lineWrite_sound (s : State) (a : Nat) (bs : List Byte) : Sound s (s.lineWrite a bs).1 := by
  unfold State.lineWrite
  split
  · split
    · refine Sound.trans ?_ (State.putBytes_sound ..)
      exact Still.sound ⟨rfl, rfl⟩
    · exact (Still.refl _).sound
  · exact State.putBytes_sound ..

theorem State.linesWrite_sound (s : State) (a : Nat) (bs : List Byte) : Sound s (s.linesWrite a bs).1 := by
  unfold State.linesWrite
  refine Sound.foldl (fun r p => ?_) _ _
  split
  · exact (Still.refl _).sound
  · dsimp only; split
    · exact (State.lineWrite_sound ..).trans (State.wakeParks_still ..).sound
    · exact State.lineWrite_sound ..

/-- A write of one piece keeps the canonical form, wherever it goes. -/
theorem State.writePiece_sound (s : State) (g : Agent) (rel : Bool) (ex : Option (BitVec 5 × Nat)) (a : Nat)
    (bs : List Byte) : Sound s (s.writePiece g rel ex a bs).1 := by
  unfold State.writePiece
  dsimp only
  split
  · exact (Still.refl _).sound
  · split
    · split
      · exact (State.hbmRequest_still ..).sound
      · exact (State.hbmRequest_still ..).sound.trans (State.blockWrite_sound ..)
    · exact State.linesWrite_sound ..
    · exact State.linesWrite_sound ..
    · split
      · exact (Still.refl _).sound
      · split <;> exact Still.sound ⟨rfl, rfl⟩
    · exact (State.sendOp_still ..).sound
    · exact (Still.refl _).sound
    · exact (Still.refl _).sound
    · exact (Still.refl _).sound

/-- A write of a range keeps the queue and the canonical form. -/
theorem State.memWrite_sound (s : State) (g : Agent) (rel : Bool) (ex : Option (BitVec 5 × Nat)) (a : Nat)
    (bs : List Byte) : Sound s (s.memWrite g rel ex a bs).1 := by
  unfold State.memWrite
  refine Sound.foldl (fun r p => ?_) _ _
  split
  · exact (Still.refl _).sound
  · exact State.writePiece_sound ..

@[simp] theorem State.memWrite_pending (s : State) (g : Agent) (rel : Bool) (ex : Option (BitVec 5 × Nat)) (a : Nat)
    (bs : List Byte) : (s.memWrite g rel ex a bs).1.pending = s.pending := (s.memWrite_sound g rel ex a bs).1

theorem State.memWrite_mem_wf (s : State) (g : Agent) (rel : Bool) (ex : Option (BitVec 5 × Nat)) (a : Nat)
    (bs : List Byte) (h : Memory.wf s.mem) : Memory.wf (s.memWrite g rel ex a bs).1.mem :=
  (s.memWrite_sound g rel ex a bs).2 h

/-! ### The MACs of HBM (R218, R219) -/

/-- The controller finds an item bad exactly where the MAC that the stack stores differs from that of the contents. -/
theorem State.mac_mismatch_iff (s : State) (memKey macKey : List Byte) (level key : Nat) (plain : List Byte) :
    s.macBad (macItem level key) = true ↔
      s.storedMac memKey macKey level key plain ≠ s.macOf memKey macKey level key plain := by
  simp only [State.macBad, State.storedMac, ne_eq, decide_not, Bool.not_eq_true', decide_eq_false_iff_not]
  refine not_congr ⟨fun h => by rw [h]; simp, fun h => ?_⟩
  have := congrArg (fun x => s.macOf memKey macKey level key plain ^^^ x) h
  simpa [← BitVec.xor_assoc] using this

end Sys2Proof.Machine
end

