-- ==== Sys2Proof/Laws/Ops.lean ====
section
/-!
SUPPORT. What each shared operation can do, said once: a command of a thread, of an engine, of the mailbox and of a send
queue, a packet that arrives, a fault of a thread, and a step. Reads and writes of memory keep the queue of waiting commands.
-/

namespace Sys2Proof.Machine

/-! ### A step -/

theorem step_empty (s : State) (h : s.pending = []) : step s = .next (tick s) := by simp only [step, h]

theorem step_front (s : State) (c : Instr) (rest : List Instr) (h : s.pending = c :: rest) :
    step s = exec c { s with pending := rest } := by simp only [step, h]

/-- A step is a cycle without a command, or the front command's effect. -/
theorem step_cases (s : State) :
    (s.pending = [] ∧ step s = .next (tick s)) ∨
    ∃ c rest, s.pending = c :: rest ∧ step s = exec c { s with pending := rest } := by
  cases h : s.pending with
  | nil => exact .inl ⟨rfl, step_empty s h⟩
  | cons c rest => exact .inr ⟨c, rest, rfl, step_front s c rest h⟩

/-! ### A command of a thread -/

/-- What a thread command does: the instruction's body on the state in which its thread has issued, a fault of the fetch,
ILLEGAL, the instruction passed under a false guard, or nothing. -/
theorem threadExec_cases (i : Instr) (w : Who) (gp : BitVec 3) (reads : List (BitVec 5)) (body : Thread → State → State)
    (s : State) :
    (s.issues w i gp reads = true ∧
      threadExec i w gp reads body s = body ((s.took w (slowInstr i)).thread w) (s.took w (slowInstr i))) ∨
    (s.active w = true ∧ s.turn w = true ∧
      ((s.fetch w = .bad ∧ threadExec i w gp reads body s = (s.took w false).threadFault w fcFetch (s.thread w).pc 0) ∨
      (∃ v, s.fetch w = .word v ∧ decodeThreadWord w v = none ∧
        threadExec i w gp reads body s = (s.took w false).threadFault w fcIllegal (s.thread w).pc 0) ∨
      (∃ v, s.fetch w = .word v ∧ decodeThreadWord w v = some i ∧ (s.thread w).pred gp = false ∧
        threadExec i w gp reads body s = (s.took w false).setThread w ((s.took w false).thread w).step))) ∨
    threadExec i w gp reads body s = s := by
  unfold threadExec
  by_cases h : s.issues w i gp reads = true
  · exact .inl ⟨h, if_pos h⟩
  rw [if_neg h]
  by_cases ha : s.active w = true ∧ s.turn w = true
  · rw [if_neg (not_not.2 ha)]
    cases hf : s.fetch w with
    | miss => exact .inr (.inr rfl)
    | bad => exact .inr (.inl ⟨ha.1, ha.2, .inl ⟨rfl, rfl⟩⟩)
    | word v =>
      cases hd : decodeThreadWord w v with
      | none => exact .inr (.inl ⟨ha.1, ha.2, .inr (.inl ⟨v, rfl, hd, by simp only [hd]⟩)⟩)
      | some j =>
        simp only [hd]
        split
        · rename_i hj
          obtain ⟨rfl, hp⟩ := hj
          exact .inr (.inl ⟨ha.1, ha.2, .inr (.inr ⟨v, rfl, hd, by simpa using hp, rfl⟩)⟩)
        · exact .inr (.inr rfl)
  · rw [if_pos ha]; exact .inr (.inr rfl)

/-- An instruction that its thread issues does what its body says. -/
theorem threadExec_issues (i : Instr) (w : Who) (gp : BitVec 3) (reads : List (BitVec 5)) (body : Thread → State → State)
    (s : State) (h : s.issues w i gp reads = true) :
    threadExec i w gp reads body s = body ((s.took w (slowInstr i)).thread w) (s.took w (slowInstr i)) := if_pos h

/-- An issued instruction's thread is READY and has the turn, and its word stands at the PC. -/
theorem State.issues_active (s : State) (w : Who) (i : Instr) (gp : BitVec 3) (reads : List (BitVec 5))
    (h : s.issues w i gp reads = true) : s.active w = true ∧ s.turn w = true ∧ (s.thread w).pred gp = true ∧
    ∃ v, s.fetch w = .word v ∧ decodeThreadWord w v = some i := by
  simp only [State.issues, Bool.and_eq_true] at h
  obtain ⟨⟨⟨⟨⟨ha, ht⟩, hf⟩, hp⟩, -⟩, -⟩ := h
  refine ⟨ha, ht, hp, ?_⟩
  cases hw : s.fetch w with
  | miss => simp [hw] at hf
  | bad => simp [hw] at hf
  | word v => exact ⟨v, rfl, by simpa [hw] using hf⟩

/-- A thread that has issued differs from what it was only in the latency it may be in, and its core in its last issuer. -/
@[simp] theorem State.took_thread (s : State) (w : Who) (slow : Bool) :
    (s.took w slow).thread w = { s.thread w with lat := slow } := State.thread_setThread_same ..

theorem State.took_still (s : State) (w : Who) (slow : Bool) : Still s (s.took w slow) := ⟨rfl, rfl⟩

@[simp] theorem State.took_regs (s : State) (w : Who) (slow : Bool) : (s.took w slow).regs = s.regs := rfl

/-! ### A command of an engine -/

/-- What an entry of an engine's queue comes to as the row of an opcode: nothing, or its end with a status: that of its read,
TAG_MISMATCH, that of an opcode without a row, or what its body answers, once no data of another device are missing. -/
theorem engineCmd_cases (k : Nat) (e : Engine) (i : Nat) (x : EngEntry) (valid : Nat → Bool) (op : Nat) (inv : Status)
    (held : Desc → Bool) (body : Agent → EngEntry → Desc → State → Ran) (s : State) :
    let r := s.memRead (entryAgent k x) x.desc 64
    let d : Desc := r.2.2
    let t := engineCmd k e i x valid op inv held body s
    t = s ∨
    (r.2.1 ≠ stOk ∧ t = r.1.finishEntry k e i (List.replicate 64 0) r.2.1 none) ∨
    (r.2.1 = stOk ∧ d.tagOk x.pid x.pgen = false ∧ t = r.1.finishEntry k e i d stTag none) ∨
    (r.2.1 = stOk ∧ d.tagOk x.pid x.pgen = true ∧ valid (d.n 0 1) = false ∧ t = r.1.finishEntry k e i d inv none) ∨
    (r.2.1 = stOk ∧ d.tagOk x.pid x.pgen = true ∧ d.n 0 1 = op ∧ held d = false ∧ s.admits x.cls = true ∧
      t = s.settle (.command x.num) ((body (cmdAgent k x d) x d r.1).1.finishEntry k e i d
        (body (cmdAgent k x d) x d r.1).2.1 (body (cmdAgent k x d) x d r.1).2.2)) := by
  intro r d t
  show t = s ∨ _
  simp only [t, engineCmd]
  split
  · exact .inl rfl
  rename_i hh
  split
  · exact .inr (.inl ⟨‹_›, rfl⟩)
  have hr : r.2.1 = stOk := not_not.1 ‹_›
  split
  · exact .inl rfl
  split
  · exact .inr (.inr (.inl ⟨hr, Bool.eq_false_iff.2 ‹_›, rfl⟩))
  have ht : d.tagOk x.pid x.pgen = true := not_not.1 ‹_›
  split
  · exact .inr (.inr (.inr (.inl ⟨hr, ht, Bool.eq_false_iff.2 ‹_›, rfl⟩)))
  split
  · exact .inl rfl
  · exact .inr (.inr (.inr (.inr ⟨hr, ht, not_not.1 ‹_›, by simpa using (not_or.1 (not_or.1 hh).2).1,
      not_not.1 (not_or.1 (not_or.1 hh).2).2, rfl⟩)))

/-- An engine that takes its queue in order does nothing, or takes the first entry that waits. -/
theorem fifoCmd_cases (k : Nat) (e : Engine) (valid : Nat → Bool) (op : Nat) (inv : Status)
    (held : Nat → EngEntry → Desc → Bool) (body : Agent → EngEntry → Desc → State → Ran) (s : State) :
    fifoCmd k e valid op inv held body s = s ∨
    ∃ i x, s.engReady k = true ∧ firstWaiting ((s.core k).q e) = some (i, x) ∧
      fifoCmd k e valid op inv held body s = engineCmd k e i x valid op inv (held i x) body s := by
  unfold fifoCmd
  by_cases h : s.engReady k = true
  · rw [if_neg (not_not.2 h)]
    cases hf : firstWaiting ((s.core k).q e) with
    | none => exact .inl rfl
    | some p => exact .inr ⟨p.1, p.2, h, rfl, rfl⟩
  · rw [if_pos h]; exact .inl rfl

/-- The matrix engine does nothing, or takes the entry that its order of queues picks. -/
theorem mxeCmd_cases (k op : Nat) (body : Agent → EngEntry → Desc → State → Ran) (s : State) :
    mxeCmd k op body s = s ∨
    ∃ i x, s.engReady k = true ∧ s.mxePick k (if mxeArray op then mxeArray else mxeDrain) = some (i, x) ∧
      mxeCmd k op body s = engineCmd k .mxe i x mxeValid op stOperand (fun _ => false) body s := by
  unfold mxeCmd
  by_cases h : s.engReady k = true
  · rw [if_neg (not_not.2 h)]
    cases hf : s.mxePick k (if mxeArray op then mxeArray else mxeDrain) with
    | none => exact .inl rfl
    | some p => exact .inr ⟨p.1, p.2, h, rfl, rfl⟩
  · rw [if_pos h]; exact .inl rfl

/-- The first entry that waits has no status, and every entry before it has one. -/
theorem firstWaiting_some (q : List EngEntry) (i : Nat) (x : EngEntry) (h : firstWaiting q = some (i, x)) :
    q[i]? = some x ∧ x.status = none := by
  unfold firstWaiting at h
  cases hf : q.zipIdx.find? (fun p => p.1.status.isNone) with
  | none => simp [hf] at h
  | some p =>
    simp only [hf, Option.map_some, Option.some.injEq] at h
    cases h
    have hm := List.mem_of_find?_eq_some hf
    have hs := List.find?_some hf
    exact ⟨by simpa [List.mem_zipIdx_iff_getElem?] using hm, by simpa using hs⟩

/-! ### What a run comes to -/

/-- A run that needed nothing of another device stands as it is, its answers used up. -/
theorem State.settle_done (s r : State) (doer : Doer) (h : r.run.asks = []) :
    s.settle doer r = { r with remote := r.remote.filter (fun o => !(o.read && o.doer = doer)), run := RunSt.reset } := by
  unfold State.settle; rw [h]; rfl

/-- A run that needs data of other devices is undone, and sends for them. -/
theorem State.settle_asks (s r : State) (doer : Doer) (h : r.run.asks ≠ []) : s.settle doer r = s.sendAsks r.run.asks := by
  unfold State.settle; rw [if_neg (by simpa using h)]

/-! ### A command of the mailbox -/

/-- What a mailbox command does: nothing, or, once no data of another device are missing, the answer to the front request,
its start, or its wait. -/
theorem rtpRow_cases (c : RtpCmd) (body : RtpReq → Desc → State → RtpOut) (s : State) :
    rtpRow c body s = s ∨
    ∃ r rest, s.rtp.queue = r :: rest ∧ s.rtpReady = true ∧
      ((∃ t q st b, rtpRow c body s = s.settle .rtp (({ t with rtp := { t.rtp with queue := t.rtp.queue.drop 1 } } : State).respond r q st b) ∧
          (t = (s.rtpRead r).1 ∨ body r (s.rtpRead r).2.2 (s.rtpRead r).1 = .done t st b)) ∨
        (∃ t, body r (s.rtpRead r).2.2 (s.rtpRead r).1 = .going t ∧
          rtpRow c body s = s.settle .rtp { t with rtp := { t.rtp with queue := t.rtp.queue.drop 1 } }) ∨
        ∃ t, body r (s.rtpRead r).2.2 (s.rtpRead r).1 = .wait t ∧ rtpRow c body s = s.settle .rtp t) := by
  cases hq : s.rtp.queue with
  | nil => exact .inl (by simp only [rtpRow, hq])
  | cons r rest =>
    by_cases hr : s.rtpReady = true
    swap
    · exact .inl (by simp only [rtpRow, hq, hr]; rfl)
    unfold rtpRow
    rw [hq]
    dsimp only
    rw [if_neg (not_not.2 hr)]
    generalize hx : s.rtpRead r = x
    obtain ⟨s1, st, q⟩ := x
    dsimp only
    by_cases h0 : rowOf q ≠ 0 ∧ rowOf q ≠ c.row
    · rw [if_pos h0]; exact .inl rfl
    rw [if_neg h0]
    refine .inr ⟨r, rest, rfl, hr, ?_⟩
    simp only [hx]
    by_cases h1 : st ≠ stOk
    · rw [if_pos h1]; exact .inl ⟨_, _, _, _, rfl, .inl rfl⟩
    rw [if_neg h1]
    by_cases h2 : ¬ s1.rtpTag r q = true
    · rw [if_pos h2]; exact .inl ⟨_, _, _, _, rfl, .inl rfl⟩
    rw [if_neg h2]
    by_cases h3 : rowOf q = 0 ∨ ¬ bodyOk q c.used = true ∨ (r.host = true ∧ ¬ c.host = true) ∨
        (¬ r.host = true ∧ ¬ c.part = true)
    · rw [if_pos h3]; exact .inl ⟨_, _, _, _, rfl, .inl rfl⟩
    rw [if_neg h3]
    by_cases h4 : s1.rtpGate r (rowOf q) ≠ stOk
    · rw [if_pos h4]; exact .inl ⟨_, _, _, _, rfl, .inl rfl⟩
    rw [if_neg h4]
    by_cases h5 : s1.power = 2 ∧ ¬ c.alone = true
    · rw [if_pos h5]; exact .inl ⟨_, _, _, _, rfl, .inl rfl⟩
    rw [if_neg h5]
    cases hb : body r q s1 with
    | wait t => exact .inr (.inr ⟨t, rfl, rfl⟩)
    | done t st b => exact .inl ⟨t, _, _, _, rfl, .inr rfl⟩
    | going t => exact .inr (.inl ⟨t, rfl, rfl⟩)

/-! ### Packets that arrive -/

/-- A packet of the Mitre network: nothing, the management ring, a counter, the miss buffer, or its peer. -/
theorem State.arrive_cases (s : State) (ty : Nat) (f : Frame) :
    s.arrive ty f = s ∨ s.arrive ty f = s.toMgmt f ∨
    (∃ t : State, (t = s ∨ t = s.wakeDoze 2) ∧ ∃ p off, s.arrive ty f = t.bump p off 1) ∨
    (∃ t : State, (t = s ∨ t = s.wakeDoze 2) ∧
      (s.arrive ty f = (t.toMiss f.peer f).noteFetch f.peer ∨ s.arrive ty f = (t.toMiss f.peer f).startFetch f.peer)) ∨
    ∃ t : State, (t = s ∨ t = s.wakeDoze 2) ∧ s.arrive ty f = (t.touch f.peer).packet f.peer f := by
  unfold State.arrive
  split
  · exact .inl rfl
  split
  · exact .inr (.inl rfl)
  split
  · exact .inr (.inr (.inl ⟨s, .inl rfl, mitrePage (f.port.toNat / 2), 0x13C, rfl⟩))
  split
  · exact .inl rfl
  dsimp only
  have hw : (if s.power = 1 ∧ ¬ (s.rd (.dieE tyClocks) 0x120).getLsbD 0 = true then s else s.wakeDoze 2) = s ∨
      (if s.power = 1 ∧ ¬ (s.rd (.dieE tyClocks) 0x120).getLsbD 0 = true then s else s.wakeDoze 2) = s.wakeDoze 2 := by
    split
    · exact .inl rfl
    · exact .inr rfl
  revert hw
  generalize (if s.power = 1 ∧ ¬ (s.rd (.dieE tyClocks) 0x120).getLsbD 0 = true then s else s.wakeDoze 2) = t
  intro hw
  cases hp : s.peer f.peer with
  | none =>
    dsimp only
    rw [if_pos (by decide)]
    exact .inr (.inr (.inl ⟨t, hw, mitrePage (homeOf f.peer), 0x124, rfl⟩))
  | some p =>
    dsimp only
    split
    · exact .inr (.inr (.inl ⟨t, hw, mitrePage (homeOf f.peer), 0x124, rfl⟩))
    split
    · exact .inr (.inr (.inr (.inl ⟨t, hw, .inl rfl⟩)))
    split
    · exact .inr (.inr (.inr (.inr ⟨t, hw, rfl⟩)))
    · exact .inr (.inr (.inr (.inl ⟨t, hw, .inr rfl⟩)))

/-- A packet of Joist: nothing, the held buffer, or its delivery once what was held has been. -/
theorem State.joistIn_cases (s : State) (d lane ty : Nat) (p : JPkt) :
    s.joistIn d lane ty p = s ∨
    (s.power = 1 ∧ let s1 := s.takeCells d lane p
      s.joistIn d lane ty p = s1.setDie d { s1.die d with
        vcHeld := (s1.die d).vcHeld ++ [(BitVec.ofNat 6 lane, BitVec.ofNat 4 ty, p)] }) ∨
    ((s.link d lane).up = true ∧
      s.joistIn d lane ty p = (((s.wakeDoze 3).drainHeld d).takeCells d lane p).deliver d lane ty p) := by
  unfold State.joistIn
  dsimp only
  split
  · exact .inl rfl
  rename_i h
  split
  · rename_i hp; exact .inr (.inl ⟨hp.1, rfl⟩)
  · refine .inr (.inr ⟨?_, rfl⟩)
    by_contra hu
    exact h (.inr (.inr (.inr (.inl hu))))

/-- A delivered packet is forwarded, is a response, or is served. -/
theorem State.deliver_cases (s : State) (d lane ty : Nat) (p : JPkt) :
    (s.devNum d ≠ some p.dst.toNat ∧ s.deliver d lane ty p = s.forward d lane ty p) ∨
    (s.devNum d = some p.dst.toNat ∧ (ty = 2 ∨ ty = 5) ∧ s.deliver d lane ty p = (s.freeCells d lane p).response p) ∨
    (s.devNum d = some p.dst.toNat ∧ ¬ (ty = 2 ∨ ty = 5) ∧
      s.deliver d lane ty p = (s.freeCells d lane p).serve d lane ty p) := by
  unfold State.deliver
  by_cases h : s.devNum d = some p.dst.toNat
  · rw [if_neg (not_not.2 h)]
    by_cases ht : ty = 2 ∨ ty = 5
    · exact .inr (.inl ⟨h, ht, if_pos ht⟩)
    · exact .inr (.inr ⟨h, ht, if_neg ht⟩)
  · exact .inl ⟨h, if_pos h⟩

/-! ### A command of the DMA helper -/

/-- The DMA helper does nothing, or ends the first entry that waits, with the status of its read, DMA_OPERAND_INVALID,
TAG_MISMATCH, or what its body answers once no data of another device are missing. -/
theorem dmaCmd_cases (k op : Nat) (body : Agent → EngEntry → Desc → State → Ran) (s : State) :
    dmaCmd k op body s = s ∨
    ∃ i x, s.engReady k = true ∧ firstWaiting (s.core k).dmaQ = some (i, x) ∧
      let r := s.memRead (entryAgent k x) x.desc 64
      let d : Desc := r.2.2
      let t := dmaCmd k op body s
      (r.2.1 ≠ stOk ∧ t = r.1.finishEntry k .dma i (List.replicate 64 0) r.2.1 none) ∨
      (r.2.1 = stOk ∧ t = r.1.finishEntry k .dma i d stDma none) ∨
      (r.2.1 = stOk ∧ d.tagOk x.pid x.pgen = false ∧ t = r.1.finishEntry k .dma i d stTag none) ∨
      (r.2.1 = stOk ∧ d.tagOk x.pid x.pgen = true ∧ d.n 0 1 = op ∧ dmaFields r.1 (cmdAgent k x d) d = true ∧
        t = s.settle (.command x.num) ((body (cmdAgent k x d) x d r.1).1.finishEntry k .dma i d
          (body (cmdAgent k x d) x d r.1).2.1 (body (cmdAgent k x d) x d r.1).2.2)) := by
  by_cases h : s.engReady k = true
  swap
  · exact .inl (by unfold dmaCmd; exact if_pos h)
  cases hf : firstWaiting (s.core k).dmaQ with
  | none => exact .inl (by unfold dmaCmd; rw [if_neg (not_not.2 h), hf])
  | some p =>
    obtain ⟨i, x⟩ := p
    unfold dmaCmd
    rw [if_neg (not_not.2 h), hf]
    dsimp only
    split
    · exact .inl rfl
    by_cases hr : (s.memRead (entryAgent k x) x.desc 64).2.1 ≠ stOk
    · rw [if_pos hr]; exact .inr ⟨i, x, h, rfl, .inl ⟨hr, rfl⟩⟩
    rw [if_neg hr]
    have hr := not_not.1 hr
    split
    · exact .inl rfl
    split
    · exact .inr ⟨i, x, h, rfl, .inr (.inl ⟨hr, rfl⟩)⟩
    split
    · exact .inl rfl
    rename_i ho
    split
    · exact .inr ⟨i, x, h, rfl, .inr (.inl ⟨hr, rfl⟩)⟩
    rename_i hd
    split
    · exact .inr ⟨i, x, h, rfl, .inr (.inr (.inl ⟨hr, Bool.eq_false_iff.2 ‹_›, rfl⟩))⟩
    rename_i hg
    exact .inr ⟨i, x, h, rfl, .inr (.inr (.inr ⟨hr, not_not.1 hg, not_not.1 ho, not_not.1 hd, rfl⟩))⟩

/-! ### A command of a send queue -/

/-- What a command of a send queue does: nothing, a record for its front item, or, once no data of another device are
missing, its body's answer: it leaves the item in its place, ends it, or goes on. -/
theorem sqCmd_cases (d : Nat) (q : BitVec 12) (row : Nat) (body : Agent → Desc → Nat → State → State × SqOut) (s : State) :
    let finish := fun (rest : List (Word × Producer)) (t : State) (late : Bool) (st : Status) (kind peer user a : Nat) =>
      (t.setQueue d q { t.queue d q with entries := rest }).finishOp d q late st kind peer 0 0 user a
    sqCmd d q row body s = s ∨
    ∃ m item by' rest, s.mq d q = some m ∧ s.engOn = true ∧ (s.queue d q).entries = (item, by') :: rest ∧
      ((∃ t late st kind peer user a, Still s t ∧ sqCmd d q row body s = finish rest t late st kind peer user a) ∨
        ∃ g e a s1 doer, sqCmd d q row body s = s.settle doer (match (body g e a s1).2 with
          | .stay => (body g e a s1).1
          | .done st peer user => finish rest (body g e a s1).1 (delayable (BitVec.ofNat 2 (e.bits 2 0 2)) (body g e a s1).1.run.demoted)
              st (sqKind (sqRow e)) peer user a
          | .going => (body g e a s1).1.setQueue d q { (body g e a s1).1.queue d q with entries := rest })) := by
  intro finish
  cases hm : s.mq d q with
  | none => exact .inl (by unfold sqCmd; rw [hm])
  | some m =>
    by_cases hb : ¬ s.engOn = true ∨ m.isRq = true ∨ m.hold.isSome = true ∨ s.cqBlocked d q = true
    · exact .inl (by unfold sqCmd; rw [hm]; exact if_pos hb)
    have he : s.engOn = true := by by_contra hn; exact hb (.inl hn)
    cases hq : (s.queue d q).entries with
    | nil => exact .inl (by unfold sqCmd; rw [hm]; dsimp only; rw [if_neg hb, hq])
    | cons x rest =>
      obtain ⟨item, by'⟩ := x
      have key : ∀ t, sqCmd d q row body s = t → t = s ∨
          ((∃ u late st kind peer user a, Still s u ∧ t = finish rest u late st kind peer user a) ∨
            ∃ g e a s1 doer, t = s.settle doer (match (body g e a s1).2 with
              | .stay => (body g e a s1).1
              | .done st peer user => finish rest (body g e a s1).1
                  (delayable (BitVec.ofNat 2 (e.bits 2 0 2)) (body g e a s1).1.run.demoted) st (sqKind (sqRow e)) peer user a
              | .going => (body g e a s1).1.setQueue d q { (body g e a s1).1.queue d q with entries := rest })) := fun t ht => by
        have fin : ∀ u late st kind peer user a, Still s u → t = finish rest u late st kind peer user a →
            ∃ u late st kind peer user a, Still s u ∧ t = finish rest u late st kind peer user a :=
          fun u late st kind peer user a h e => ⟨u, late, st, kind, peer, user, a, h, e⟩
        unfold sqCmd at ht
        rw [hm] at ht
        dsimp only at ht
        rw [if_neg hb, hq] at ht
        dsimp only at ht
        by_cases h1 : 2 ^ 40 ≤ item.toNat ∨ item.toNat % 2 ^ 40 % 64 ≠ 0
        · rw [if_pos h1] at ht; exact .inr (.inl (fin _ _ _ _ _ _ _ (.refl s) ht.symm))
        rw [if_neg h1] at ht
        by_cases h2 : ¬ s.takesWork (mitrePage d) = true ∨ (s.part m.pid).st = 3
        · rw [if_pos h2] at ht; exact .inr (.inl (fin _ _ _ _ _ _ _ (.refl s) ht.symm))
        rw [if_neg h2] at ht
        by_cases h3 : s.checkRange (mitreAgent d m.pid (s.clsAt d (item.toNat % 2 ^ 40))) false (item.toNat % 2 ^ 40) 64 ≠ stOk
        · rw [if_pos h3] at ht; exact .inr (.inl (fin _ _ _ _ _ _ _ (.refl s) ht.symm))
        rw [if_neg h3] at ht
        have hst := s.memRead_still (mitreAgent d m.pid (s.clsAt d (item.toNat % 2 ^ 40))) (item.toNat % 2 ^ 40) 64
        revert ht hst
        generalize s.memRead (mitreAgent d m.pid (s.clsAt d (item.toNat % 2 ^ 40))) (item.toNat % 2 ^ 40) 64 = x
        obtain ⟨s1, st, e⟩ := x
        intro ht hst
        dsimp only at ht hst
        by_cases h4 : st ≠ stOk
        · rw [if_pos h4] at ht; exact .inr (.inl (fin _ _ _ _ _ _ _ hst ht.symm))
        rw [if_neg h4] at ht
        by_cases h5 : ¬ Desc.tagOk e m.pid (s.part m.pid).pgen = true
        · rw [if_pos h5] at ht; exact .inr (.inl (fin _ _ _ _ _ _ _ hst ht.symm))
        rw [if_neg h5] at ht
        by_cases h6 : sqRow e = 0 ∨ ¬ mitreHeadOk e = true ∨ 3 ≤ sqRow e ∧ ¬ (q = (s.part m.pid).ctrlSq ∧ d = s.ctrlDie m.pid)
        · rw [if_pos h6] at ht; exact .inr (.inl (fin _ _ _ _ _ _ _ hst ht.symm))
        rw [if_neg h6] at ht
        by_cases h7 : sqRow e ≠ row
        · rw [if_pos h7] at ht; exact .inl ht.symm
        rw [if_neg h7] at ht
        exact .inr (.inr ⟨_, _, _, _, _, ht.symm⟩)
      exact (key _ rfl).imp id (fun hk => ⟨m, item, by', rest, rfl, he, rfl, hk⟩)

/-! ### A thread that stops (R99, R100) -/

@[simp] theorem State.dropWaiter_threads (s : State) (w : Who) : (s.dropWaiter w).threads = s.threads := by
  unfold State.dropWaiter; split <;> rfl

@[simp] theorem State.faultEvent_threads (s : State) (k : Nat) : (s.faultEvent k).threads = s.threads := by
  unfold State.faultEvent State.cond; split <;> rfl

/-- A fault writes its thread's state, cause, FAULT_PC and FAULT_ADDR, and no memory. -/
theorem State.threadFault_effect (s : State) (w : Who) (cause : BitVec 4) (pc addr : Word) :
    (s.threadFault w cause pc addr).threads = (s.setThread w { s.thread w with
      st := .faulted, cause := cause, faultPc := pc, faultAddr := addr, wait := .none }).threads ∧
    Still s (s.threadFault w cause pc addr) :=
  ⟨by simp only [State.threadFault, State.faultEvent_threads, State.setThread, State.dropWaiter_threads],
    State.threadFault_still ..⟩

/-- HALT and STOP leave the thread IDLE or DRAINING, without a wait and without a cause, and write no memory. -/
theorem State.endThread_effect (s : State) (w : Who) :
    (s.endThread w).threads = (s.setThread w { s.thread w with
      st := if (s.thread w).outstanding = 0 then .idle else .draining, wait := .none, cause := 0 }).threads ∧
    Still s (s.endThread w) :=
  ⟨by simp only [State.endThread, State.faultEvent_threads, State.setThread, State.dropWaiter_threads],
    State.endThread_still ..⟩

end Sys2Proof.Machine
end

