-- ==== Sys2Proof/Laws/PerInstr.lean ====
section
/-!
SUPPORT. The family Encode: what each command's own word, where it has one, carries as its opcode.
-/

namespace Sys2Proof.Laws

theorem encR_op (op : BitVec 6) (gp : BitVec 3) (rd ra rb : BitVec 5) (func : BitVec 8) :
    wbits (encR op gp rd ra rb func) 26 6 = op := by
  apply BitVec.eq_of_getLsbD_eq
  intro i hi
  have h : (encR op gp rd ra rb func).getLsbD (26 + i) = op.getLsbD i := by
    show BitVec.getLsbD (w := 6 + 3 + 5 + 5 + 5 + 8) (op ++ gp ++ rd ++ ra ++ rb ++ func) (26 + i) = op.getLsbD i
    simp only [BitVec.getLsbD_append]
    have h1 : ¬ (26 + i < 8) := by omega
    have h2 : ¬ (26 + i - 8 < 5) := by omega
    have h3 : ¬ (26 + i - 8 - 5 < 5) := by omega
    have h4 : ¬ (26 + i - 8 - 5 - 5 < 5) := by omega
    have h5 : ¬ (26 + i - 8 - 5 - 5 - 5 < 3) := by omega
    simp only [h1, h2, h3, h4, h5, if_false]
    congr 1; omega
  simp [wbits, hi, h]

theorem encI_op (op : BitVec 6) (gp : BitVec 3) (rd ra : BitVec 5) (imm : BitVec 13) :
    wbits (encI op gp rd ra imm) 26 6 = op := by
  apply BitVec.eq_of_getLsbD_eq
  intro i hi
  have h : (encI op gp rd ra imm).getLsbD (26 + i) = op.getLsbD i := by
    show BitVec.getLsbD (w := 6 + 3 + 5 + 5 + 13) (op ++ gp ++ rd ++ ra ++ imm) (26 + i) = op.getLsbD i
    simp only [BitVec.getLsbD_append]
    have h1 : ¬ (26 + i < 13) := by omega
    have h2 : ¬ (26 + i - 13 < 5) := by omega
    have h3 : ¬ (26 + i - 13 - 5 < 5) := by omega
    have h4 : ¬ (26 + i - 13 - 5 - 5 < 3) := by omega
    simp only [h1, h2, h3, h4, if_false]
    congr 1; omega
  simp [wbits, hi, h]

theorem encM_op (op : BitVec 6) (gp : BitVec 3) (rd : BitVec 5) (hw : BitVec 2) (imm : BitVec 16) :
    wbits (encM op gp rd hw imm) 26 6 = op := by
  apply BitVec.eq_of_getLsbD_eq
  intro i hi
  have h : (encM op gp rd hw imm).getLsbD (26 + i) = op.getLsbD i := by
    show BitVec.getLsbD (w := 6 + 3 + 5 + 2 + 16) (op ++ gp ++ rd ++ hw ++ imm) (26 + i) = op.getLsbD i
    simp only [BitVec.getLsbD_append]
    have h1 : ¬ (26 + i < 16) := by omega
    have h2 : ¬ (26 + i - 16 < 2) := by omega
    have h3 : ¬ (26 + i - 16 - 2 < 5) := by omega
    have h4 : ¬ (26 + i - 16 - 2 - 5 < 3) := by omega
    simp only [h1, h2, h3, h4, if_false]
    congr 1; omega
  simp [wbits, hi, h]

theorem encJ_op (op : BitVec 6) (gp : BitVec 3) (off : BitVec 23) :
    wbits (encJ op gp off) 26 6 = op := by
  apply BitVec.eq_of_getLsbD_eq
  intro i hi
  have h : (encJ op gp off).getLsbD (26 + i) = op.getLsbD i := by
    show BitVec.getLsbD (w := 6 + 3 + 23) (op ++ gp ++ off) (26 + i) = op.getLsbD i
    simp only [BitVec.getLsbD_append]
    have h1 : ¬ (26 + i < 23) := by omega
    have h2 : ¬ (26 + i - 23 < 3) := by omega
    simp only [h1, h2, if_false]
    congr 1; omega
  simp [wbits, hi, h]

theorem cmp_op (op : BitVec 6) (gp pd pe : BitVec 3) (ra rb : BitVec 5) (c : BitVec 4) (z : BitVec 3) :
    wbits ((op ++ gp ++ pd ++ pe ++ ra ++ rb ++ c ++ z : BitVec 32)) 26 6 = op := by
  apply BitVec.eq_of_getLsbD_eq
  intro i hi
  have h : ((op ++ gp ++ pd ++ pe ++ ra ++ rb ++ c ++ z : BitVec 32)).getLsbD (26 + i) = op.getLsbD i := by
    show BitVec.getLsbD (w := 6 + 3 + 3 + 3 + 5 + 5 + 4 + 3) (op ++ gp ++ pd ++ pe ++ ra ++ rb ++ c ++ z) (26 + i) = op.getLsbD i
    simp only [BitVec.getLsbD_append]
    have h1 : ¬ (26 + i < 3) := by omega
    have h2 : ¬ (26 + i - 3 < 4) := by omega
    have h3 : ¬ (26 + i - 3 - 4 < 5) := by omega
    have h4 : ¬ (26 + i - 3 - 4 - 5 < 5) := by omega
    have h5 : ¬ (26 + i - 3 - 4 - 5 - 5 < 3) := by omega
    have h6 : ¬ (26 + i - 3 - 4 - 5 - 5 - 3 < 3) := by omega
    have h7 : ¬ (26 + i - 3 - 4 - 5 - 5 - 3 - 3 < 3) := by omega
    simp only [h1, h2, h3, h4, h5, h6, h7, if_false]
    congr 1; omega
  simp [wbits, hi, h]

theorem cmpi_op (op : BitVec 6) (gp pd pe : BitVec 3) (ra : BitVec 5) (c : BitVec 4) (imm : BitVec 8) :
    wbits ((op ++ gp ++ pd ++ pe ++ ra ++ c ++ imm : BitVec 32)) 26 6 = op := by
  apply BitVec.eq_of_getLsbD_eq
  intro i hi
  have h : ((op ++ gp ++ pd ++ pe ++ ra ++ c ++ imm : BitVec 32)).getLsbD (26 + i) = op.getLsbD i := by
    show BitVec.getLsbD (w := 6 + 3 + 3 + 3 + 5 + 4 + 8) (op ++ gp ++ pd ++ pe ++ ra ++ c ++ imm) (26 + i) = op.getLsbD i
    simp only [BitVec.getLsbD_append]
    have h1 : ¬ (26 + i < 8) := by omega
    have h2 : ¬ (26 + i - 8 < 4) := by omega
    have h3 : ¬ (26 + i - 8 - 4 < 5) := by omega
    have h4 : ¬ (26 + i - 8 - 4 - 5 < 3) := by omega
    have h5 : ¬ (26 + i - 8 - 4 - 5 - 3 < 3) := by omega
    have h6 : ¬ (26 + i - 8 - 4 - 5 - 3 - 3 < 3) := by omega
    simp only [h1, h2, h3, h4, h5, h6, if_false]
    congr 1; omega
  simp [wbits, hi, h]

theorem plog_op (op : BitVec 6) (gp pd pa pb : BitVec 3) (f : BitVec 2) (z : BitVec 12) :
    wbits ((op ++ gp ++ pd ++ pa ++ pb ++ f ++ z : BitVec 32)) 26 6 = op := by
  apply BitVec.eq_of_getLsbD_eq
  intro i hi
  have h : ((op ++ gp ++ pd ++ pa ++ pb ++ f ++ z : BitVec 32)).getLsbD (26 + i) = op.getLsbD i := by
    show BitVec.getLsbD (w := 6 + 3 + 3 + 3 + 3 + 2 + 12) (op ++ gp ++ pd ++ pa ++ pb ++ f ++ z) (26 + i) = op.getLsbD i
    simp only [BitVec.getLsbD_append]
    have h1 : ¬ (26 + i < 12) := by omega
    have h2 : ¬ (26 + i - 12 < 2) := by omega
    have h3 : ¬ (26 + i - 12 - 2 < 3) := by omega
    have h4 : ¬ (26 + i - 12 - 2 - 3 < 3) := by omega
    have h5 : ¬ (26 + i - 12 - 2 - 3 - 3 < 3) := by omega
    have h6 : ¬ (26 + i - 12 - 2 - 3 - 3 - 3 < 3) := by omega
    simp only [h1, h2, h3, h4, h5, h6, if_false]
    congr 1; omega
  simp [wbits, hi, h]

theorem waitc_op (op : BitVec 6) (gp : BitVec 3) (c : BitVec 2) (z : BitVec 3) (ra : BitVec 5) (imm : BitVec 13) :
    wbits ((op ++ gp ++ c ++ z ++ ra ++ imm : BitVec 32)) 26 6 = op := by
  apply BitVec.eq_of_getLsbD_eq
  intro i hi
  have h : ((op ++ gp ++ c ++ z ++ ra ++ imm : BitVec 32)).getLsbD (26 + i) = op.getLsbD i := by
    show BitVec.getLsbD (w := 6 + 3 + 2 + 3 + 5 + 13) (op ++ gp ++ c ++ z ++ ra ++ imm) (26 + i) = op.getLsbD i
    simp only [BitVec.getLsbD_append]
    have h1 : ¬ (26 + i < 13) := by omega
    have h2 : ¬ (26 + i - 13 < 5) := by omega
    have h3 : ¬ (26 + i - 13 - 5 < 3) := by omega
    have h4 : ¬ (26 + i - 13 - 5 - 3 < 2) := by omega
    have h5 : ¬ (26 + i - 13 - 5 - 3 - 2 < 3) := by omega
    simp only [h1, h2, h3, h4, h5, if_false]
    congr 1; omega
  simp [wbits, hi, h]

namespace Encode

/-- The word of a command that an instruction word spells has neither opcode 0 nor opcode 0x3F, which Table 3.5 gives to no
instruction. -/
def Statement (i : Instr) : Prop := ∀ v : BitVec 32, encodeThreadWord i = some v → wbits v 26 6 ≠ 0 ∧ wbits v 26 6 ≠ 0x3F

theorem add (w : Who) (gp : BitVec 3) (rd ra rb : BitVec 5) : Statement (.add w gp rd ra rb) := by
  rintro _ ⟨⟩; rw [encR_op]; decide
theorem sub (w : Who) (gp : BitVec 3) (rd ra rb : BitVec 5) : Statement (.sub w gp rd ra rb) := by
  rintro _ ⟨⟩; rw [encR_op]; decide
theorem and (w : Who) (gp : BitVec 3) (rd ra rb : BitVec 5) : Statement (.and w gp rd ra rb) := by
  rintro _ ⟨⟩; rw [encR_op]; decide
theorem or (w : Who) (gp : BitVec 3) (rd ra rb : BitVec 5) : Statement (.or w gp rd ra rb) := by
  rintro _ ⟨⟩; rw [encR_op]; decide
theorem xor (w : Who) (gp : BitVec 3) (rd ra rb : BitVec 5) : Statement (.xor w gp rd ra rb) := by
  rintro _ ⟨⟩; rw [encR_op]; decide
theorem shl (w : Who) (gp : BitVec 3) (rd ra rb : BitVec 5) : Statement (.shl w gp rd ra rb) := by
  rintro _ ⟨⟩; rw [encR_op]; decide
theorem shr (w : Who) (gp : BitVec 3) (rd ra rb : BitVec 5) : Statement (.shr w gp rd ra rb) := by
  rintro _ ⟨⟩; rw [encR_op]; decide
theorem sra (w : Who) (gp : BitVec 3) (rd ra rb : BitVec 5) : Statement (.sra w gp rd ra rb) := by
  rintro _ ⟨⟩; rw [encR_op]; decide
theorem mul (w : Who) (gp : BitVec 3) (rd ra rb : BitVec 5) : Statement (.mul w gp rd ra rb) := by
  rintro _ ⟨⟩; rw [encR_op]; decide
theorem mulhu (w : Who) (gp : BitVec 3) (rd ra rb : BitVec 5) : Statement (.mulhu w gp rd ra rb) := by
  rintro _ ⟨⟩; rw [encR_op]; decide
theorem min (w : Who) (gp : BitVec 3) (rd ra rb : BitVec 5) : Statement (.min w gp rd ra rb) := by
  rintro _ ⟨⟩; rw [encR_op]; decide
theorem max (w : Who) (gp : BitVec 3) (rd ra rb : BitVec 5) : Statement (.max w gp rd ra rb) := by
  rintro _ ⟨⟩; rw [encR_op]; decide
theorem addi (w : Who) (gp : BitVec 3) (rd ra : BitVec 5) (imm : BitVec 13) : Statement (.addi w gp rd ra imm) := by
  rintro _ ⟨⟩; rw [encI_op]; decide
theorem andi (w : Who) (gp : BitVec 3) (rd ra : BitVec 5) (imm : BitVec 13) : Statement (.andi w gp rd ra imm) := by
  rintro _ ⟨⟩; rw [encI_op]; decide
theorem ori (w : Who) (gp : BitVec 3) (rd ra : BitVec 5) (imm : BitVec 13) : Statement (.ori w gp rd ra imm) := by
  rintro _ ⟨⟩; rw [encI_op]; decide
theorem xori (w : Who) (gp : BitVec 3) (rd ra : BitVec 5) (imm : BitVec 13) : Statement (.xori w gp rd ra imm) := by
  rintro _ ⟨⟩; rw [encI_op]; decide
theorem shli (w : Who) (gp : BitVec 3) (rd ra : BitVec 5) (sh : BitVec 6) : Statement (.shli w gp rd ra sh) := by
  rintro _ ⟨⟩; rw [encI_op]; decide
theorem shri (w : Who) (gp : BitVec 3) (rd ra : BitVec 5) (sh : BitVec 6) : Statement (.shri w gp rd ra sh) := by
  rintro _ ⟨⟩; rw [encI_op]; decide
theorem srai (w : Who) (gp : BitVec 3) (rd ra : BitVec 5) (sh : BitVec 6) : Statement (.srai w gp rd ra sh) := by
  rintro _ ⟨⟩; rw [encI_op]; decide
theorem movz (w : Who) (gp : BitVec 3) (rd : BitVec 5) (hw : BitVec 2) (imm : BitVec 16) : Statement (.movz w gp rd hw imm) := by
  rintro _ ⟨⟩; rw [encM_op]; decide
theorem movk (w : Who) (gp : BitVec 3) (rd : BitVec 5) (hw : BitVec 2) (imm : BitVec 16) : Statement (.movk w gp rd hw imm) := by
  rintro _ ⟨⟩; rw [encM_op]; decide
theorem cmp (w : Who) (gp pd pe : BitVec 3) (ra rb : BitVec 5) (cond : BitVec 4) : Statement (.cmp w gp pd pe ra rb cond) := by
  rintro _ ⟨⟩; rw [cmp_op]; decide
theorem cmpi (w : Who) (gp pd pe : BitVec 3) (ra : BitVec 5) (cond : BitVec 4) (imm : BitVec 8) : Statement (.cmpi w gp pd pe ra cond imm) := by
  rintro _ ⟨⟩; rw [cmpi_op]; decide
theorem plog (w : Who) (gp pd pa pb : BitVec 3) (op : BitVec 2) : Statement (.plog w gp pd pa pb op) := by
  rintro _ ⟨⟩; rw [plog_op]; decide
theorem ld8 (w : Who) (gp : BitVec 3) (rd ra : BitVec 5) (imm : BitVec 13) : Statement (.ld8 w gp rd ra imm) := by
  rintro _ ⟨⟩; rw [encI_op]; decide
theorem ld16 (w : Who) (gp : BitVec 3) (rd ra : BitVec 5) (imm : BitVec 13) : Statement (.ld16 w gp rd ra imm) := by
  rintro _ ⟨⟩; rw [encI_op]; decide
theorem ld32 (w : Who) (gp : BitVec 3) (rd ra : BitVec 5) (imm : BitVec 13) : Statement (.ld32 w gp rd ra imm) := by
  rintro _ ⟨⟩; rw [encI_op]; decide
theorem ld64 (w : Who) (gp : BitVec 3) (rd ra : BitVec 5) (imm : BitVec 13) : Statement (.ld64 w gp rd ra imm) := by
  rintro _ ⟨⟩; rw [encI_op]; decide
theorem lds8 (w : Who) (gp : BitVec 3) (rd ra : BitVec 5) (imm : BitVec 13) : Statement (.lds8 w gp rd ra imm) := by
  rintro _ ⟨⟩; rw [encI_op]; decide
theorem lds16 (w : Who) (gp : BitVec 3) (rd ra : BitVec 5) (imm : BitVec 13) : Statement (.lds16 w gp rd ra imm) := by
  rintro _ ⟨⟩; rw [encI_op]; decide
theorem lds32 (w : Who) (gp : BitVec 3) (rd ra : BitVec 5) (imm : BitVec 13) : Statement (.lds32 w gp rd ra imm) := by
  rintro _ ⟨⟩; rw [encI_op]; decide
theorem st8 (w : Who) (gp : BitVec 3) (rs ra : BitVec 5) (imm : BitVec 13) : Statement (.st8 w gp rs ra imm) := by
  rintro _ ⟨⟩; rw [encI_op]; decide
theorem st16 (w : Who) (gp : BitVec 3) (rs ra : BitVec 5) (imm : BitVec 13) : Statement (.st16 w gp rs ra imm) := by
  rintro _ ⟨⟩; rw [encI_op]; decide
theorem st32 (w : Who) (gp : BitVec 3) (rs ra : BitVec 5) (imm : BitVec 13) : Statement (.st32 w gp rs ra imm) := by
  rintro _ ⟨⟩; rw [encI_op]; decide
theorem st64 (w : Who) (gp : BitVec 3) (rs ra : BitVec 5) (imm : BitVec 13) : Statement (.st64 w gp rs ra imm) := by
  rintro _ ⟨⟩; rw [encI_op]; decide
theorem lda (w : Who) (gp : BitVec 3) (rd ra : BitVec 5) (size : BitVec 2) (sext : Bool) : Statement (.lda w gp rd ra size sext) := by
  rintro _ ⟨⟩; rw [encR_op]; decide
theorem stl (w : Who) (gp : BitVec 3) (rs ra : BitVec 5) (size : BitVec 2) : Statement (.stl w gp rs ra size) := by
  rintro _ ⟨⟩; rw [encR_op]; decide
theorem fadd (w : Who) (gp : BitVec 3) (rd ra rb : BitVec 5) (order : BitVec 2) (is64 : Bool) : Statement (.fadd w gp rd ra rb order is64) := by
  rintro _ ⟨⟩; rw [encR_op]; decide
theorem swap (w : Who) (gp : BitVec 3) (rd ra rb : BitVec 5) (order : BitVec 2) (is64 : Bool) : Statement (.swap w gp rd ra rb order is64) := by
  rintro _ ⟨⟩; rw [encR_op]; decide
theorem cas (w : Who) (gp : BitVec 3) (rd ra rb : BitVec 5) (order : BitVec 2) (is64 : Bool) : Statement (.cas w gp rd ra rb order is64) := by
  rintro _ ⟨⟩; rw [encR_op]; decide
theorem atomMax (w : Who) (gp : BitVec 3) (rd ra rb : BitVec 5) (order : BitVec 2) (is64 : Bool) : Statement (.atomMax w gp rd ra rb order is64) := by
  rintro _ ⟨⟩; rw [encR_op]; decide
theorem atomLfadd (w : Who) (gp : BitVec 3) (rd ra rb : BitVec 5) (order : BitVec 2) : Statement (.atomLfadd w gp rd ra rb order) := by
  rintro _ ⟨⟩; rw [encR_op]; decide
theorem br (w : Who) (gp : BitVec 3) (off : BitVec 23) : Statement (.br w gp off) := by
  rintro _ ⟨⟩; rw [encJ_op]; decide
theorem call (w : Who) (gp : BitVec 3) (off : BitVec 23) : Statement (.call w gp off) := by
  rintro _ ⟨⟩; rw [encJ_op]; decide
theorem jalr (w : Who) (gp : BitVec 3) (rd ra : BitVec 5) : Statement (.jalr w gp rd ra) := by
  rintro _ ⟨⟩; rw [encR_op]; decide
theorem beq (w : Who) (gp : BitVec 3) (ra rb : BitVec 5) (off : BitVec 13) : Statement (.beq w gp ra rb off) := by
  rintro _ ⟨⟩; rw [encI_op]; decide
theorem bne (w : Who) (gp : BitVec 3) (ra rb : BitVec 5) (off : BitVec 13) : Statement (.bne w gp ra rb off) := by
  rintro _ ⟨⟩; rw [encI_op]; decide
theorem blt (w : Who) (gp : BitVec 3) (ra rb : BitVec 5) (off : BitVec 13) : Statement (.blt w gp ra rb off) := by
  rintro _ ⟨⟩; rw [encI_op]; decide
theorem bge (w : Who) (gp : BitVec 3) (ra rb : BitVec 5) (off : BitVec 13) : Statement (.bge w gp ra rb off) := by
  rintro _ ⟨⟩; rw [encI_op]; decide
theorem fenceAcq (w : Who) (gp : BitVec 3) : Statement (.fenceAcq w gp) := by
  rintro _ ⟨⟩; rw [encR_op]; decide
theorem fenceRel (w : Who) (gp : BitVec 3) : Statement (.fenceRel w gp) := by
  rintro _ ⟨⟩; rw [encR_op]; decide
theorem fenceFull (w : Who) (gp : BitVec 3) : Statement (.fenceFull w gp) := by
  rintro _ ⟨⟩; rw [encR_op]; decide
theorem ifence (w : Who) (gp : BitVec 3) : Statement (.ifence w gp) := by
  rintro _ ⟨⟩; rw [encR_op]; decide
theorem barSync (w : Who) (gp : BitVec 3) (ra rb : BitVec 5) : Statement (.barSync w gp ra rb) := by
  rintro _ ⟨⟩; rw [encR_op]; decide
theorem barArrive (w : Who) (gp : BitVec 3) (ra rb : BitVec 5) : Statement (.barArrive w gp ra rb) := by
  rintro _ ⟨⟩; rw [encR_op]; decide
theorem issue (w : Who) (gp : BitVec 3) (ra rb : BitVec 5) (remote : Bool) : Statement (.issue w gp ra rb remote) := by
  rintro _ ⟨⟩; rw [encR_op]; decide
theorem waitc (w : Who) (gp : BitVec 3) (cnt : BitVec 2) (ra : BitVec 5) (imm : BitVec 13) : Statement (.waitc w gp cnt ra imm) := by
  rintro _ ⟨⟩; rw [waitc_op]; decide
theorem park (w : Who) (gp : BitVec 3) (rd ra rb : BitVec 5) (t : BitVec 6) : Statement (.park w gp rd ra rb t) := by
  rintro _ ⟨⟩; rw [encR_op]; decide
theorem parkTimeout (w : Who) : Statement (.parkTimeout w) := nofun
theorem parkPoll (w : Who) : Statement (.parkPoll w) := nofun
theorem next (w : Who) (gp : BitVec 3) (rd ra : BitVec 5) (pd : BitVec 3) (nowait : Bool) : Statement (.next w gp rd ra pd nowait) := by
  rintro _ ⟨⟩; rw [encR_op]; decide
theorem put (w : Who) (gp : BitVec 3) (ra rb : BitVec 5) : Statement (.put w gp ra rb) := by
  rintro _ ⟨⟩; rw [encR_op]; decide
theorem mfs (w : Who) (gp : BitVec 3) (rd : BitVec 5) (sr : BitVec 4) : Statement (.mfs w gp rd sr) := by
  rintro _ ⟨⟩; rw [encR_op]; decide
theorem mts (w : Who) (gp : BitVec 3) (sr : BitVec 4) (ra : BitVec 5) : Statement (.mts w gp sr ra) := by
  rintro _ ⟨⟩; rw [encR_op]; decide
theorem halt (w : Who) (gp : BitVec 3) : Statement (.halt w gp) := by
  rintro _ ⟨⟩; rw [encJ_op]; decide
theorem loadReturn (w : Who) (idx : Nat) : Statement (.loadReturn w idx) := nofun
theorem fetchLineReturn (w : Who) : Statement (.fetchLineReturn w) := nofun
theorem start (r : Req) (w : Who) : Statement (.start r w) := nofun
theorem stop (r : Req) (w : Who) : Statement (.stop r w) := nofun
theorem ibufInvalidate (r : Req) (core : BitVec 9) : Statement (.ibufInvalidate r core) := nofun
theorem engineCompletion (core : BitVec 9) (eng : Engine) (waits : BitVec 24) : Statement (.engineCompletion core eng waits) := nofun
theorem opn (core : BitVec 9) : Statement (.opn core) := nofun
theorem mma (core : BitVec 9) : Statement (.mma core) := nofun
theorem smma (core : BitVec 9) : Statement (.smma core) := nofun
theorem exportSlot (core : BitVec 9) : Statement (.exportSlot core) := nofun
theorem importSlot (core : BitVec 9) : Statement (.importSlot core) := nofun
theorem drain (core : BitVec 9) : Statement (.drain core) := nofun
theorem loadRps (core : BitVec 9) : Statement (.loadRps core) := nofun
theorem dropRps (core : BitVec 9) : Statement (.dropRps core) := nofun
theorem vadd (core : BitVec 9) : Statement (.vadd core) := nofun
theorem vsub (core : BitVec 9) : Statement (.vsub core) := nofun
theorem vmul (core : BitVec 9) : Statement (.vmul core) := nofun
theorem vconv (core : BitVec 9) : Statement (.vconv core) := nofun
theorem ntt (core : BitVec 9) : Statement (.ntt core) := nofun
theorem intt (core : BitVec 9) : Statement (.intt core) := nofun
theorem auto (core : BitVec 9) : Statement (.auto core) := nofun
theorem basext (core : BitVec 9) : Statement (.basext core) := nofun
theorem decomp (core : BitVec 9) : Statement (.decomp core) := nofun
theorem cadd (core : BitVec 9) : Statement (.cadd core) := nofun
theorem csub (core : BitVec 9) : Statement (.csub core) := nofun
theorem cmul (core : BitVec 9) : Statement (.cmul core) := nofun
theorem padd (core : BitVec 9) : Statement (.padd core) := nofun
theorem pmul (core : BitVec 9) : Statement (.pmul core) := nofun
theorem cauto (core : BitVec 9) : Statement (.cauto core) := nofun
theorem cntt (core : BitVec 9) : Statement (.cntt core) := nofun
theorem moddown (core : BitVec 9) : Statement (.moddown core) := nofun
theorem keyswitch (core : BitVec 9) : Statement (.keyswitch core) := nofun
theorem macc (core : BitVec 9) : Statement (.macc core) := nofun
theorem scatterAdd (core : BitVec 9) : Statement (.scatterAdd core) := nofun
theorem lagrange (core : BitVec 9) : Statement (.lagrange core) := nofun
theorem lfadd (core : BitVec 9) : Statement (.lfadd core) := nofun
theorem seedLoad (core : BitVec 9) : Statement (.seedLoad core) := nofun
theorem seedClear (core : BitVec 9) : Statement (.seedClear core) := nofun
theorem expand (core : BitVec 9) : Statement (.expand core) := nofun
theorem sampleCount (core : BitVec 9) : Statement (.sampleCount core) := nofun
theorem sampleIndex (core : BitVec 9) : Statement (.sampleIndex core) := nofun
theorem copy (core : BitVec 9) : Statement (.copy core) := nofun
theorem fill (core : BitVec 9) : Statement (.fill core) := nofun
theorem nsuSubmit (r : Req) (cluster : BitVec 5) (addr : Word) : Statement (.nsuSubmit r cluster addr) := nofun
theorem addNoise (cluster : BitVec 5) : Statement (.addNoise cluster) := nofun
theorem unfreeze (cluster : BitVec 5) : Statement (.unfreeze cluster) := nofun
theorem unfreezeComplete (cluster : BitVec 5) : Statement (.unfreezeComplete cluster) := nofun
theorem sample (cluster : BitVec 5) : Statement (.sample cluster) := nofun
theorem nsuCompletion (cluster : BitVec 5) (waits : BitVec 24) : Statement (.nsuCompletion cluster waits) := nofun
theorem nsuReseed (cluster : BitVec 5) : Statement (.nsuReseed cluster) := nofun
theorem routerSubmit (r : Req) (cluster : BitVec 5) (addr : Word) : Statement (.routerSubmit r cluster addr) := nofun
theorem gateLoad (cluster : BitVec 5) : Statement (.gateLoad cluster) := nofun
theorem route (cluster : BitVec 5) : Statement (.route cluster) := nofun
theorem routerItemDispatch (cluster : BitVec 5) : Statement (.routerItemDispatch cluster) := nofun
theorem routerCompletion (cluster : BitVec 5) : Statement (.routerCompletion cluster) := nofun
theorem accessAcceptance (w : Who) (idx : Nat) : Statement (.accessAcceptance w idx) := nofun
theorem pageReencrypt (addr : BitVec 40) : Statement (.pageReencrypt addr) := nofun
theorem pageRetire (stack : BitVec 4) (lpage : Nat) : Statement (.pageRetire stack lpage) := nofun
theorem eccWriteback (addr : BitVec 40) : Statement (.eccWriteback addr) := nofun
theorem scrubComplete (idx : Nat) : Statement (.scrubComplete idx) := nofun
theorem send (die : BitVec 2) (q : BitVec 12) : Statement (.send die q) := nofun
theorem waitCount (die : BitVec 2) (q : BitVec 12) : Statement (.waitCount die q) := nofun
theorem queueSetup (die : BitVec 2) (q : BitVec 12) : Statement (.queueSetup die q) := nofun
theorem peerSetup (die : BitVec 2) (q : BitVec 12) : Statement (.peerSetup die q) := nofun
theorem peerCmdRekey (die : BitVec 2) (q : BitVec 12) : Statement (.peerCmdRekey die q) := nofun
theorem peerCmdReset (die : BitVec 2) (q : BitVec 12) : Statement (.peerCmdReset die q) := nofun
theorem peerCmdRemove (die : BitVec 2) (q : BitVec 12) : Statement (.peerCmdRemove die q) := nofun
theorem peerCmdQuery (die : BitVec 2) (q : BitVec 12) : Statement (.peerCmdQuery die q) := nofun
theorem recv (die : BitVec 2) (q : BitVec 12) : Statement (.recv die q) := nofun
theorem sendPacketTransmit (peer : BitVec 22) : Statement (.sendPacketTransmit peer) := nofun
theorem mitreData (f : Frame) : Statement (.mitreData f) := nofun
theorem mitreZero (f : Frame) : Statement (.mitreZero f) := nofun
theorem mitreAck (f : Frame) : Statement (.mitreAck f) := nofun
theorem creditReq (f : Frame) : Statement (.creditReq f) := nofun
theorem nonMitreFrame (f : Frame) : Statement (.nonMitreFrame f) := nofun
theorem pctFetchComplete (peer : BitVec 22) : Statement (.pctFetchComplete peer) := nofun
theorem ackDelayExpiry (peer : BitVec 22) : Statement (.ackDelayExpiry peer) := nofun
theorem retransmitTimeout (peer : BitVec 22) : Statement (.retransmitTimeout peer) := nofun
theorem messageAbandon (peer : BitVec 22) (msn : BitVec 32) : Statement (.messageAbandon peer msn) := nofun
theorem rxKeyRelease (peer : BitVec 22) : Statement (.rxKeyRelease peer) := nofun
theorem rekeyDue (peer : BitVec 22) : Statement (.rekeyDue peer) := nofun
theorem keyExhausted (peer : BitVec 22) : Statement (.keyExhausted peer) := nofun
theorem cqSpaceResume (die : BitVec 2) (cq : BitVec 10) : Statement (.cqSpaceResume die cq) := nofun
theorem portUp (port : BitVec 3) (status : Word) : Statement (.portUp port status) := nofun
theorem portDown (port : BitVec 3) (status : Word) : Statement (.portDown port status) := nofun
theorem qselWrite (r : Req) (die : BitVec 2) (q : BitVec 12) : Statement (.qselWrite r die q) := nofun
theorem qcmdConfigure (r : Req) (die : BitVec 2) : Statement (.qcmdConfigure r die) := nofun
theorem qcmdFlush (r : Req) (die : BitVec 2) : Statement (.qcmdFlush r die) := nofun
theorem qcmdDisable (r : Req) (die : BitVec 2) : Statement (.qcmdDisable r die) := nofun
theorem qcmdEnable (r : Req) (die : BitVec 2) : Statement (.qcmdEnable r die) := nofun
theorem hostPost (die : BitVec 2) (item : Word) : Statement (.hostPost die item) := nofun
theorem rdReq (die : BitVec 2) (lane : BitVec 6) (p : JPkt) : Statement (.rdReq die lane p) := nofun
theorem rdResp (die : BitVec 2) (lane : BitVec 6) (p : JPkt) : Statement (.rdResp die lane p) := nofun
theorem wr (die : BitVec 2) (lane : BitVec 6) (p : JPkt) : Statement (.wr die lane p) := nofun
theorem joistAtom (die : BitVec 2) (lane : BitVec 6) (p : JPkt) : Statement (.joistAtom die lane p) := nofun
theorem wrAck (die : BitVec 2) (lane : BitVec 6) (p : JPkt) : Statement (.wrAck die lane p) := nofun
theorem linkReplay (die : BitVec 2) (lane : BitVec 6) : Statement (.linkReplay die lane) := nofun
theorem linkDown (die : BitVec 2) (lane : BitVec 6) : Statement (.linkDown die lane) := nofun
theorem linkUp (die : BitVec 2) (lane : BitVec 6) (dev : BitVec 6) (partnerLane : BitVec 6) : Statement (.linkUp die lane dev partnerLane) := nofun
theorem doorbell : Statement (.doorbell) := nofun
theorem psubmit (w : Who) (addr : Word) : Statement (.psubmit w addr) := nofun
theorem getInfo : Statement (.getInfo) := nofun
theorem derive : Statement (.derive) := nofun
theorem invalidate : Statement (.invalidate) := nofun
theorem invalidateComplete : Statement (.invalidateComplete) := nofun
theorem rearm : Statement (.rearm) := nofun
theorem slotDestroy : Statement (.slotDestroy) := nofun
theorem keyToSeed : Statement (.keyToSeed) := nofun
theorem ownerReplace : Statement (.ownerReplace) := nofun
theorem ownerConfirm : Statement (.ownerConfirm) := nofun
theorem ownerWindowEnd (slot : BitVec 8) : Statement (.ownerWindowEnd slot) := nofun
theorem wrapToOwner : Statement (.wrapToOwner) := nofun
theorem chalresp : Statement (.chalresp) := nofun
theorem partCreate : Statement (.partCreate) := nofun
theorem partTeardown : Statement (.partTeardown) := nofun
theorem bundleLoad : Statement (.bundleLoad) := nofun
theorem attest : Statement (.attest) := nofun
theorem openRegion : Statement (.openRegion) := nofun
theorem trimRead : Statement (.trimRead) := nofun
theorem trimWrite : Statement (.trimWrite) := nofun
theorem coreRemap : Statement (.coreRemap) := nofun
theorem clusterRemap : Statement (.clusterRemap) := nofun
theorem laneSpare : Statement (.laneSpare) := nofun
theorem faultLogRead : Statement (.faultLogRead) := nofun
theorem powerSetActive : Statement (.powerSetActive) := nofun
theorem powerSetDoze : Statement (.powerSetDoze) := nofun
theorem powerSetSleep : Statement (.powerSetSleep) := nofun
theorem dieERetentionReturn : Statement (.dieERetentionReturn) := nofun
theorem keyLoad (slot : BitVec 8) (mask : BitVec 16) : Statement (.keyLoad slot mask) := nofun
theorem remaskSweep : Statement (.remaskSweep) := nofun
theorem remaskAgeLimit : Statement (.remaskAgeLimit) := nofun
theorem brambleAlarm (sensor : BitVec 3) (keyop : Bool) : Statement (.brambleAlarm sensor keyop) := nofun
theorem sourceBlockEnd (samples : List (BitVec 4 × List Byte)) : Statement (.sourceBlockEnd samples) := nofun
theorem healthTestFail (src : BitVec 4) (samples : List Byte) : Statement (.healthTestFail src samples) := nofun
theorem sourceStartupPass (src : BitVec 4) : Statement (.sourceStartupPass src) := nofun
theorem seedConditioned : Statement (.seedConditioned) := nofun
theorem drbgReseed : Statement (.drbgReseed) := nofun
theorem randRead (r : Req) : Statement (.randRead r) := nofun
theorem rawRead (r : Req) : Statement (.rawRead r) := nofun
theorem rawModeEnter (src : BitVec 4) : Statement (.rawModeEnter src) := nofun
theorem rawModeExit : Statement (.rawModeExit) := nofun
theorem eventLineSample (src : BitVec 12) : Statement (.eventLineSample src) := nofun
theorem eventRoute : Statement (.eventRoute) := nofun
theorem moderationTimeout (t : BitVec 6) : Statement (.moderationTimeout t) := nofun
theorem complete (src : BitVec 12) : Statement (.complete src) := nofun
theorem tgtRdWrite (t : BitVec 6) (count : BitVec 32) : Statement (.tgtRdWrite t count) := nofun
theorem tgtEnable (cfg : BitVec 32) : Statement (.tgtEnable cfg) := nofun
theorem enSet (src : BitVec 12) : Statement (.enSet src) := nofun
theorem enClr (src : BitVec 12) : Statement (.enClr src) := nofun
theorem enpendWrite (n : BitVec 8) (val : BitVec 32) : Statement (.enpendWrite n val) := nofun
theorem gateHoldWrite (hold : Bool) : Statement (.gateHoldWrite hold) := nofun
theorem hostD3hot : Statement (.hostD3hot) := nofun
theorem busMasterResume : Statement (.busMasterResume) := nofun
theorem gaugeTrig : Statement (.gaugeTrig) := nofun
theorem gaugeInEdge : Statement (.gaugeInEdge) := nofun
theorem snapshotLatch (page : BitVec 18) : Statement (.snapshotLatch page) := nofun
theorem gaugeDone : Statement (.gaugeDone) := nofun
theorem registerWrite (r : Req) (addr : Word) (size : Nat) (val : Word) : Statement (.registerWrite r addr size val) := nofun
theorem journalCapture : Statement (.journalCapture) := nofun
theorem disableReq (r : Req) (page : BitVec 18) : Statement (.disableReq r page) := nofun
theorem disableComplete (page : BitVec 18) : Statement (.disableComplete page) := nofun
theorem enableResume (r : Req) (page : BitVec 18) : Statement (.enableResume r page) := nofun
theorem softReset (r : Req) (page : BitVec 18) : Statement (.softReset r page) := nofun
theorem evtSet (r : Req) (page : BitVec 18) (val : BitVec 32) : Statement (.evtSet r page val) := nofun
theorem evtPendingClear (r : Req) (page : BitVec 18) (val : BitVec 32) : Statement (.evtPendingClear r page val) := nofun
theorem bar2Read (off : BitVec 36) (len : Nat) : Statement (.bar2Read off len) := nofun
theorem bar2Write (off : BitVec 36) (data : List Byte) : Statement (.bar2Write off data) := nofun
theorem mctpMessage (msg : List Byte) : Statement (.mctpMessage msg) := nofun
theorem pldmFirmwareUpdate (img : FwImage) : Statement (.pldmFirmwareUpdate img) := nofun
theorem wearThreshold (kind : BitVec 3) (unit : BitVec 10) : Statement (.wearThreshold kind unit) := nofun
theorem wearHotTick (kind : BitVec 3) (unit : BitVec 10) (celsius : BitVec 8) : Statement (.wearHotTick kind unit celsius) := nofun
theorem sparesRecordWrite : Statement (.sparesRecordWrite) := nofun
theorem wearCounterSave : Statement (.wearCounterSave) := nofun
theorem ledgerEpoch (d : EpochDemand) : Statement (.ledgerEpoch d) := nofun
theorem tempReading (celsius : BitVec 8) : Statement (.tempReading celsius) := nofun
theorem pllLockLoss (die : BitVec 3) (pll : BitVec 2) : Statement (.pllLockLoss die pll) := nofun
theorem controlUe (pageId : BitVec 24) : Statement (.controlUe pageId) := nofun
theorem rtpFirmwareException (code : BitVec 32) : Statement (.rtpFirmwareException code) := nofun
theorem rtpWatchdogExpiry (code : BitVec 32) : Statement (.rtpWatchdogExpiry code) := nofun
theorem thermtrip : Statement (.thermtrip) := nofun
theorem porAssert (cause : BitVec 4) : Statement (.porAssert cause) := nofun
theorem porRelease (env : BootEnv) : Statement (.porRelease env) := nofun
theorem pcieReset (kind : PcieResetKind) : Statement (.pcieReset kind) := nofun
theorem functionLevelReset : Statement (.functionLevelReset) := nofun
theorem pcieLinkUp (width : BitVec 6) (speed : BitVec 3) : Statement (.pcieLinkUp width speed) := nofun
theorem pcieLinkDown : Statement (.pcieLinkDown) := nofun
theorem perstRelease : Statement (.perstRelease) := nofun
theorem busMasterDisable : Statement (.busMasterDisable) := nofun
theorem vcCreditGrant (die : BitVec 2) (lane : BitVec 6) (cls : BitVec 2) (cells : BitVec 6) : Statement (.vcCreditGrant die lane cls cells) := nofun
theorem teardownLimit : Statement (.teardownLimit) := nofun
theorem journalEntryAbsorbed : Statement (.journalEntryAbsorbed) := nofun
theorem failureLeavesWindow : Statement (.failureLeavesWindow) := nofun
theorem drbgGenerate : Statement (.drbgGenerate) := nofun
theorem testAccessUnlock : Statement (.testAccessUnlock) := nofun
theorem registerRead (r : Req) (addr : Word) (size : Nat) : Statement (.registerRead r addr size) := nofun

end Encode

end Sys2Proof.Laws
end

