-- ==== Sys2Proof/Tests/Slice0.lean ====
section
/-!
SUPPORT. Tests of the model on small states: what the checks of WellFormed refuse, words of the manual, one step of
commands whose result the manual gives or a hand calculation from it, and for every statement with hypotheses a state that
meets them.
-/

namespace Sys2Proof.Tests

open Sys2Proof.Machine Sys2Proof.Spec

set_option maxRecDepth 100000
set_option Elab.async false

/-! ### WellFormed refuses -/

/-- Thread 0 of core 0. -/
def w0 : Who := { core := 0, thr := 0 }

/-- Thread 1 of core 0. -/
def w1 : Who := { core := 0, thr := 1 }

/-- A Joist packet without a payload. -/
def jp : JPkt :=
  { src := 3, dst := 2, cls := 1, op := 0, released := false, status := 0, tag := 0, rpid := 5, addr := 0x8000000000,
    size := 7, payload := [] }

theorem test_wf_cmp_condition : (Instr.cmp w0 0 1 2 3 4 10).wf = false := by decide +kernel
theorem test_wf_cmp_same_predicate : (Instr.cmp w0 0 1 1 3 4 0).wf = false := by decide +kernel
theorem test_wf_cmp_both_p0 : (Instr.cmp w0 0 0 0 3 4 0).wf = true := by decide +kernel
theorem test_wf_cmpi_condition : (Instr.cmpi w0 0 1 2 3 15 0).wf = false := by decide +kernel
theorem test_wf_park_timeout : (Instr.park w0 0 1 2 3 41).wf = false := by decide +kernel
theorem test_wf_park_longest : (Instr.park w0 0 1 2 3 40).wf = true := by decide +kernel
theorem test_wf_load_return : (Instr.loadReturn w0 12).wf = false := by decide +kernel
theorem test_wf_acceptance : (Instr.accessAcceptance w0 12).wf = false := by decide +kernel
theorem test_wf_page_retire : (Instr.pageRetire 0 15360).wf = false := by decide +kernel
theorem test_wf_lane_rd_req : (Instr.rdReq 0 34 jp).wf = false := by decide +kernel
theorem test_wf_lane_rd_resp : (Instr.rdResp 0 34 jp).wf = false := by decide +kernel
theorem test_wf_lane_wr : (Instr.wr 0 34 jp).wf = false := by decide +kernel
theorem test_wf_lane_atom : (Instr.joistAtom 0 34 jp).wf = false := by decide +kernel
theorem test_wf_lane_wr_ack : (Instr.wrAck 0 34 jp).wf = false := by decide +kernel
theorem test_wf_lane_replay : (Instr.linkReplay 0 34).wf = false := by decide +kernel
theorem test_wf_lane_down : (Instr.linkDown 0 34).wf = false := by decide +kernel
theorem test_wf_lane_up : (Instr.linkUp 0 33 1 34).wf = false := by decide +kernel
theorem test_wf_lane_credit : (Instr.vcCreditGrant 0 34 0 1).wf = false := by decide +kernel
theorem test_wf_health_source : (Instr.healthTestFail 10 [1]).wf = false := by decide +kernel
theorem test_wf_startup_source : (Instr.sourceStartupPass 10).wf = false := by decide +kernel
theorem test_wf_raw_source : (Instr.rawModeEnter 10).wf = false := by decide +kernel
theorem test_wf_bramble_none : (Instr.brambleAlarm 0 false).wf = false := by decide +kernel
theorem test_wf_bramble_seven : (Instr.brambleAlarm 7 false).wf = false := by decide +kernel
theorem test_wf_wear_unit : (Instr.wearThreshold 0 612).wf = false := by decide +kernel
theorem test_wf_wear_kind : (Instr.wearHotTick 6 0 90).wf = false := by decide +kernel
theorem test_wf_pll_die : (Instr.pllLockLoss 5 0).wf = false := by decide +kernel
theorem test_wf_pll_number : (Instr.pllLockLoss 0 3).wf = false := by decide +kernel
theorem test_wf_por_cause : (Instr.porAssert 3).wf = false := by decide +kernel
theorem test_wf_link_width : (Instr.pcieLinkUp 3 1).wf = false := by decide +kernel
theorem test_wf_link_speed : (Instr.pcieLinkUp 16 7).wf = false := by decide +kernel
theorem test_wf_bar2_read : (Instr.bar2Read 0 0).wf = false := by decide +kernel
theorem test_wf_bar2_write : (Instr.bar2Write 0 []).wf = false := by decide +kernel

/-! ### Words: the worked example of chapter 03, and words written out from Tables 3.4 to 3.7 -/

theorem test_decode_movz : decodeThreadWord w0 0x24280123 = some (.movz w0 0 10 0 0x123) := by decide +kernel
theorem test_decode_next : decodeThreadWord w0 0xDC114001 = some (.next w0 0 4 10 1 false) := by decide +kernel
theorem test_decode_plog : decodeThreadWord w0 0x38207000 = some (.plog w0 0 2 0 1 3) := by decide +kernel
theorem test_decode_halt : decodeThreadWord w0 0xF9000000 = some (.halt w0 2) := by decide +kernel
theorem test_decode_issue : decodeThreadWord w0 0xD0008000 = some (.issue w0 0 4 0 false) := by decide +kernel
theorem test_decode_addi : decodeThreadWord w0 0x082D6001 = some (.addi w0 0 11 11 1) := by decide +kernel
theorem test_decode_waitc : decodeThreadWord w0 0xD4216000 = some (.waitc w0 0 1 11 0) := by decide +kernel
theorem test_decode_ld8 : decodeThreadWord w0 0x40148003 = some (.ld8 w0 0 5 4 3) := by decide +kernel
theorem test_decode_andi : decodeThreadWord w0 0x0C18A07C = some (.andi w0 0 6 5 0x7C) := by decide +kernel
theorem test_decode_cmpi : decodeThreadWord w0 0x34306100 = some (.cmpi w0 0 3 0 6 1 0) := by decide +kernel
theorem test_decode_put : decodeThreadWord w0 0xE181A400 = some (.put w0 3 13 4) := by decide +kernel
theorem test_decode_br : decodeThreadWord w0 0x907FFFF6 = some (.br w0 0 (-10)) := by decide +kernel
/-- ADD g3, g1, g2: opcode 000001, gp 000, rd 00011, ra 00001, rb 00010, func 00000000. -/
theorem test_decode_add : decodeThreadWord w0 0b00000100000011000010001000000000 = some (.add w0 0 3 1 2) := by decide +kernel
/-- ST64 g5, [g4 + 8] under p2: opcode 011011, gp 010, rd 00101, ra 00100, imm 0000000001000. -/
theorem test_decode_st64 : decodeThreadWord w0 0b01101101000101001000000000001000 = some (.st64 w0 2 5 4 8) := by decide +kernel
/-- CAS, 64 bits, acquire and release: opcode 100000, rd 00001, ra 00010, rb 00011, func 0 11 1 0010. -/
theorem test_decode_cas : decodeThreadWord w0 0b10000000000001000100001101110010 = some (.cas w0 0 1 2 3 3 true) := by decide +kernel
/-- FENCE FULL: opcode 110000, func 3. -/
theorem test_decode_fence : decodeThreadWord w0 0b11000000000000000000000000000011 = some (.fenceFull w0 0) := by decide +kernel
/-- MFS g7, CC1 (number 9): opcode 111100, rd 00111, func 9. -/
theorem test_decode_mfs : decodeThreadWord w0 0b11110000000111000000000000001001 = some (.mfs w0 0 7 9) := by decide +kernel
/-- JALR g31, g3: opcode 100110, rd 11111, ra 00011. -/
theorem test_decode_jalr : decodeThreadWord w0 0b10011000011111000110000000000000 = some (.jalr w0 0 31 3) := by decide +kernel
theorem test_decode_zero : decodeThreadWord w0 0 = none := by decide +kernel
theorem test_decode_alu_func : decodeThreadWord w0 0x0400000C = none := by decide +kernel
theorem test_decode_put_rd : decodeThreadWord w0 0xE0040000 = none := by decide +kernel
theorem test_decode_lfadd_size : decodeThreadWord w0 0x80000014 = none := by decide +kernel
theorem test_decode_park_long : decodeThreadWord w0 0xD8000029 = none := by decide +kernel
theorem test_decode_condition : decodeThreadWord w0 0x30000050 = none := by decide +kernel
theorem test_decode_same_predicate : decodeThreadWord w0 0x30120000 = none := by decide +kernel
theorem test_decode_mfs_func : decodeThreadWord w0 0xF0000010 = none := by decide +kernel

/-! ### States -/

/-- A device that is READY and ACTIVE; partition 1 holds cluster 0 under generation 7. -/
def ready : State :=
  { State.reset with
    regs := [(regKey mboxPage 0x114, 1)]
    pins := { State.reset.pins with por := true, perst := true }
    host := { State.reset.host with inReset := false, rrs := false, bme := true }
    parts := [(1, { Part.reset with st := 2, clusters := 1, pgen := 7 })] }

/-- A device in a mode other than READY (Table 11.4: 0 start-up, 2 LOCKED, 3 fail-safe). -/
def inMode (n : Nat) : State := { ready with regs := [(regKey mboxPage 0x114, BitVec.ofNat 32 n)] }

/-- The start of the Press of cluster 0, where test programs stand. -/
def code : Nat := 0x8000000000

/-- Thread 0 with an instruction at its PC, its line buffered. -/
def running (i : Instr) (t : Thread) : State :=
  { ready with
    threads := [(0, { t with st := .ready, pc := BitVec.ofNat 64 code })]
    cores := [(0, { CoreSt.reset with ibuf :=
      [(code, Crypto.leBytes 4 ((encodeThreadWord i).getD 0).toNat ++ List.replicate 60 0)] })] }

/-- A thread with general registers. -/
def withRegs (g : List (Nat × Word)) : Thread := { Thread.reset with g := g }

/-- The next state, or the state after reset where there is none. -/
def out (o : Host.Outcome State Fault Refusal) : State := match o with
  | .next t => t
  | _ => State.reset

/-- What register rd of thread 0 holds once an instruction ran. -/
def result (i : Instr) (g : List (Nat × Word)) (rd : BitVec 5) : Word :=
  ((out (exec i (running i (withRegs g)))).thread w0).reg rd

/-! ### Threads: hand calculations from Tables 3.5 to 3.7 -/

theorem test_add_wraps : result (.add w0 0 3 1 2) [(1, 0xFFFFFFFFFFFFFFFF), (2, 2)] 3 = 1 := by decide +kernel
theorem test_sub_borrows : result (.sub w0 0 3 1 2) [(1, 1), (2, 2)] 3 = 0xFFFFFFFFFFFFFFFF := by decide +kernel
theorem test_and : result (.and w0 0 3 1 2) [(1, 0xC), (2, 0xA)] 3 = 8 := by decide +kernel
theorem test_or : result (.or w0 0 3 1 2) [(1, 0xC), (2, 0xA)] 3 = 0xE := by decide +kernel
theorem test_xor : result (.xor w0 0 3 1 2) [(1, 0xC), (2, 0xA)] 3 = 6 := by decide +kernel
theorem test_shl_takes_six_bits : result (.shl w0 0 3 1 2) [(1, 1), (2, 65)] 3 = 2 := by decide +kernel
theorem test_shr : result (.shr w0 0 3 1 2) [(1, 0x8000000000000000), (2, 63)] 3 = 1 := by decide +kernel
theorem test_sra_signs : result (.sra w0 0 3 1 2) [(1, 0x8000000000000000), (2, 63)] 3 = 0xFFFFFFFFFFFFFFFF := by decide +kernel
theorem test_mul_wraps : result (.mul w0 0 3 1 2) [(1, 0x100000000), (2, 0x100000001)] 3 = 0x100000000 := by decide +kernel
theorem test_mulhu : result (.mulhu w0 0 3 1 2) [(1, 0xFFFFFFFFFFFFFFFF), (2, 0xFFFFFFFFFFFFFFFF)] 3 = 0xFFFFFFFFFFFFFFFE := by
  decide +kernel
theorem test_min_signed : result (.min w0 0 3 1 2) [(1, 0xFFFFFFFFFFFFFFFF), (2, 1)] 3 = 0xFFFFFFFFFFFFFFFF := by decide +kernel
theorem test_max_signed : result (.max w0 0 3 1 2) [(1, 0xFFFFFFFFFFFFFFFF), (2, 1)] 3 = 1 := by decide +kernel
theorem test_addi_signs : result (.addi w0 0 3 1 0x1FFF) [(1, 5)] 3 = 4 := by decide +kernel
theorem test_ori_signs : result (.ori w0 0 3 1 0x1000) [] 3 = 0xFFFFFFFFFFFFF000 := by decide +kernel
theorem test_srai : result (.srai w0 0 3 1 4) [(1, 0xFFFFFFFFFFFFFF00)] 3 = 0xFFFFFFFFFFFFFFF0 := by decide +kernel
theorem test_movz : result (.movz w0 0 3 3 0x8001) [] 3 = 0x8001000000000000 := by decide +kernel
theorem test_movk_keeps : result (.movk w0 0 3 1 0xBEEF) [(3, 0x1111222233334444)] 3 = 0x11112222BEEF4444 := by decide +kernel
theorem test_g0_stays_zero : result (.addi w0 0 0 1 1) [(1, 5)] 0 = 0 := by decide +kernel
theorem test_source_is_destination : result (.add w0 0 1 1 1) [(1, 7)] 1 = 14 := by decide +kernel
/-- JALR reads ra before it writes rd. -/
theorem test_jalr_same_register :
    ((out (exec (.jalr w0 0 3 3) (running (.jalr w0 0 3 3) (withRegs [(3, 0x8000000100)])))).thread w0).pc = 0x8000000100 := by
  decide +kernel
theorem test_br_counts_words :
    ((out (exec (.br w0 0 (-2)) (running (.br w0 0 (-2)) (withRegs [])))).thread w0).pc = 0x7FFFFFFFF8 := by decide +kernel
theorem test_blt_signed :
    ((out (exec (.blt w0 0 1 2 4) (running (.blt w0 0 1 2 4)
      (withRegs [(1, 0xFFFFFFFFFFFFFFFF), (2, 0)])))).thread w0).pc = 0x8000000010 := by decide +kernel
/-- CMPI with an unsigned condition compares with the sign-extended immediate (code 4, LTU). -/
theorem test_cmpi_unsigned :
    ((out (exec (.cmpi w0 0 1 2 3 4 0xFF) (running (.cmpi w0 0 1 2 3 4 0xFF) (withRegs [(3, 5)])))).thread w0).p = 2 := by decide +kernel
theorem test_mfs_core : result (.mfs w0 0 3 7) [] 3 = 7 := by decide +kernel

/-! ### Witnesses: the block, and the threads' instructions -/

theorem test_meets_step : ({ ready with pending := [.thermtrip] } : State).pending = .thermtrip :: [] := by decide +kernel

theorem test_meets_idle : ready.pending = [] ∧ ready.pins.por = true ∧ ready.mode = 1 ∧ ready.power = 0 := by decide +kernel

/-- DOZE, where ENG stands still. -/
theorem test_meets_idle_doze :
    (ready.setFld (.dieE tyClocks) 0x11C 0 2 1).power ≠ 0 ∧ (ready.setFld (.dieE tyClocks) 0x11C 0 2 1).pins.por = true := by
  decide +kernel

theorem test_meets_decode_of_encode :
    threadRow (.st64 w0 2 5 4 8) = some (w0, 2) ∧ (Instr.st64 w0 2 5 4 8).wf = true ∧
      encodeThreadWord (.st64 w0 2 5 4 8) = some 0b01101101000101001000000000001000 := by decide +kernel

theorem test_meets_step_keeps_memory : MemoryInv ready ∧ step ready = .next (tick ready) := ⟨by unfold MemoryInv; decide, rfl⟩

theorem test_meets_results :
    (resultRow (.sra w0 0 3 1 2)).isSome = true ∧
      (running (.sra w0 0 3 1 2) (withRegs [(1, 5), (2, 1)])).issues w0 (.sra w0 0 3 1 2) 0 [1, 2] = true := by decide +kernel

theorem test_meets_mfs :
    (running (.mfs w0 0 3 15) (withRegs [])).issues w0 (.mfs w0 0 3 15) 0 [] = true := by decide +kernel

/-- MTS to the first and the last counter, and to the numbers beside them. -/
theorem test_meets_mts :
    (running (.mts w0 0 8 1) (withRegs [])).issues w0 (.mts w0 0 8 1) 0 [1] = true ∧
    (running (.mts w0 0 11 1) (withRegs [])).issues w0 (.mts w0 0 11 1) 0 [1] = true ∧
    (running (.mts w0 0 7 1) (withRegs [])).issues w0 (.mts w0 0 7 1) 0 [1] = true ∧
    (running (.mts w0 0 12 1) (withRegs [])).issues w0 (.mts w0 0 12 1) 0 [1] = true := by decide +kernel

theorem test_meets_compares :
    (predRow (.cmp w0 0 1 2 3 4 9)).isSome = true ∧
      (running (.cmp w0 0 1 2 3 4 9) (withRegs [])).issues w0 (.cmp w0 0 1 2 3 4 9) 0 [3, 4] = true := by decide +kernel

theorem test_meets_branches :
    (branchRow (.call w0 0 5)).isSome = true ∧
      (running (.call w0 0 5) (withRegs [])).issues w0 (.call w0 0 5) 0 [] = true := by decide +kernel

/-- A guard that is false, on a legal word. -/
theorem test_meets_false_guard :
    let s := running (.add w0 3 1 2 4) (withRegs [])
    threadRow (.add w0 3 1 2 4) = some (w0, 3) ∧ s.active w0 = true ∧
      s.fetch w0 = .word ((encodeThreadWord (.add w0 3 1 2 4)).getD 0) ∧
      decodeThreadWord w0 ((encodeThreadWord (.add w0 3 1 2 4)).getD 0) = some (.add w0 3 1 2 4) ∧
      (s.thread w0).pred 3 = false ∧ s.turn w0 := by decide +kernel

/-- Thread 0 with a word at its PC, its line buffered. -/
def atWord (v : BitVec 32) : State :=
  { ready with
    threads := [(0, { Thread.reset with st := .ready, pc := BitVec.ofNat 64 code })]
    cores := [(0, { CoreSt.reset with ibuf := [(code, Crypto.leBytes 4 v.toNat ++ List.replicate 60 0)] })] }

/-- A word that is illegal, and a word of MFS whose func is 0x10. -/
theorem test_meets_illegal :
    (atWord 0).active w0 = true ∧ (atWord 0).fetch w0 = .word 0 ∧ decodeThreadWord w0 0 = none ∧
    (atWord 0xF0000010).fetch w0 = .word 0xF0000010 ∧ wbits 0xF0000010 26 6 = 0x3C ∧ 0x0F < (wbits 0xF0000010 0 8).toNat ∧
    (atWord 0xF4000010).fetch w0 = .word 0xF4000010 ∧ wbits 0xF4000010 26 6 = 0x3D ∧ (atWord 0).turn w0 ∧ (atWord 0xF0000010).turn w0 := by decide +kernel

theorem test_illegal_faults :
    ((out (exec (.halt w0 0) (atWord 0))).thread w0).st = .faulted ∧
      ((out (exec (.halt w0 0) (atWord 0))).thread w0).cause = 1 := by decide +kernel

/-! ### Witnesses: accesses -/

theorem test_meets_load :
    let i : Instr := .lds32 w0 0 3 1 0x1FFC
    let t := withRegs [(1, 0x8000000104)]
    let s := running i t
    let x := loadOf (s.thread w0) 3 1 (-4) 4 true false
    (accRow i).isSome = true ∧ s.issues w0 i 0 [1] = true ∧ x.addr % x.size = 0 ∧
      s.checkThread w0 x.stores x.addr x.size = stOk := by decide +kernel

theorem test_meets_atomic :
    let i : Instr := .fadd w0 0 3 1 2 0 true
    let s := running i (withRegs [(1, 0x8000000100)])
    let x := atomOf (s.thread w0) 3 1 2 0 true 0
    (accRow i).isSome = true ∧ s.issues w0 i 0 [1, 2] = true ∧ x.addr % x.size = 0 ∧
      s.atomicPlace w0 x.addr x.size = true ∧ s.remoteDenied w0 x.addr = false ∧
      s.checkThread w0 x.stores x.addr x.size = stOk := by decide +kernel

/-- Addresses that are not mapped, not the partition's own, and in the host window of a CONFIDENTIAL partition. -/
theorem test_meets_refused :
    let i : Instr := .st64 w0 0 3 1 0
    let at' (a : Word) : State := running i (withRegs [(1, a)])
    let conf : State := { at' 0xE000000000 with parts := [(1, { Part.reset with st := 2, clusters := 1, pgen := 7, conf := true })] }
    (at' 0xF000000000).issues w0 i 0 [3, 1] = true ∧ (at' 0xF000000000).checkThread w0 true 0xF000000000 8 = 0x84 ∧
    (at' 0x8004000000).checkThread w0 true 0x8004000000 8 = 0x85 ∧
    conf.issues w0 i 0 [3, 1] = true ∧ conf.remoteDenied w0 0xE000000000 = false ∧
    conf.checkThread w0 true 0xE000000000 8 = 0x72 := by decide +kernel

theorem test_meets_lfadd :
    let i : Instr := .atomLfadd w0 0 3 1 2 0
    let s := running i (withRegs [(1, 0x8000000120), (2, 0x8000000140)])
    s.issues w0 i 0 [1, 2] = true ∧ s.atomicPlace w0 0x8000000120 20 = true ∧ s.atomicPlace w0 0x8000000140 24 = true ∧
      s.remoteDenied w0 0x8000000120 = false ∧ s.checkThread w0 true 0x8000000120 20 = stOk ∧
      s.checkThread w0 false 0x8000000140 24 = stOk ∧ (s.thread w0).loads < 4 ∧ (s.thread w0).stores < 8 := by decide +kernel

theorem test_meets_misaligned :
    let i : Instr := .ld16 w0 0 3 1 1
    let s := running i (withRegs [(1, 0x8000000100)])
    let x := loadOf (s.thread w0) 3 1 1 2 false false
    (accRow i).isSome = true ∧ s.issues w0 i 0 [1] = true ∧ x.addr % x.size ≠ 0 := by decide +kernel

theorem test_meets_misaligned_park :
    let i : Instr := .park w0 0 3 1 2 0
    let s := running i (withRegs [(1, 0x8000000104)])
    s.issues w0 i 0 [1, 2] = true ∧ ((s.thread w0).reg 1).toNat % 8 ≠ 0 := by decide +kernel

/-- Thread 0 with one access outstanding, at the last word of the Press of cluster 0. -/
def pending (k : AccKind) (size : Nat) : State :=
  { ready with threads := [(0, { Thread.reset with st := .ready, pc := BitVec.ofNat 64 code, accs := [
    { kind := k, addr := 0x80003FFFFF + 1 - size, size := size, rd := 3, data := 0x1122334455667788, cmp := 0, src := 0,
      acq := false, rel := false, pc := 0, stage := .issued }] })] }

theorem test_meets_accepted_load :
    let s := pending (.load true) 8
    let a := 0x80003FFFF8
    (s.thread w0).accs.length = 1 ∧ s.diesUp = true ∧ s.place 0 a = .press 0 a ∧ s.lineBad a = false ∧ a % 8 = 0 ∧
      ∀ i < 8, s.checkPlace (s.agentOf w0 1).pid false none (s.place 0 (a + i)) = stOk := by decide +kernel

theorem test_meets_accepted_store :
    let s := pending .store 1
    let a := 0x80003FFFFF
    (s.thread w0).accs.length = 1 ∧ s.place 0 a = .press 0 a ∧ s.lineBad a = false ∧
      s.checkPlace (s.agentOf w0 1).pid true none (s.place 0 a) = stOk := by decide +kernel

theorem test_store_low_byte : (out (exec (.accessAcceptance w0 0) (pending .store 1))).byte 0x80003FFFFF = 0x88 := by decide +kernel

theorem test_meets_accepted_atomic :
    let s := pending (.atom 3) 4
    let a := 0x80003FFFFC
    (s.thread w0).accs.length = 1 ∧ s.place 0 a = .press 0 a ∧ s.lineBad a = false ∧ a % 4 = 0 ∧
      ∀ i < 4, s.checkPlace (s.agentOf w0 1).pid true none (s.place 0 (a + i)) = stOk := by decide +kernel

theorem test_max_stores_larger : (out (exec (.accessAcceptance w0 0) (pending (.atom 3) 4))).bytes 0x80003FFFFC 4 =
    [0x88, 0x77, 0x66, 0x55] := by decide +kernel

/-- Thread 0 whose access has its data. -/
def answered : State :=
  { ready with threads := [(0, { Thread.reset with st := .ready, accs := [
    { kind := .load false, addr := 0x8000000000, size := 8, rd := 3, data := 0, cmp := 0, src := 0,
      acq := false, rel := false, pc := 0, stage := .got 9 }] })] }

theorem test_meets_load_return :
    ((answered.thread w0).accs[0]?.map (fun x => x.stage)) = some (.got 9) ∧
      ((out (exec (.loadReturn w0 0) answered)).thread w0).reg 3 = 9 := by decide +kernel

/-- Thread 0 whose line is not buffered. -/
def stalled : State :=
  { ready with threads := [(0, { Thread.reset with st := .ready, pc := BitVec.ofNat 64 (code + 60) })] }

theorem test_meets_fetch :
    stalled.active w0 = true ∧ stalled.fetch w0 = .miss ∧ (stalled.readPiece (stalled.agentOf w0 1) code 64).2.1 = stOk := by
  decide +kernel

/-! ### Witnesses: fences, barriers, waiting -/

theorem test_meets_fences :
    (running (.fenceAcq w0 0) (withRegs [])).issues w0 (.fenceAcq w0 0) 0 [] = true ∧
    (running (.fenceRel w0 0) (withRegs [])).issues w0 (.fenceRel w0 0) 0 [] = true ∧
    (running (.fenceFull w0 0) (withRegs [])).issues w0 (.fenceFull w0 0) 0 [] = true ∧
    (running (.ifence w0 0) { withRegs [] with held := some (0x84, 64) }).issues w0 (.ifence w0 0) 0 [] = true ∧
    ((running (.ifence w0 0) (withRegs [])).thread w0).loads = 0 := by decide +kernel

/-- A barrier at which an arrival is missing, with a count of 2; counts at the ends of the range. -/
def atBarrier (n : Word) : State :=
  { running (.barSync w0 0 1 2) (withRegs [(1, 15), (2, n)]) with
    clusters := [(0, { ClusterSt.reset with bars := [(15, ⟨2, 1⟩)] })] }

theorem test_meets_barrier :
    (atBarrier 2).issues w0 (.barSync w0 0 1 2) 0 [1, 2] = true ∧ ((atBarrier 2).cluster 0).bar 15 = ⟨2, 1⟩ ∧
    (atBarrier 0).issues w0 (.barSync w0 0 1 2) 0 [1, 2] = true ∧ (atBarrier 257).issues w0 (.barSync w0 0 1 2) 0 [1, 2] = true ∧
    (running (.barArrive w0 0 1 2) (withRegs [(2, 256)])).issues w0 (.barArrive w0 0 1 2) 0 [1, 2] = true ∧
    (running (.barArrive w0 0 1 2) (withRegs [(2, 1)])).issues w0 (.barArrive w0 0 1 2) 0 [1, 2] = true := by decide +kernel

theorem test_barrier_count_fixed : ((out (exec (.barSync w0 0 1 2) (atBarrier 3))).thread w0).cause = 9 := by decide +kernel

/-- An ISSUE of an MXE descriptor in the partition's Press. -/
def issuing (remote : Bool) : State :=
  (running (.issue w0 0 4 5 remote) (withRegs [(4, 0x8000000040), (5, 15)])).putBytes 0x8000000041 [1]

theorem test_meets_issue :
    let s := issuing false
    s.issues w0 (.issue w0 0 4 5 false) 0 [4] = true ∧ s.ownedRange (s.agentOf w0 1) 0x8000000040 64 = stOk ∧
      (s.readPiece (s.agentOf w0 1) 0x8000000041 1).2 = (stOk, [1]) ∧ s.engCredit 0 0 .mxe = true := by decide +kernel

theorem test_meets_issue_remote :
    let s := issuing true
    s.issues w0 (.issue w0 0 4 5 true) 0 [4, 5] = true ∧ (s.physCore 15).isSome = true ∧ s.coreOwner 15 = s.coreOwner 0 ∧
      s.engCredit 0 15 .mxe = true := by decide +kernel

theorem test_meets_waitc :
    (running (.waitc w0 0 1 11 0) (withRegs [(11, 1)])).issues w0 (.waitc w0 0 1 11 0) 0 [11] = true ∧
      ((out (exec (.waitc w0 0 1 11 0) (running (.waitc w0 0 1 11 0) (withRegs [(11, 1)])))).thread w0).st = .waitCount ∧
      ((out (exec (.waitc w0 0 1 11 0) (running (.waitc w0 0 1 11 0) (withRegs [])))).thread w0).st = .ready := by decide +kernel

theorem test_meets_park :
    let s := running (.park w0 0 3 1 2 0) (withRegs [(1, 0x8000000100)])
    s.issues w0 (.park w0 0 3 1 2 0) 0 [1, 2] = true ∧ (s.parkRead w0 0x8000000100).2 = (stOk, 0) ∧
      (s.parkRead w0 0x8000000100).1.run.asks = [] := by decide +kernel

/-- Thread 0 asleep at a word, with a timeout. -/
def parked (a : Nat) (v : Word) : State :=
  { ready with threads := [(0, { Thread.reset with st := .waitPark, wait := .park a v 3 10 })] }

/-- HBM has no monitor; the Press of the thread's own cluster has one. -/
theorem test_meets_parked :
    let s : State := { parked 0 1 with regions := [(0, some { owner := some 1, near := some 0, frames := [(0, 0), (1, 0), (2, 0), (3, 0)] })] }
    (s.thread w0).st = .waitPark ∧ s.monitored w0 0 = false ∧ s.engOn = true ∧ (s.parkRead w0 0).2 = (stOk, 0) ∧ (s.parkRead w0 0).1.run.asks = [] ∧
    (parked 0x8000000000 1).monitored w0 0x8000000000 = true ∧ ((parked 0x8000000000 1).parkRead w0 0x8000000000).2 = (stOk, 0) ∧
    ((out (exec (.parkTimeout w0) (parked 0x8000000000 1))).thread w0).st = .ready := by decide +kernel

/-- A work-item queue of partition 1 on die 0. -/
def withQueue (i : Instr) (t : Thread) (x : DQueue) : State :=
  { running i t with dies := [(0, { DieSt.reset with queues := [(5, x)] })] }

/-- A queue of kind 1 with room for two entries of each producer. -/
def workQueue : DQueue := { DQueue.reset with pid := some 1, kind := 1, grant := 1 }

theorem test_meets_next :
    let i : Instr := .next w0 0 3 1 2 false
    let t := withRegs [(1, 5)]
    (withQueue i t { workQueue with entries := [(77, .host)] }).issues w0 i 0 [1] = true ∧
    (withQueue i t workQueue).queueOff 0 5 = false ∧ (withQueue i t { workQueue with disabled := true }).queueOff 0 5 = true ∧
    ((out (exec i (withQueue i t { workQueue with entries := [(77, .host)] }))).thread w0).reg 3 = 77 ∧
    ((out (exec i (withQueue i t workQueue))).thread w0).st = .waitNext := by decide +kernel

theorem test_next_nowait :
    let i : Instr := .next w0 0 3 1 2 true
    ((out (exec i (withQueue i { withRegs [(1, 5)] with p := 4 } workQueue))).thread w0).p = 0 := by decide +kernel

theorem test_meets_put :
    let i : Instr := .put w0 0 1 2
    let s := withQueue i (withRegs [(1, 5), (2, 42)]) workQueue
    s.issues w0 i 0 [1, 2] = true ∧ (s.queue 0 5).pid = s.coreOwner 0 ∧ s.queueOff 0 5 = false ∧
      ((out (exec i s)).queue 0 5).entries = [(42, .tp 0)] := by decide +kernel

/-- A second thread waits for an item. -/
theorem test_meets_put_waiter :
    let i : Instr := .put w0 0 1 2
    let s := (withQueue i (withRegs [(1, 5), (2, 42)]) { workQueue with waiters := [w1] }).setThread w1
      { Thread.reset with st := .waitNext, wait := .next 5 3 2 }
    s.issues w0 i 0 [1, 2] = true ∧ (s.thread w1).wait = .next 5 3 2 ∧ ((out (exec i s)).thread w1).reg 3 = 42 := by decide +kernel

theorem test_meets_halt :
    (running (.halt w0 0) (withRegs [])).issues w0 (.halt w0 0) 0 [] = true ∧
      ((out (exec (.halt w0 0) (running (.halt w0 0) { withRegs [] with out := [(2, 1)] }))).thread w0).st = .draining := by decide +kernel

/-- An entry of partition 1 whose descriptor stands at an address. -/
def entryAt (a : Nat) : EngEntry :=
  { num := 0, core := 0, thr := 0, desc := a, pid := 1, pgen := 7, op := 0, evt := false, status := none, rel := none, cls := 0,
    demoted := false, c3 := [], sums := [], undo := [], hdr := none, sealing := none, held := 0, claim := none }

/-- An engine whose only command has ended. -/
def ended : State :=
  { ready with
    threads := [(0, { Thread.reset with st := .waitCount, wait := .count 0 1, out := [(0, 1)] })]
    cores := [(0, { CoreSt.reset with mxeQ := [{ entryAt 0x8000000040 with op := 1, status := some stOk }] })] }

theorem test_meets_completion :
    (completable ended.entryDone [] ((ended.core 0).q .mxe)).isSome = true ∧ (ended.thread w0).wait = .count (BitVec.ofNat 2 Engine.mxe.idx) 1 ∧
      ((out (exec (.engineCompletion 0 .mxe 0) ended)).thread w0).counter 0 = 1 ∧
      ((out (exec (.engineCompletion 0 .mxe 0) ended)).thread w0).st = .ready := by decide +kernel

/-! ### Witnesses: the exact window accumulator -/

/-- N at the top of its range, WIDE. -/
def atTop : Elem := { n := BitVec.ofInt 136 (2 ^ 135 - 1), flags := 2 }

/-- 1 at the unit of w = 0 saturates there; what R58 says of it. -/
theorem test_accumulator_saturates :
    (atTop.addFV 0 (.fin false 1 (-96))).n.toInt = 2 ^ 135 - 1 ∧ (atTop.addFV 0 (.fin false 1 (-96))).flags = 6 ∧
    ((atTop.addFV 0 (.fin false 1 (-96))).addFV 0 (.fin true 1 0)).n.toInt = 2 ^ 135 - 1 := by decide +kernel

/-- 1.5 units are truncated to 1, with INEXACT; −1.5 to −1. -/
theorem test_accumulator_truncates :
    (Elem.zero.addFV 0 (.fin false 3 (-97))).n.toInt = 1 ∧ (Elem.zero.addFV 0 (.fin false 3 (-97))).flags = 1 ∧
    (Elem.zero.addFV 0 (.fin true 3 (-97))).n.toInt = -1 := by decide +kernel

/-- Each clause of the accumulator's statement, at the ends of its range. -/
theorem test_meets_accumulator :
    windowOk (-256) = true ∧ windowOk 255 = true ∧ atTop.flags.getLsbD 2 = false ∧
    2 ^ 135 ≤ atTop.n.toInt + (truncated 0 false 1 (-96)).1 ∧ atTop.n.toInt + (truncated 0 false 0 (-96)).1 < 2 ^ 135 ∧
    (BitVec.ofInt 136 (-2 ^ 135)).toInt + (truncated 0 true 1 (-96)).1 < -2 ^ 135 := by decide +kernel

/-- Partials that pass R61, with the ends of the range of w, and those that do not. -/
theorem test_meets_long_form :
    (32 % 32 = 0 ∧ (-256 : Int) ≤ -256 ∧ (-256 : Int) ≤ 255 ∧ (63 : Byte).toNat < 64) ∧
    (lfAdd 32 ⟨Elem.zero, 255⟩ 64 ⟨Elem.zero, 255⟩).1 = 0 ∧ (lfAdd 32 ⟨Elem.zero, 255⟩ 64 ⟨Elem.zero, -256⟩).1 = 0x86 ∧
    (lfAdd 32 ⟨Elem.zero, 256⟩ 64 ⟨Elem.zero, 255⟩).1 = 0x87 ∧ (lfAdd 48 ⟨Elem.zero, 0⟩ 64 ⟨Elem.zero, 1⟩).1 = 0x87 ∧
    (lfAdd 32 ⟨Elem.zero, 0⟩ 64 ⟨{ n := 0, flags := 0x40 }, 0⟩).1 = 0x87 := by decide +kernel

/-- Two ways to split three addends. -/
def splitA : Combination := .add (.part [.fin false 1 0, .fin true 5 (-97)]) (.part [.fin false 7 3])
def splitB : Combination := .part [.fin false 7 3, .fin false 1 0, .fin true 5 (-97)]

theorem test_meets_split :
    windowOk 0 = true ∧ splitA.parts.flatten.Perm splitB.parts.flatten ∧ splitA.parts.length ≤ 256 ∧ splitB.parts.length ≤ 256 ∧
    (∀ l ∈ splitA.parts ++ splitB.parts, (reducePart 0 l).flags.toNat ≤ 1) ∧ splitA.value 0 = splitB.value 0 := by
  refine ⟨by decide, List.perm_append_comm (l₁ := [FV.fin false 1 0, .fin true 5 (-97)]), by decide, by decide, ?_, ?_⟩
  · decide +kernel
  · decide +kernel

/-! ### Witnesses: engines -/

/-- A descriptor of partition 1's session: an opcode and fields. -/
def descr (op : Byte) (fs : List (Nat × List Byte)) : List Byte :=
  fs.foldl (fun d f => d.take f.1 ++ f.2 ++ d.drop (f.1 + f.2.length)) ([op, 0, 0, 0, 1, 7, 0, 0] ++ List.replicate 56 0)

/-- An address as a field. -/
def le8 (n : Nat) : List Byte := Crypto.leBytes 8 n

/-- An entry of partition 1 whose descriptor stands at the start of its Press. -/
def entry : EngEntry := entryAt 0x8000000000

/-- Core 0 with the entry in the queue of an engine, and its descriptor in memory. -/
def queued (e : Engine) (c : CoreSt) (d : List Byte) : State :=
  ({ ready with cores := [(0, c.setQ e [entry])] } : State).putBytes 0x8000000000 d

/-- The status of the front entry of an engine of core 0 once a command ran. -/
def engStatus (e : Engine) (i : Instr) (s : State) : Option Status :=
  (((out (exec i s)).core 0).q e).head?.bind (fun x => x.status)

theorem test_meets_engine_commands :
    let s := queued .mxe CoreSt.reset (descr 1 [(9, [3])])
    let d : Desc := descr 1 [(9, [3])]
    (engRow (.opn 0)).isSome = true ∧ s.engOn = true ∧ (s.physCore 0).isSome = true ∧ ((s.core 0).q .mxe)[0]? = some entry ∧
      (s.memRead (entryAgent 0 entry) entry.desc 64).2 = (stOk, d) ∧ d.bits 2 5 1 ≠ 1 ∧ d.bits 4 0 5 = entry.pid.toNat ∧
      d.n 5 3 = entry.pgen.toNat ∧ d.n 0 1 = 1 ∧ (bodyOpen 0 (cmdAgent 0 entry d) entry d (atStart s ⟨0, .mxe, 1, bodyOpen 0⟩)).1.run.asks = [] := by decide +kernel

theorem test_meets_engine_refusals :
    hasOpcode .mxe 2 = false ∧
    engStatus .mxe (.opn 0) (queued .mxe CoreSt.reset (descr 2 [])) = some 0x8B ∧
    engStatus .mxe (.opn 0) (queued .mxe CoreSt.reset (descr 1 [(5, [8])])) = some 0x89 ∧
    engStatus .dma (.copy 0) (queued .dma CoreSt.reset (descr 3 [])) = some 0x9F := by decide +kernel

/-- A descriptor in a poisoned line. -/
theorem test_meets_unreadable :
    let s : State := { queued .rge CoreSt.reset (descr 2 []) with badLines := [(0x8000000000 / 64, true)] }
    (s.memRead (entryAgent 0 entry) entry.desc 64).2.1 ≠ stOk ∧ (s.memRead (entryAgent 0 entry) entry.desc 64).2.1 ≠ stNoCredit := by
  decide +kernel

/-- An EWA slot 0 of w = 0, all zero. -/
def withSlot : CoreSt := CoreSt.reset.openSlot 0 3 0

theorem test_opn_runs : engStatus .mxe (.opn 0) (queued .mxe CoreSt.reset (descr 1 [(9, [3])])) = some stOk := by decide +kernel
theorem test_mma_runs :
    engStatus .mxe (.mma 0) (queued .mxe withSlot (descr 0x10 [(12, [4]), (16, le8 0x8000001000), (24, le8 0x8000002000),
      (32, [16]), (36, [128])])) = some stOk := by decide +kernel
theorem test_smma_runs :
    engStatus .mxe (.smma 0) (queued .mxe withSlot (descr 0x11 [(12, [4]), (16, le8 0x8000001000), (24, le8 0x8000002000),
      (32, [16]), (36, [128])])) = some stOk := by decide +kernel
theorem test_drain_runs :
    engStatus .mxe (.drain 0) (queued .mxe withSlot (descr 0x30 [(16, le8 0x8000001000), (24, [128])])) = some stOk := by decide +kernel
theorem test_dropRps_runs : engStatus .rge (.dropRps 0) (queued .rge CoreSt.reset (descr 2 [])) = some stOk := by decide +kernel

/-- An image of a ring-parameter set: N = 4096, one prime 40961, whose root 3^5 has order 8192. -/
def rpsImage : List Byte :=
  le8 1 ++ [12, 1, 0, 1] ++ List.replicate 52 0 ++ le8 40961 ++ List.replicate 376 0 ++ le8 243 ++ List.replicate 568 0

theorem test_loadRps_runs :
    engStatus .rge (.loadRps 0) ((queued .rge CoreSt.reset (descr 1 [(16, le8 0x8000001000)])).putBytes 0x8000001000 rpsImage) =
      some stOk := by decide +kernel

/-- A vector command on one Z64 element: 5 at A, 7 at B, to D. -/
def vector (op : Byte) (fs : List (Nat × List Byte)) : State :=
  (queued .rge CoreSt.reset (descr op ([(8, [10]), (12, [1]), (16, le8 0x8000001000), (24, le8 0x8000001008),
    (32, le8 0x8000001010)] ++ fs))).putBytes 0x8000001000 (le8 5 ++ le8 7)

theorem test_vadd_runs : engStatus .rge (.vadd 0) (vector 0x10 []) = some stOk ∧
    (out (exec (.vadd 0) (vector 0x10 []))).bytes 0x8000001010 8 = le8 12 := by decide +kernel
theorem test_vsub_runs : engStatus .rge (.vsub 0) (vector 0x11 []) = some stOk ∧
    (out (exec (.vsub 0) (vector 0x11 []))).bytes 0x8000001010 8 = le8 (2 ^ 64 - 2) := by decide +kernel
theorem test_vmul_runs : engStatus .rge (.vmul 0) (vector 0x12 []) = some stOk ∧
    (out (exec (.vmul 0) (vector 0x12 []))).bytes 0x8000001010 8 = le8 35 := by decide +kernel
theorem test_lfadd_runs :
    engStatus .rge (.lfadd 0) (queued .rge CoreSt.reset (descr 0x48 [(12, [1]), (16, le8 0x8000001000), (24, le8 0x8000001020)])) =
      some stOk := by decide +kernel
theorem test_scatterAdd_runs :
    engStatus .rge (.scatterAdd 0) (queued .rge CoreSt.reset (descr 0x41 [(8, [9]), (12, [1]), (16, le8 0x8000001000),
      (24, le8 0x8000001020), (32, le8 0x8000001040), (40, [1])])) = some stOk := by decide +kernel
theorem test_copy_runs :
    (out (exec (.copy 0) ((queued .dma CoreSt.reset (descr 1 [(16, le8 0x8000001000), (24, le8 0x8000001020), (32, [4])])).putBytes
      0x8000001000 [1, 2, 3, 4]))).bytes 0x8000001020 4 = [1, 2, 3, 4] := by decide +kernel

/-- The statement about FILL: a range that ends at the end of a line. -/
theorem test_meets_fill :
    let s := queued .dma CoreSt.reset (descr 2 [(8, [1, 2, 3]), (24, le8 0x800000103C), (32, [4])])
    (0x3C : Nat) + 4 ≤ 64 ∧ s.lineBad 0x800000103C = false ∧
      (∀ i < 4, s.place 0 (0x800000103C + i) = .press 0 (0x800000103C + i) ∧
        s.checkPlace 1 true none (s.place 0 (0x800000103C + i)) = stOk) ∧
      engStatus .dma (.fill 0) s = some stOk := by decide +kernel

/-- OPEN at the ends of w, and an index that is no multiple of the mode's units. -/
theorem test_meets_open :
    let d : Desc := descr 1 [(8, [4]), (9, [3]), (10, [0, 0xFF])]
    d.headOk = true ∧ d.skip = false ∧ d.bits 8 7 1 = 0 ∧ d.bits 9 2 6 = 0 ∧ d.zero 12 52 = true ∧
    signedOf 2 (d.n 10 2) = -256 ∧ d.bits 8 0 7 % 4 = 0 ∧
    ¬ (signedOf 2 (Desc.n (descr 1 [(9, [3]), (10, [0, 1])]) 10 2) ≤ 255) ∧
    Desc.bits (descr 1 [(8, [2]), (9, [3])]) 8 0 7 % 4 ≠ 0 := by decide +kernel

/-- Seed slot 4095, the last of its die, allotted to partition 1. -/
def withSeed (s : State) : State :=
  s.setSeedSlot 0 4095 { SeedSlot.reset with pid := some 1, seed := some (List.replicate 32 7) }

theorem test_meets_seed_clear :
    let d : Desc := descr 2 [(8, [0xFF]), (9, [0x0F]), (12, [1])]
    d.headOk = true ∧ d.bits 9 4 4 = 0 ∧ d.zero 10 2 = true ∧ d.zero 16 48 = true ∧ d.n 12 4 = 1 ∧ d.slot = 4095 ∧
    (withSeed ready).slotOwned (cmdAgent 0 entry d) 4095 = stOk ∧
    engStatus .mkx (.seedClear 0) (withSeed (queued .mkx CoreSt.reset d)) = some stOk ∧
    ((out (exec (.seedClear 0) (withSeed (queued .mkx CoreSt.reset d)))).seedSlot 0 4095).seed = none := by decide +kernel

theorem test_seedLoad_runs :
    engStatus .mkx (.seedLoad 0) (withSeed (queued .mkx CoreSt.reset (descr 1 [(8, [0xFF]), (9, [0x0F]), (12, [1]),
      (16, le8 0x8000001000)]))) = some stOk := by decide +kernel
theorem test_expand_runs :
    engStatus .mkx (.expand 0) (withSeed (queued .mkx CoreSt.reset (descr 0x10 [(8, [0xFF]), (9, [0x0F]), (10, [9]), (12, [1]),
      (16, le8 0x8000001000)]))) = some stOk := by decide +kernel
theorem test_macc_runs :
    engStatus .rge (.macc 0) (withSeed (queued .rge CoreSt.reset (descr 0x40 [(8, [9]), (10, [0xFF, 0x0F]), (12, [1]),
      (16, le8 0x8000001000), (24, le8 0x8000001020)]))) = some stOk := by decide +kernel

theorem test_meets_vectors : (9 : Nat) ≤ 9 ∧ (11 : Nat) ≤ 11 ∧ (1 : Nat) < 3 ∧ vecOp 0x11 11 3 false false 1 2 = 2 := by decide +kernel

/-! ### Witnesses: the units of a cluster -/

/-- A request of partition 1 at the start of its Press. -/
def request : UnitReq := { addr := 0x8000000000, pid := 1, core := none }

/-- Cluster 0 with the request in the queue of the sampler and of the router, and its bytes in memory. -/
def withUnits (d : List Byte) : State :=
  ({ ready with clusters := [(0, { ClusterSt.reset with nsuQ := [request], rtrQ := [request] })] } : State).putBytes 0x8000000000 d

theorem test_meets_cluster_units :
    let d : Desc := descr 1 []
    let s := withUnits d
    s.engOn = true ∧ (s.physCluster 0).isSome = true ∧ (s.unitReq pgNsu 0 request).2 = (stOk, d) ∧ (s.unitReq pgRouter 0 request).2 = (stOk, d) ∧ (s.cluster 0).nsuRun = none ∧
      (s.cluster 0).nsuQ = [request] ∧ s.takesWork (s.clusterPage 0 pgNsu) = true ∧ (s.cluster 0).rtrRun = none ∧
      (s.cluster 0).rtrQ = [request] ∧ s.takesWork (s.clusterPage 0 pgRouter) = true := by decide +kernel

/-- The end of a unit's run, of each opcode. -/
theorem test_meets_unit_opcodes :
    ((out (exec (.addNoise 0) (withUnits (descr 1 [])))).cluster 0).nsuRun.isSome = true ∧
    ((out (exec (.unfreeze 0) (withUnits (descr 2 [])))).cluster 0).nsuRun.isSome = true ∧
    ((out (exec (.sample 0) (withUnits (descr 3 [])))).cluster 0).nsuRun.isSome = true ∧
    ((out (exec (.route 0) (withUnits (descr 2 [])))).cluster 0).rtrRun.isSome = true := by decide +kernel

/-- Noise requests: no element, and one element of Z64 with parameters but a policy that admits none. -/
theorem test_meets_add_noise :
    addNoiseCheck ready (unitAgent pgNsu 0 request 1) (descr 1 [(8, [0xA0])]) = 0x90 ∧
    addNoiseCheck ready (unitAgent pgNsu 0 request 1) (descr 1 [(8, [0xA0]), (12, [1]), (16, le8 0x8000001000), (48, le8 0x8000001040)]) ≠ stOk ∧
    addNoiseCheck { ready with parts := [(1, { Part.reset with st := 2, clusters := 1, pgen := 7, mech := 3, gauss := (1, 1), lap := (1, 1) })] }
      (unitAgent pgNsu 0 request 1) (descr 1 [(8, [0xA0]), (12, [1]), (16, le8 0x8000001000), (24, [1]), (28, [1]),
        (48, le8 0x8000001040)]) = stOk := by decide +kernel

/-- A run of the sampler of an opcode. -/
def aRun (op : BitVec 8) : NsuRun :=
  { req := request, op := op, status := none, serial := none, key := none, cls := 1, demoted := false, c3 := [], own := none,
    token := none, undo := [] }

/-- A run of the router with items left. -/
def aRoute (items : List (BitVec 2 × BitVec 12 × Word)) : RouteRun :=
  { req := request, op := 2, items := items, status := stOk, cls := 1, demoted := false, c3 := [] }

/-- Units whose request has its status, and a sampler that waits for a release. -/
def unitsEnded : State :=
  { ready with clusters := [(0, { ClusterSt.reset with
      nsuRun := some { aRun 1 with status := some stOk }, rtrRun := some { aRoute [] with cls := 0 } })] }

theorem test_meets_unit_ends :
    ((unitsEnded.cluster 0).nsuRun.bind (fun x => x.status)) = some stOk ∧ ((unitsEnded.cluster 0).rtrRun.map (fun x => x.items)) = some [] ∧
    unitsEnded.answered (.nsu 0) = true ∧ unitsEnded.answered (.router 0) = true ∧ ((out (exec (.nsuCompletion 0 0) unitsEnded)).cluster 0).nsuRun = none ∧
    ((out (exec (.routerCompletion 0) unitsEnded)).cluster 0).rtrRun = none := by decide +kernel

/-- A freeze without a release in flight. -/
def thawing : State :=
  { ready with
    clusters := [(0, { ClusterSt.reset with nsuRun := some { aRun 2 with serial := some 4 } })]
    frozen := [{ pid := 1, pgen := 7, serial := 4, base := 0x8000001000, len := 64, live := true, thaw := true, rels := 0 }] }

theorem test_meets_unfreeze :
    ((thawing.cluster 0).nsuRun.bind (fun x => x.serial)) = some 4 ∧ (∀ f ∈ thawing.frozen, f.rels = 0) ∧
    (out (exec (.unfreezeComplete 0) thawing)).frozen = [] := by decide +kernel

/-- A router with one item left for queue 5 of die 0. -/
def dispatching : State :=
  { ready with
    clusters := [(0, { ClusterSt.reset with rtrRun := some (aRoute [(0, 5, 42)]) })]
    dies := [(0, { DieSt.reset with queues := [(5, workQueue)] })] }

theorem test_meets_dispatch :
    dispatching.queueOff 0 5 = false ∧ (dispatching.queue 0 5).kind = 1 ∧ (dispatching.queue 0 5).pid = some 1 ∧
    (dispatching.queue 0 5).hasCredit (.router 0) = true ∧
    ((out (exec (.routerItemDispatch 0) dispatching)).queue 0 5).entries = [(42, .router 0)] ∧
    (({ dispatching with dies := [] } : State).queue 0 5).kind ≠ 1 ∧
    (((out (exec (.routerItemDispatch 0) { dispatching with dies := [] })).cluster 0).rtrRun.map (fun x => x.status)) = some 0x7E := by
  decide +kernel

/-- Requests of the DRBG that hold a number of bytes, the first one used in part. -/
def chunks (n : Nat) : List SeedChunk :=
  (if n % 4096 = 0 then [] else [{ key := List.replicate 32 1, v := 0, used := 4096 - n % 4096 }]) ++
    List.replicate (n / 4096) { key := List.replicate 32 2, v := 0, used := 0 }

/-- Seedbed running with a level in its queue. -/
def seeded (level : Nat) : State :=
  { ready with
    regs := [(regKey mboxPage 0x114, 1), (regKey seedPage 0x100, 1)]
    seed := { State.reset.seed with inst := true, key := List.replicate 32 3, queue := chunks level } }

theorem test_meets_reseed :
    ((seeded 48).clusterOwner 0).isSome = true ∧ ((seeded 48).cluster 0).nsuKey = none ∧ (seeded 48).seedMode = 1 ∧
    (seeded 48).canServe 3 48 = true ∧ ((out (exec (.nsuReseed 0) (seeded 48))).cluster 0).nsuKey.isSome = true ∧
    (out (exec (.nsuReseed 0) (seeded 48))).seedLevel = 0 := by decide +kernel

/-! ### Witnesses: registers -/

theorem test_meets_doorbell :
    (∃ r, hostRow ready .doorbell = some r ∧ hostTakes ready r (ready.journalWrite mboxPage (journalWords tyMbox 0x100 4 1)) ∧
      r.ok (wholeWrite r (ready.journalWrite mboxPage (journalWords tyMbox 0x100 4 1)))) :=
  ⟨_, rfl, ⟨by decide, by decide, by decide, by decide, by decide, by decide, by decide, rfl⟩, by decide⟩

/-- The thread page of core 0, and the state in which START's Journal entry waits. -/
def startPage : Page := ready.corePage 0 0
def starting : State := ready.journalWrite startPage (journalWords startPage.type 0x200 4 1)

theorem test_meets_start_host :
    hostRow ready (.start .host w0) = some ⟨startPage, pageAddr startPage 0x200, 4, 1,
      fun t => threadPage w0 startPage t ∧ startable w0 t, fun t =>
      t.setThread w0 { Thread.reset with
        st := .ready
        pc := BitVec.ofNat 64 (t.rd64 startPage 0x208)
        accs := (t.thread w0).accs.map (fun x => { x with rd := 0 }) }⟩ ∧
    threadPage w0 startPage starting ∧ startable w0 starting := by
  refine ⟨rfl, ?_, ?_⟩
  · unfold threadPage; decide +kernel
  · refine ⟨by decide, by decide, by decide, by decide, 1, by decide, by decide⟩

/-- Thread 1's store of 1 to THR_CTRL of thread 0 of its own core. -/
def startingThread : State :=
  { ready with regs := [(regKey mboxPage 0x114, 1), (regKey startPage 0x028, 0x101)], threads := [(1, { Thread.reset with st := .ready, accs := [
    { kind := .store, addr := pageAddr startPage 0x200, size := 4, rd := 0, data := 1, cmp := 0, src := 0, acq := false,
      rel := false, pc := 0, stage := .issued }] })] }

theorem test_meets_start_thread :
    (startingThread.thread w1).accs.length = 1 ∧ startingThread.diesUp = true ∧ startingThread.corePage 0 0 = startPage ∧
    startingThread.place 0 (pageAddr startPage 0x200) = .reg (pageAddr startPage 0x200) ∧
    barPage (pageAddr startPage 0x200) = some startPage ∧
    startingThread.checkReg (startingThread.agentOf w1 1).pid true (pageAddr startPage 0x200) = stOk ∧
    ((out (exec (.start (.thread w1) w0) startingThread)).thread w0).st = .ready := by decide +kernel

/-- Host writes of other rows, by what they do. -/
theorem test_host_evt_set :
    (out (exec (.evtSet .host 3 2) ready)).rd vaultPage 0x018 = 2 := by decide +kernel

/-- A read of the host: RTP_STATE, and a page that nothing occupies. -/
theorem test_meets_host_read :
    hostReadRow (.registerRead .host (BitVec.ofNat 64 (pageAddr mboxPage 0x114)) 4) = some (mboxPage, pageAddr mboxPage 0x114, 4) ∧
    barPage (pageAddr mboxPage 0x114) = some mboxPage ∧ ready.hostReach = true ∧ ready.pageLive mboxPage = true ∧
    ready.answersRead mboxPage = true ∧ is64 mboxPage.type 0x114 = false ∧ is64 mboxPage.type 0x110 = false ∧
    (out (exec (.registerRead .host (BitVec.ofNat 64 (pageAddr mboxPage 0x114)) 4) ready)).host.read = 1 ∧
    State.reset.hostReach = false := by decide +kernel

/-- Raw-sample mode with 7 raw bytes. -/
def rawSampling : State :=
  { seeded 0 with
    regs := [(regKey seedPage 0x100, 0x201)]
    seed := { State.reset.seed with rawBuf := List.replicate 7 0 } }

/-- RAND and RAW that can be served. -/
theorem test_meets_rand :
    (seeded 4104).seedMode = 1 ∧ (seeded 4104).rawOn = false ∧ (seeded 4104).seedLevel = 4104 ∧
    (∀ c ∈ (seeded 4104).seed.queue, c.used ≤ 4096) ∧ ((seeded 4104).readReg .host seedPage 0x800 8).1.seedLevel = 4096 ∧
    rawSampling.rawOn = true ∧ rawSampling.seed.rawBuf.length = 7 ∧ (rawSampling.readReg .host seedPage 0x148 8).1.seed.rawBuf = [] := by
  decide +kernel

/-- A thread's load of RTP_STATE, which READY devices let it read, and its store of a request's address. -/
def registerLoad : State :=
  { ready with threads := [(0, { Thread.reset with st := .ready, accs := [
    { kind := .load false, addr := pageAddr mboxPage 0x114, size := 4, rd := 3, data := 0, cmp := 0, src := 0, acq := false,
      rel := false, pc := 0, stage := .issued }] })] }

def submitting : State :=
  { ready with threads := [(0, { Thread.reset with st := .ready, accs := [
    { kind := .store, addr := pageAddr mboxPage 0x108, size := 8, rd := 0, data := 0x8000001000, cmp := 0, src := 0, acq := false,
      rel := false, pc := 0, stage := .issued }] })] }

theorem test_meets_thread_registers :
    threadReg registerLoad (.registerRead (.thread w0) (BitVec.ofNat 64 (pageAddr mboxPage 0x114)) 4) =
      some (w0, pageAddr mboxPage 0x114, 4, none) ∧
    registerLoad.place 0 (pageAddr mboxPage 0x114) = .reg (pageAddr mboxPage 0x114) ∧
    pageOfAddr (pageAddr mboxPage 0x114) = some mboxPage ∧
    registerLoad.checkReg (registerLoad.agentOf w0 1).pid false (pageAddr mboxPage 0x114) = stOk ∧
    submitting.checkReg (submitting.agentOf w0 1).pid true (pageAddr mboxPage 0x108) = stOk ∧
    submitting.coreOwner 0 = some 1 ∧ submitting.ownedRange (rtpAgent 1) 0x8000001000 512 = stOk ∧ submitting.pqDepth = 0 ∧
    (out (exec (.psubmit w0 0x8000001000) submitting)).rtp.queue = [{ host := false, pid := 1, addr := 0x8000001000 }] := by decide +kernel

/-! ### Witnesses: the mailbox -/

/-- A mailbox request of partition 1's session: CMD, LEN and fields. -/
def req (cmd : Byte) (len : Byte) (fs : List (Nat × List Byte)) : List Byte :=
  fs.foldl (fun d f => d.take f.1 ++ f.2 ++ d.drop (f.1 + f.2.length)) ([cmd, 0, len, 0, 1, 7, 0, 0] ++ List.replicate 248 0)

/-- The host's request, and partition 1's at an address of its Press. -/
def hostReq : RtpReq := { host := true, pid := 0, addr := 0 }
def partReq : RtpReq := { host := false, pid := 1, addr := 0x8000001000 }

/-- A state with a request at the front of the RTP's queue. -/
def asked (r : RtpReq) (q : List Byte) (s : State) : State :=
  let t : State := { s with rtp := { s.rtp with queue := [r] } }
  if r.host then t.putPage mboxPage 0x400 q else t.putBytes r.addr q

/-- The status of the response to a request. -/
def answerOf (r : RtpReq) (t : State) : Status :=
  if r.host then BitVec.ofNat 8 (t.rdN mboxPage 0x800) else t.byte (r.addr + 256)

/-- Slot 100 of partition 1, of an owner branch, and node 9 that partition 1 owns at depth 3. -/
def keyed : State :=
  { ready with
    keys := [(100, { KeySlot.reset with st := .valid, bits := 256, sh0 := 5, branch := 3, mask := 0xFFFF, pid := 1, pgen := 7,
                                        node := 9, allot := some 1 })]
    nodes := [(9, some { parent := none, label := [], user := [], branch := 3, depth := 3, owner := some 1, pgen := 7, gen := 0,
                         dead := true, graft := none, bits := 256, made := true })] }

/-- Whether a body waits, completes or goes on. -/
def comesTo : RtpOut → Nat
  | .wait _ => 0
  | .done _ _ _ => 1
  | .going _ => 2

theorem test_meets_mailbox_done :
    let q := req 0x12 2 [(16, [9])]
    let s := asked partReq q keyed
    (rtpTable .rearm).isSome = true ∧ s.rtp.queue = [partReq] ∧ s.rtpReady = true ∧ (s.rtpRead partReq).2 = (stOk, q) ∧
    rowOf q = 0x12 ∧ s.rtpGate partReq 0x12 = stOk ∧ s.rtpTag partReq q = true ∧
    bodyOk q nodeUsed = true ∧
    comesTo (bodyRearm partReq q s) = 1 ∧ answerOf partReq (out (exec .rearm s)) = stOk := by decide +kernel

theorem test_meets_mailbox_going :
    let q := req 0x11 2 [(16, [9])]
    comesTo (bodyInvalidate partReq q (asked partReq q keyed)) = 2 ∧
      (out (exec .invalidate (asked partReq q keyed))).rtp.queue = [] := by decide +kernel

/-- CHALRESP under a challenge key, sooner than 500 AON cycles after the last. -/
theorem test_meets_mailbox_wait :
    let q := req 0x20 48 [(16, [100])]
    let s : State := { keyed with
      keys := keyed.keys.map (fun e => (e.1, { e.2 with branch := 4 })), rtp := { keyed.rtp with chalTime := some 0 } }
    comesTo (bodyChalresp partReq q (asked partReq q s)) = 0 ∧
      (out (exec .chalresp (asked partReq q s))).rtp.queue = [partReq] := by decide +kernel

/-- POWER_SET to SLEEP of the host, in the host's own request. -/
theorem test_meets_mailbox_host :
    let q := req 0x60 1 [(16, [2])]
    let s := asked hostReq q ready
    rowOf q = 0x602 ∧ s.rtpReady = true ∧ (s.rtpRead hostReq).2 = (stOk, q) ∧ s.rtpGate hostReq 0x602 = stOk := by decide +kernel

/-- Every refusal of the order, by the state that brings it. -/
theorem test_meets_refusals :
    let q := req 0x12 2 [(16, [9])]
    let blocked : State := keyed.setFld vaultPage 0x148 31 1 1
    answerOf hostReq (out (exec .rearm (asked hostReq q blocked))) = stRootBlocked ∧
    answerOf hostReq (out (exec .rearm (asked hostReq q (inMode 3)))) = stFailsafe ∧
    answerOf hostReq (out (exec .rearm (asked hostReq q (inMode 0)))) = stDisabled ∧
    answerOf hostReq (out (exec .rearm (asked hostReq q (inMode 2)))) = stDisabled := by decide +kernel

theorem test_meets_refusals_of_requests :
    let q := req 0x12 2 [(16, [9])]
    answerOf partReq (out (exec .rearm (asked partReq (req 0x12 2 [(5, [8]), (16, [9])]) keyed))) = stTag ∧
    answerOf partReq (out (exec .rearm (asked partReq (req 0x77 2 []) keyed))) = stMbox ∧
    answerOf partReq (out (exec .rearm (asked partReq (req 0x12 3 [(16, [9, 0, 1])]) keyed))) = stMbox ∧
    answerOf partReq (out (exec .trimRead (asked partReq (req 0x40 0 []) keyed))) = stMbox ∧
    answerOf hostReq (out (exec .rearm (asked hostReq q (ready.wrN (.dieE tyClocks) 0x11C 0x22)))) = stPowerBusy := by decide +kernel

/-- Requests for keys and nodes that meet their conditions. -/
theorem test_meets_keys :
    keyed.nodeRight partReq 9 = true ∧ (keyed.node 9).isSome = true ∧ (keyed.slotUser partReq 100).isSome = true ∧
    keyed.keyHeld [100] = false ∧ keyed.slotStatus partReq false 100 = stOk ∧ (keyed.key 100).mask.getLsbD mbMkx = true ∧
    ((withSeed keyed).seedSlot 0 4095).pid = (keyed.key 100).allot ∧
    comesTo (bodySlotDestroy partReq (req 0x13 1 [(16, [80])]) keyed) = 1 ∧
    comesTo (bodySlotDestroy partReq (req 0x13 1 [(16, [100])]) keyed) = 1 ∧
    comesTo (bodyKeyToSeed partReq (req 0x14 4 [(16, [100, 0, 0xFF, 0x0F])]) (withSeed keyed)) = 1 := by decide +kernel

theorem test_owner_replace_keeps_current :
    (match bodyOwnerReplace partReq (req 0x18 48 [(16, [100])]) keyed with
      | .done t st _ => decide (st = stOk) && (t.key 100).sh0 = 5
      | _ => false) = true := by decide +kernel

/-- An INVALIDATE that waits for nothing more; the steps of a teardown before and after the peers' own. -/
def revoking : State :=
  { keyed with rtp := { keyed.rtp with revoke := some { req := partReq, seq := 3, slots := [100], destroy := true } } }

def tearing (n : Nat) : State :=
  { keyed with rtp := { keyed.rtp with teardown := some { req := hostReq, seq := 3, pid := 1, step := n } } }

/-- SLEEP with die E awake. -/
def dieEAwake : State := ready.wrN (.dieE tyClocks) 0x11C 0x22

theorem test_meets_waits :
    revoking.keyHeld [100] = false ∧ revoking.rtpHalted = false ∧ revoking.escOn = true ∧
    ((out (exec .invalidateComplete revoking)).key 100).st = .empty ∧
    (tearing 2).rtp.teardown.isSome = true ∧ (tearing 3).rtpHalted = false ∧ (tearing 3).escOn = true ∧
    dieEAwake.power = 2 ∧ dieEAwake.mode = 1 ∧ dieEAwake.escOn = true ∧ dieEAwake.rtp.queue = [] ∧
    (out (exec .dieERetentionReturn dieEAwake)).escOn = false ∧ ready.power ≠ 2 := by decide +kernel

theorem test_meets_remask :
    (seeded 16384).escOn = true ∧ (seeded 16384).seedMode = 1 ∧ (seeded 16384).seedLevel = 16384 ∧
    256 ≤ (ready.wrN vaultPage 0x114 256).fld vaultPage 0x114 0 16 ∧ ready.seed.ageAlarm = false ∧
    (seeded 63).seedLevel < 64 ∧ (out (exec .remaskSweep (seeded 63))).seed.sweep = some 0 := by decide +kernel

/-! ### Witnesses: Mitre -/

/-- Send queue 5 and receive queue 6 of partition 1 on die 0, with items, over ring 3; queue 5 is the control queue. -/
def bound (items : List Word) : State :=
  { ready with
    parts := [(1, { Part.reset with st := 2, clusters := 1, pgen := 7, ports := 1, ctrlSq := 5, peers := [4] })]
    dies := [(0, { DieSt.reset with
      queues := [(5, { workQueue with kind := 2, entries := items.map (fun x => (x, .host)) }),
                 (6, { workQueue with kind := 3, entries := items.map (fun x => (x, .host)) })]
      mitre := { DieSt.reset.mitre with
        rings := [(3, some { pid := 1, isAeq := false, base := 0x8000002000, log2n := 4, hdr := 0x8000003000, written := 0,
                             waiting := [] })]
        queues := [(5, some { pid := 1, isRq := false, cq := 3, cls := 0, grantMax := 0, records := 0, bufs := [], grants := 0,
                              list := [], hold := none }),
                   (6, some { pid := 1, isRq := true, cq := 3, cls := 1, grantMax := 1, records := 1, bufs := [], grants := 0,
                              list := [], hold := none })] } })] }

/-- A descriptor at the front of both queues. -/
def atFront (d : List Byte) : State := (bound [0x8000001000]).putBytes 0x8000001000 d

/-- KIND and STATUS of the first record of ring 3. -/
def firstRecord (t : State) : Byte × Byte := (t.byte 0x8000002000, t.byte 0x8000002001)

theorem test_meets_send_queue :
    let d : Desc := descr 0x10 [(8, [2]), (10, [1]), (14, [4]), (16, le8 0x8000004000), (24, le8 0x8000005000)]
    let s := atFront d
    (s.mq 0 5).isSome = true ∧ s.engOn = true ∧ s.cqBlocked 0 5 = false ∧ (s.queue 0 5).entries = [(0x8000001000, .host)] ∧
    s.takesWork (mitrePage 0) = true ∧ s.checkRange (mitreAgent 0 1 1) false 0x8000001000 64 = stOk ∧
    (s.memRead (mitreAgent 0 1 1) 0x8000001000 64).2 = (stOk, d) ∧ d.tagOk 1 7 = true ∧ sqRow d = 3 ∧ mitreHeadOk d = true ∧
    (s.part 1).ctrlSq = 5 ∧ s.ctrlDie 1 = 0 ∧ s.run.asks = [] ∧ (out (exec (.queueSetup 0 5) s)).run.asks = [] ∧
    firstRecord (out (exec (.queueSetup 0 5) s)) = (stOk, 2) ∧ ((out (exec (.queueSetup 0 5) s)).ring 0 1).isSome = true := by
  decide +kernel

/-- WAIT_COUNT of queue 6, whose count is 1: met at once, or holding its queue, which then ends. -/
theorem test_meets_wait_count :
    let d (n : Byte) : Desc := descr 2 [(8, [1]), (10, [6]), (12, [n])]
    firstRecord (out (exec (.waitCount 0 5) (atFront (d 1)))) = (stOk, 3) ∧
    (((out (exec (.waitCount 0 5) (atFront (d 2)))).mq 0 5).bind (fun m => m.hold)) = some (6, 2, 0x8000001000, 0) ∧
    ((out (exec (.waitCount 0 5) (atFront (d 2)))).queue 0 5).entries = [] := by decide +kernel

theorem test_meets_wait_ends :
    let s := (bound []).setMq 0 5 (((bound []).mq 0 5).map (fun m => { m with hold := some (6, 1, 64, 0) }))
    ((s.mq 0 5).bind (fun m => m.hold)) = some (6, 1, 64, 0) ∧ ((s.mq 0 6).map (fun m => m.records)) = some 1 ∧
      firstRecord (out (exec (.waitCount 0 5) s)) = (stOk, 3) := by decide +kernel

theorem test_meets_recv :
    let d : Desc := descr 1 [(16, le8 0x8000006000), (24, [64]), (40, [9])]
    let s := atFront d
    s.heldBufs 0 = 0 ∧ recvFields d = true ∧
    s.checkRanges (mitreAgent 0 1 1) [(true, 0x8000006000, 64), (true, 0, 0)] = stOk ∧
    (s.mitreWicket (mitreAgent 0 1 1) 0x8000006000 64).2 = stOk ∧
    (((out (exec (.recv 0 6) s)).mq 0 6).map (fun m => m.bufs)) =
      some [{ desc := 0x8000001000, base := 0x8000006000, len := 64, zmap := 0, user := 9 }] := by decide +kernel

/-- Peer 0 of partition 1, whose keys stand in slots 100 and 101. -/
def aPeer : Peer :=
  { newPeer 1 0 (descr 0x11 [(8, [0x80]), (10, [6]), (36, [2]), (40, [100, 101]), (48, [0x80])]) with back := 0 }

/-- Mitre in service on die 0 with UDP port 4791 and one address, and the peer, cached. -/
def peered (p : Peer) (cached : Bool) : State :=
  let s := (bound []).wrN (mitrePage 0) 0x100 (65536 + 4791)
  let s1 : State := { s.wrN (ethPage 0) 0x120 1 with
    keys := [(100, { KeySlot.reset with st := .valid, bits := 256, sh0 := 5, branch := 5, mask := 2, pid := 1, pgen := 7, allot := some 1 }),
             (101, { KeySlot.reset with st := .valid, bits := 256, sh0 := 6, branch := 5, mask := 4, pid := 1, pgen := 7, allot := some 1 })] }
  let s2 := s1.setMit 0 { s1.mit 0 with cache := if cached then [0] else [] }
  s2.setPeer 0 (some p)

/-- An ACK whose tag is not the right one, in a datagram from address 2 (its checksum computed outside the model). -/
def unsealed : Frame :=
  { port := 0, src := 2, dst := 1, extHdr := false, udpSrc := 0xC000, udpPort := 4791, udpSum := 5251
    body := mitreHead 3 false 1 0 0 2 3 ++ List.replicate 60 0 }

/-- The same ACK with its tag: AES-256-GCM under the RX key 6 of EPOCH 2 and PKT_CTR 3 (computed with OpenSSL). -/
def sealed : Frame :=
  { unsealed with
    udpSum := 19137
    body := unsealed.body.take 64 ++ [121, 230, 242, 201, 74, 184, 199, 171, 227, 143, 26, 138, 141, 242, 190, 160] }

/-- A frame that carries no Mitre packet of ours. -/
def otherFrame : Frame := 
  { port := 0, src := 2, dst := 1, extHdr := false, udpSrc := 0xC000, udpPort := 53, udpSum := 0, body := [] }

theorem test_meets_frames :
    let s := peered aPeer true
    let f := unsealed
    inService s ∧ s.recognises otherFrame = false ∧ s.recognises f = true ∧ s.badFrame { f with udpSum := 1 } = true ∧
    s.badFrame f = false ∧ s.badFrame sealed = false ∧ f.ty = 3 ∧ f.peer = 0 ∧ s.peer 0 = some aPeer ∧ (s.part 1).ports.getLsbD 0 = true ∧ (s.part 1).st = 2 ∧
    s.cached 0 = true ∧ (peered aPeer false).cached 0 = false ∧ aPeer.st = .active := by unfold inService; decide +kernel

theorem test_meets_unknown_peer :
    let s := (peered aPeer true).setPeer 0 none
    s.peer 0 = none ∧ ((out (exec (.mitreAck unsealed) s)).rdN (mitrePage 0) 0x124) = 1 := by
  decide +kernel

theorem test_meets_authentication :
    let s := peered aPeer true
    let f := sealed
    s.authenticate aPeer f = some ([], false) ∧ s.authenticate aPeer { f with body := f.body.take 79 } = none := by decide +kernel

/-! ### Witnesses: peers, ports, Joist, links -/

/-- A send of 64 bytes that has not begun, and a packet that waits for its acknowledgement. -/
def aSend : SendOp :=
  { q := 5, desc := 0x8000001000, msn := none, cls := 1, paths := 1, src := 0x8000006000, len := 64, zmap := 15, user := 0, off := 0,
    pkts := 0, acked := 0, rel := none, released := false, sealSlot := none, sealOut := none, stop := none, demoted := false }

def aPacket : TxPkt :=
  { psn := 0, ty := 1, msn := 0, cls := 1, off := 0, plen := 64, map := 0, total := 64, path := 0, paths := 1,
    body := List.replicate 64 0, fast := false }

theorem test_meets_peers_send :
    let p : Peer := { aPeer with sends := [aSend] }
    let s := peered p true
    s.peer 0 = some p ∧ p.nextSend = some aSend ∧ s.mayTransmit p = true ∧ s.cached 0 = true ∧ p.allows p.msnNext = false ∧
    Peer.allows { p with msgLimit := 1 } p.msnNext = true ∧ s.mitreValid ((p.portOf 0).toNat / 2) = true ∧
    ((out (exec (.ackDelayExpiry 0) (peered { aPeer with due := true } true))).peer 0).map (fun x => (x.due, x.pktCtr)) =
      some (false, aPeer.pktCtr + 1) ∧ (s.keyRequest 1 aPeer.txSlot mbMitreTx).1 = stOk := by decide +kernel

theorem test_meets_peers_retry :
    let p : Peer := { aPeer with unacked := [aPacket] }
    let s := (peered p true).wrN (mitrePage 0) 0x104 (7 * 2 ^ 24)
    s.mayTransmit p = true ∧ p.unacked ≠ [] ∧ p.retry ≠ s.fld (mitrePage 0) 0x104 24 4 ∧
    Peer.retry { p with retry := 7 } = s.fld (mitrePage 0) 0x104 24 4 ∧
    (((out (exec (.retransmitTimeout 0) ((peered { p with retry := 7 } true).wrN (mitrePage 0) 0x104 (7 * 2 ^ 24)))).peer 0).map
      (fun x => x.st)) = some .unreachable := by decide +kernel

/-- An open slot with a buffer; an epoch that has ended; counters at their limits. -/
theorem test_meets_peers_end :
    let b : PostBuf := { desc := 64, base := 0x8000006000, len := 64, zmap := 0, user := 0 }
    let p : Peer := { aPeer with slots := [{ mapping := false, msn := 4, total := 64, placed := 0, buf := some b, tooLong := false, data := [], zero := [], demoted := false }] }
    ((p.slots.find? (fun m => m.msn = 4)).bind (fun m => m.buf)) = some b ∧
    (((out (exec (.messageAbandon 0 4) (peered p true))).peer 0).map (fun x => x.slots)) = some [] ∧
    (((out (exec (.messageAbandon 0 4) (peered { p with slots := p.slots.map (fun m => { m with buf := none }) } true))).peer 0).map
      (fun x => x.slots)) = some [] ∧ aPeer.rxNew = false ∧
    (((out (exec (.rxKeyRelease 0) (peered { aPeer with oldRx := some (9, 1) } true))).peer 0).bind (fun x => x.oldRx)) = none ∧
    (((out (exec (.rekeyDue 0) (peered { aPeer with pktCtr := 2 ^ 40 - 2 ^ 30 } true))).peer 0).map (fun x => x.dueEvt)) = some true ∧
    (((out (exec (.keyExhausted 0) (peered { aPeer with pktCtr := 2 ^ 40 } true))).peer 0).map (fun x => x.st)) =
      some .keyExhausted := by decide +kernel

/-- A peer whose context is fetched from region 0, which partition 1 holds near die 0. -/
def fetching : State :=
  let s := peered aPeer false
  let t : State := { s with
    regions := [(0, some { owner := some 1, near := some 0, frames := [(0, 0), (1, 0), (2, 0), (3, 0)] })]
    parts := s.parts.map (fun e => (e.1, { e.2 with backing := [(0, 0)] })) }
  t.setMit 0 { t.mit 0 with waiting := [0], miss := [unsealed] }

theorem test_meets_fetch_complete :
    fetching.engOn = true ∧ (fetching.mit 0).waiting.contains 0 = true ∧ fetching.peer 0 = some aPeer ∧ fetching.cached 0 = false ∧
    (fetching.cacheIn 0).isSome = true ∧ ((fetching.cacheIn 0).bind (fun t => t.blockKey (fetching.backAddr 0 aPeer))) = some 0 ∧
    ((fetching.cacheIn 0).map (fun t => t.ver0 0)) = some 0 := by decide +kernel

theorem test_meets_ports :
    (bound []).diesUp = true ∧ ((bound []).ring 0 3).isSome = true ∧ (bound []).fld (ethPage 7) 0x100 0 1 = 0 ∧
    ((out (exec (.portUp 7 0) (bound []))).fld (ethPage 7) 0x100 0 1) = 1 ∧
    ((out (exec (.portDown 0 0) ((bound []).wrN (ethPage 0) 0x100 1))).fld (ethPage 0) 0x100 0 1) = 0 := by decide +kernel

/-- Device 2, whose lane 33 of die 0 is up; the RPID of partition 1 is 5. -/
def linked (l : JLink) : State :=
  ({ ready with parts := [(1, { Part.reset with st := 2, clusters := 1, pgen := 7, rpid := 5 })] }.wrN (joistPage 0) 0x100 0x102).setLink
    0 33 { l with up := true }

/-- The packets of the statement's clauses: to this device, and to another. -/
theorem test_meets_joist :
    let s := linked JLink.reset
    let n : JPkt := { jp with rpid := 6 }
    inService s ∧ (s.link 0 33).up = true ∧ (s.die 0).vcHeld = [] ∧ (s.link 0 33).held jp.cls.toNat + pktCells jp ≤ 32 ∧ s.devNum 0 = some jp.dst.toNat ∧ s.devNum 0 ≠ some 3 ∧
    s.rpidPart 5 = some 1 ∧ s.rpidPart n.rpid = none ∧ s.arrivalCheck jp 1 false false 8 = stOk ∧
    (s.memRead { die := 0, pid := 1, cls := 1, sel := 0, port := 36 } 0x8000000000 8).2 = (stOk, List.replicate 8 0) ∧
    s.arrivalCheck { jp with addr := 0x8004000000 } 1 false false 8 = stBound := by unfold inService; decide +kernel

theorem test_meets_joist_writes :
    let s := linked JLink.reset
    let w : JPkt := { jp with payload := [1, 2] }
    let a : JPkt := { jp with op := 0x10, payload := le8 5 }
    let f : JPkt := { jp with op := 4, payload := List.replicate 24 0 }
    s.arrivalCheck w 1 true false 2 = stOk ∧ (out (exec (.wr 0 33 w) s)).bytes 0x8000000000 2 = [1, 2] ∧
    a.op.toNat % 16 < 4 ∧ s.arrivalCheck a 1 true false 8 = stOk ∧ (out (exec (.joistAtom 0 33 a) s)).byte 0x8000000000 = 5 ∧
    f.op.toNat % 16 = 4 ∧ s.arrivalCheck f 1 true false 20 = stOk ∧
    (s.lfaddAt { die := 0, pid := 1, cls := 1, sel := 0, port := 36 } 0x8000000000 0 f.payload).2 = (stOk, 0) := by decide +kernel

/-- A link with a packet in its replay buffer, after 6 and 7 replays. -/
def replaying (n : Nat) : State := linked { JLink.reset with replay := [(1, jp)], replays := n }

theorem test_meets_links :
    ((replaying 6).link 0 33).replay ≠ [] ∧ ((replaying 6).link 0 33).replays + 1 < 8 ∧ 8 ≤ ((replaying 7).link 0 33).replays + 1 ∧
    ((out (exec (.linkReplay 0 33) (replaying 6))).out) = [.joist 0 33 1 jp] ∧
    ((out (exec (.linkReplay 0 33) (replaying 7))).link 0 33).up = false ∧
    (ready.link 0 31).up = false ∧ ready.laneInService 0 31 = true ∧ (ready.link 0 31).queued = [] ∧
    ((out (exec (.linkUp 0 31 3 4) ready)).link 0 31).up = true ∧
    ((out (exec (.vcCreditGrant 0 33 1 63) (linked { JLink.reset with credits := [(1, 4)] }))).link 0 33).free 1 = 32 := by
  decide +kernel

/-! ### Witnesses: memory maintenance -/

/-- Region 0 of partition 1, near die 0, in a scrub. -/
def scrubbed (pid : Option (BitVec 5)) : State :=
  { ready with
    regions := [(0, some { owner := some 1, near := some 0, frames := [(0, 0), (1, 0), (2, 0), (3, 0)] })]
    scrubs := [{ regions := [0], pid := pid, key := none }] }

theorem test_meets_memory :
    (scrubbed none).scrubs[0]? = some { regions := [0], pid := none, key := none } ∧ ((scrubbed none).regionRaw 0).isSome = true ∧
    ((out (exec (.scrubComplete 0) ((scrubbed none).putBytes 0 [7]))).byte 0) = 0 ∧
    (scrubbed (some 1)).scrubs[0]? = some { regions := [0], pid := some 1, key := none } ∧
    ready.placeLocal 0x807FFFFFFF = .press 31 0x807FFFFFFF ∧ ready.placeLocal 0x8100000000 = .drawer 0 0x8100000000 := by
  decide +kernel

theorem test_meets_retire :
    let s : State := { ready with hbm := [(15, { StackSt.reset with fails := [(15359, 4)] })] }
    4 ≤ sget (fun _ => (0 : Nat)) (s.stack 15).fails 15359 ∧ (s.wrN (hbmcPage 15) 0x110 65536).fld (hbmcPage 15) 0x110 16 9 ≠ 0 := by
  decide +kernel

/-- A block whose version is one write from its end. -/
theorem test_meets_reencrypt :
    let s : State := { scrubbed none with scrubs := [], v0 := [(0, 0xFFFFFFFE)] }
    s.blockKey 0 = some 0 ∧ s.versionsFull 0 = true := by decide +kernel

/-! ### Witnesses: Seedbed -/

/-- Seedbed HEALTHY, with its sources in service, seeds and output. -/
def healthy (f : SeedSt → SeedSt) : State :=
  { ready with
    regs := [(regKey mboxPage 0x114, 1), (regKey seedPage 0x100, 0xFF0001), (regKey seedPage 0x108, 20)]
    seed := f { State.reset.seed with inst := true, key := List.replicate 32 3, passed := 0xFF, queue := chunks 61440 } }

/-- A source with a whole block of zeros, and one whose next 5 fails the one test or the other. -/
def wholeBlock : SeedSource := { SeedSource.reset with block := List.replicate 512 0, start := 4096 }
def equalRun : SeedSource := { SeedSource.reset with block := [5], first := 4, same := 1, last := 5, run := 20 }
def equalMany : SeedSource := { SeedSource.reset with block := [4, 5], first := 5, same := 310, last := 4, run := 1 }

theorem test_meets_seedbed :
    let s := healthy id
    s.escOn = true ∧ s.seedMode ≠ 3 ∧ s.rawOn = false ∧ s.seed.inst = true ∧ s.sourcesOn.getLsbD 7 = true ∧
    s.fld seedPage 0x118 0 3 < 3 ∧ s.seedHold = false ∧ s.seed.since < s.seedLimit ∧ s.seedLevel + 4096 ≤ 65536 ∧
    ((out (exec (.sourceBlockEnd []) (healthy (fun x => { x with sources := [(2, wholeBlock), (7, wholeBlock)] })))).seed.forming.map
      (fun x => (x.1.length, x.2))) = [(48, true)] ∧
    (out (exec (.healthTestFail 7 [5]) (healthy (fun x => { x with sources := [(7, equalRun)] })))).seedHold = true ∧
    (out (exec (.healthTestFail 7 [5]) (healthy (fun x => { x with sources := [(7, equalMany)] })))).seedHold = true ∧
    (out (exec .drbgGenerate s)).seedLevel = 65536 := by decide +kernel

theorem test_fourth_failure_is_fatal :
    (out (exec (.healthTestFail 7 [5]) ((healthy (fun x => { x with sources := [(7, equalRun)] })).wrN seedPage 0x118 3))).seedMode = 3 ∧
    (out (exec .failureLeavesWindow ((healthy id).wrN seedPage 0x118 3))).fld seedPage 0x118 0 3 = 2 := by decide +kernel

theorem test_meets_seedbed_seeds :
    let seed := List.replicate 48 (6 : Byte)
    let s := healthy (fun x => { x with forming := [(seed, false), (seed, true)] })
    let h := (healthy (fun x => { x with forming := [(seed, true)] })).setFld seedPage 0x100 4 1 1
    s.start = none ∧ h.seedHold = true ∧ (out (exec .seedConditioned s)).seed.seeds = [seed] ∧
    (out (exec .seedConditioned h)).seedHold = false ∧
    (out (exec (.sourceStartupPass 7) (healthy (fun x => { x with fresh := 0x80, passed := 0x7F, sources := [(7, wholeBlock)] })))).seed.fresh =
      0 ∧
    (healthy (fun x => { x with since := 2 ^ 20, seeds := [seed] })).seedLimit ≤ 2 ^ 20 ∧
    (out (exec .drbgReseed (healthy (fun x => { x with since := 2 ^ 20, seeds := [seed] })))).seed.since = 0 := by decide +kernel

/-! ### Witnesses: events and snapshots -/

/-- The EVC enabled; source 2, the mailbox's page, with its line. -/
def sensing (e : EvSrc) (line : Bool) : State :=
  { ready with
    regs := [(regKey mboxPage 0x010, 1), (regKey mboxPage 0x014, 1), (regKey mboxPage 0x018, if line then 1 else 0), (regKey mboxPage 0x114, 1),
             (regKey evcPage 0x100, 1)]
    time := 9
    evc := { State.reset.evc with
      srcs := [(2, e)], groups := [(0, 1)], tgts := [(0, { Tgt.reset with enable := true, prio := 0 })] } }

theorem test_meets_sample :
    let off : EvSrc := EvSrc.reset
    let lev : EvSrc := { EvSrc.reset with en := true }
    let edge : EvSrc := { EvSrc.reset with en := true, sense := 3 }
    (sensing off true).escOn = true ∧ (sensing off true).srcLine 2 = some true ∧ (sensing off false).srcLine 2 = some false ∧
    ((out (exec (.eventLineSample 2) (sensing lev true))).src 2).st = .pending ∧
    ((out (exec (.eventLineSample 2) (sensing { lev with st := .pending } false))).src 2).st = .idle ∧
    ((out (exec (.eventLineSample 2) (sensing edge true))).src 2).time = 9 ∧
    ((out (exec (.eventLineSample 2) (sensing { edge with st := .active } true))).src 2).st = .activePending := by decide +kernel

/-- A request of priority 3 that target 0 may take. -/
def routing : State := sensing { EvSrc.reset with en := true, st := .pending, prio := 3 } true

theorem test_meets_route :
    routing.evcOn = true ∧ routing.evcHeld = false ∧ (routing.requests.map (fun x => x.1)) = [2] ∧
    bestTgt ({ routing with fresh := routing.fresh + 1 }.eligible { EvSrc.reset with en := true, st := .pending, prio := 3 }) = some 0 ∧
    ((out (exec .eventRoute routing)).src 2).st = .active ∧ ((out (exec .eventRoute routing)).tgt 0).wr = 1 := by decide +kernel

theorem test_meets_moderation :
    let r : EvRec := { src := 2, owner := 2, cls := 2, prio := 3, merged := false, flushed := false, time := 9 }
    let s : State := { routing with evc := { routing.evc with tgts := [(63, { Tgt.reset with enable := true, modCount := 9, staged := [r] })] } }
    inService s ∧ (s.tgt 63).staged ≠ [] ∧ s.hostWritable = true ∧ s.host.rrs = false ∧ s.host.inReset = false ∧
    s.pins.perst = true ∧ ((out (exec (.moderationTimeout 63) s)).tgt 63).staged = [] ∧
    (out (exec .hostD3hot s)).hostWritable = false ∧ (out (exec .busMasterDisable s)).hostWritable = false ∧
    (out (exec .busMasterResume { s with host := { s.host with bme := false } })).hostWritable = true := by
  unfold inService; decide +kernel

/-- A snapshot number 5 whose time is 8, with the mailbox's page not yet latched; time 9. -/
def snapped : State :=
  { ready with
    regs := [(regKey mboxPage 0x020, 1), (regKey mboxPage 0x114, 1), (regKey gaugePage 0x104, 0x10000), (regKey gaugePage 0x10C, 5),
             (regKey gaugePage 0x110, 8), (regKey gaugePage 0x118, 1)]
    time := 9 }

theorem test_meets_snapshots :
    (snapped.rd gaugePage 0x104).getLsbD 16 = true ∧ snapped.gaugeBusy = true ∧ snapped.rd64 gaugePage 0x110 + 1 ≤ snapped.time.toNat ∧
    pageAt 2 = some mboxPage ∧ snapped.pageLive mboxPage = true ∧
    snapped.fld mboxPage 0x020 0 2 = 1 ∧ snapped.rdN mboxPage 0x024 ≠ 5 ∧
    (out (exec .gaugeDone snapped)).gaugeBusy = false := by
  decide +kernel

theorem test_meets_disable :
    let s := ready.wrN vaultPage 0x00C 3
    s.disabling vaultPage = true ∧ s.busy vaultPage = false ∧ pageAt 3 = some vaultPage ∧ s.pageLive vaultPage = true ∧
    (out (exec (.disableComplete 3) s)).disabling vaultPage = false := by decide +kernel

/-! ### Witnesses: the host, resets and start-up -/

/-- Region 1 open, region 0 a CONFIDENTIAL partition's. -/
def windows : State :=
  { ready with
    parts := [(1, { Part.reset with st := 2, clusters := 1, pgen := 7, conf := true })]
    regions := [(0, some { owner := some 1, near := some 0, frames := [(0, 0), (1, 0), (2, 0), (3, 0)] }),
                (1, some { owner := none, near := some 0, frames := [(0, 4), (1, 4), (2, 4), (3, 4)] })] }

theorem test_meets_aperture :
    windows.bar2Open = true ∧ windows.power = 0 ∧ windows.bar2Kind (windows.bar2Addr 0) = .denied ∧
    windows.bar2Addr 0x200FFF % 4096 + 1 ≤ 4096 ∧ windows.bar2Kind (windows.bar2Addr 0x200FFF) = .served ∧
    (windows.memRead (rtpAgent 0) 0x200FFF 1).2 = (stOk, [0]) ∧ windows.frozenAt none 0x2000FF = false ∧
    (out (exec (.bar2Read 0x200FFF 1) windows)).host.bytes = [0] ∧ (out (exec (.bar2Read 0 1) windows)).host.bytes = [0xFF] ∧
    (out (exec (.bar2Write 0x2000FF [9]) windows)).byte 0x2000FF = 9 ∧ (out (exec (.bar2Write 0 [9]) windows)).byte 0 = 0 := by
  decide +kernel

/-- A device of which the firmware runs, having booted bank 0 or 1. -/
def booted (bank : Nat) : State :=
  { ready.wrN escPage 0x100 (10 + 256 * bank) with rtp := { ready.rtp with bank1 := decide (bank = 1) } }

/-- An image of a version that the reset key signed. -/
def image (v : Nat) : FwImage :=
  { version := BitVec.ofNat 32 v, security := 0, signer := State.reset.fuses.fwKey, mldsa := true, ecdsa := true, body := [] }

theorem test_meets_host_pins :
    let img := image 2
    (booted 0).firmwareOn = true ∧ (booted 0).rtp.bank1 = false ∧ (booted 1).rtp.bank1 = true ∧ img.body.length ≤ 0x1000000 ∧ (booted 0).confExists = false ∧
    (out (exec (.pldmFirmwareUpdate img) (booted 0))).flash.fw1 = some img ∧
    (out (exec (.pldmFirmwareUpdate img) (booted 1))).flash.fw0 = some img ∧
    ready.host.rrs = false ∧ ready.pcieUp = false ∧ (out (exec (.pcieLinkUp 16 6) ready)).pcieUp = true ∧
    (out (exec .testAccessUnlock ready)).rtp.testOpen = true := by decide +kernel

/-- A device with a root of 1 in its fuses, and its outcomes of start-up. -/
def powered : State :=
  { State.reset with
    pins := { State.reset.pins with perst := true }
    fuses := { State.reset.fuses with copy0 := fuseCopy 1, copy1 := fuseCopy 1, copy2 := fuseCopy 1 } }

/-- What one AON cycle makes of start-up. -/
def cycle (s : State) : State := s.bootTick

/-- Start-up after n stages, of a device whose bank 0 may boot; stage 4 and those after it stand on a state in which Seedbed has
started. -/
def stageAt (n : Nat) (env : BootEnv) : State :=
  let s := out (execPorRelease env { powered with flash := { powered.flash with fw0 := some (image 2) } })
  let t := s.setFld escPage 0x100 0 4 n
  if n < 4 then t else { t with seed := { t.seed with inst := true, key := List.replicate 32 1, v := 1, queue := chunks 65536 } }

/-- Nothing fails; every stack of a list fails its training a number of times; a die fails. -/
def noFault : BootEnv := ⟨[], none⟩
def badStack (n : Nat) : BootEnv := ⟨[(15, n)], none⟩
def badDie : BootEnv := ⟨[], some 3⟩

theorem test_meets_start_up :
    powered.pins.por = false ∧ (stageAt 0 noFault).pending = [] ∧ (stageAt 0 noFault).pins.por = true ∧ (stageAt 0 noFault).mode = 0 ∧
    (stageAt 0 noFault).start = some noFault ∧ (stageAt 0 noFault).fld escPage 0x100 0 4 = 0 ∧
    (cycle (stageAt 0 noFault)).fld escPage 0x100 0 4 = 1 ∧ (cycle (stageAt 2 noFault)).fld escPage 0x100 0 4 = 3 ∧
    (cycle { stageAt 2 noFault with flash := { Flash.reset with fw0 := none, fw1 := none } }).fld mboxPage 0x114 8 8 = 5 ∧
    (cycle { stageAt 2 noFault with fuses := { powered.fuses with perm := true, count := 3 } }).fld mboxPage 0x114 8 8 = 3 ∧
    (stageAt 3 noFault).seed.inst = false ∧ (cycle (stageAt 3 noFault)).fld escPage 0x100 0 4 = 3 := by
  decide +kernel

theorem test_meets_stages :
    (cycle (stageAt 7 (badStack 4))).fld mboxPage 0x114 8 8 = 6 ∧ (cycle (stageAt 7 (badStack 3))).fld escPage 0x100 0 4 = 8 ∧
    (cycle (stageAt 6 badDie)).fld mboxPage 0x114 8 8 = 7 ∧ (cycle (stageAt 6 noFault)).fld escPage 0x100 0 4 = 7 ∧
    (cycle (stageAt 8 noFault)).fld escPage 0x100 0 4 = 9 ∧ (cycle (stageAt 9 noFault)).mode = 1 ∧
    (out (exec (.porAssert 1) ready)).pins.por = false ∧ ((out (exec (.porAssert 1) (running (.halt w0 0) (withRegs [])))).thread w0).st = .idle := by
  decide +kernel

/-- Stage 4, whose root's vote stands or fails. -/
theorem test_meets_root :
    let s := { stageAt 3 noFault with seed := (stageAt 4 noFault).seed }
    s.seed.inst = true ∧ fuseCopy (s.fuses.copy0.extractLsb' 32 256) = s.fuses.copy0 ∧
    (cycle s).fld escPage 0x100 0 4 = 4 ∧ ((cycle s).key 0).st = .valid ∧
    (cycle { s with fuses := { s.fuses with copy0 := 0, copy1 := 0 } }).fld mboxPage 0x114 8 8 = 2 := by decide +kernel

theorem test_meets_fail_safe :
    (inMode 1).mode = 1 ∧ (inMode 0).mode = 0 ∧ ((inMode 3).setFld sparesPage 0x12C 0 8 5).fld sparesPage 0x12C 0 8 ≠ 6 ∧
    ready.pllInUse 4 1 = true ∧ ((inMode 0).failCause 1 0).mode = 2 ∧ ((inMode 1).failCause 6 0).mode = 3 ∧
    (out (exec (.controlUe 0xFFFFFF) ready)).mode = 3 ∧ celsius (ready.fld ledgerPage 0x11C 8 8) = 110 := by decide +kernel

theorem test_meets_overtemp :
    let s : State := { ready with ledger := { ready.ledger with tempRun := 1 } }
    (out (exec (.tempReading 110) s)).mode = 3 ∧ (out (exec (.tempReading 109) s)).ledger.tempRun = 0 := by decide +kernel

/-! ### Witnesses: the Ledger, wear and the Journal -/

theorem test_meets_epoch : ready.escOn = true ∧ ready.power ≠ 2 ∧ ready.mode = 1 := by decide +kernel

theorem test_meets_wear :
    let s : State := { ready with thresh := factoryThresholds, spares := { ready.spares with retry := [(4 * 1024 + 14, 1)] } }
    s.escOn = true ∧ s.rtpWrites = true ∧ 14 < unitsOf 4 ∧ s.isWorn 4 14 = false ∧ s.atThreshold 4 14 = true ∧
    (out (exec (.wearThreshold 4 14) s)).isWorn 4 14 = true ∧
    (out (exec (.wearHotTick 0 611 90) s)).wearCount 0 611 2 = 5 := by decide +kernel

theorem test_meets_journal :
    let s : State := { ready with journal := { ready.journal with queue := [[1, 2]] } }
    s.pins.por = true ∧ s.journal.writes = [] ∧ (out (exec .journalEntryAbsorbed s)).journal.queue = [] ∧
    (out (exec .journalEntryAbsorbed s)).rd64 journalPage 0x130 = 1 := by decide +kernel

/-! ### Witnesses: results of the engines and of the DMA helper -/

/-- The Press of cluster 0 is free for partition 1: powered, its own, without a frozen range or a poisoned line. -/
def pressReady (s : State) : Bool :=
  s.diesUp && (s.physCluster 0).isSome && decide (s.clusterOwner 0 = some 1) && s.frozen.isEmpty && s.badLines.isEmpty

theorem openTo_press {s : State} {g : Agent} {w : Bool} {a n : Nat} (h : pressReady s = true) (hg : g.pid = 1)
    (ha : 0x8000000000 ≤ a) (hn : a + n ≤ 0x8004000000) : openTo s g w a n := by
  simp only [pressReady, Bool.and_eq_true, decide_eq_true_eq, List.isEmpty_iff] at h
  obtain ⟨⟨⟨⟨hu, hp⟩, ho⟩, hf⟩, hb⟩ := h
  intro i hi
  have hl : localOf a = a := by simp [localOf]; omega
  have hc : (a + i - 0x8000000000) / 0x4000000 = 0 := by omega
  have hpl : s.place g.die (a + i) = .press 0 (a + i) := by
    rw [State.place, if_pos (by omega), State.placeLocal, if_neg (by omega), if_pos (by omega)]
    simp only [hc, hu, hp, and_self, if_true]
  refine ⟨⟨0, by rw [hl]; exact .inl hpl⟩, ?_, ?_⟩
  · simp [State.lineBad, hb, sget]
  · rw [hpl, State.checkPlace, hg, if_pos ho]; simp [State.frozenAt, hf]

/-- A command of partition 1 on core 0. -/
def ofOne : Agent := cmdAgent 0 entry (descr 1 [])

/-- Core 0 with slot 0 in a mode, one element not zero, and the generator's key. -/
def tally (mode : Nat) : State :=
  { ready with cores := [(0, { CoreSt.reset with srKey := some [1] }.setSlot 0 (some
    { mode := BitVec.ofNat 2 mode, poisoned := false, sat := false, w := 0, elems := [(33, { n := 5, flags := 0 })] }))] }

/-- Ranges that lie in the Press of cluster 0. -/
def inPress (rs : List (Nat × Nat)) : Bool := rs.all (fun r => 0x8000000000 ≤ r.1 && r.1 + r.2 ≤ 0x8004000000)

theorem openTo_all {s : State} {g : Agent} {w : Bool} {rs : List (Nat × Nat)} (h : pressReady s = true) (hg : g.pid = 1)
    (hr : inPress rs = true) : ∀ r ∈ rs, openTo s g w r.1 r.2 := by
  intro r hm
  have := List.all_eq_true.mp hr r hm
  simp only [Bool.and_eq_true, decide_eq_true_eq] at this
  exact openTo_press h hg this.1 this.2

theorem test_meets_multiply :
    let d : Desc := descr 0x10 [(12, [4]), (16, le8 0x8000001000), (24, le8 0x8000002000), (32, [16]), (36, [128])]
    let e : Desc := descr 0x11 [(9, [0x66]), (11, [6]), (12, [128]), (16, le8 0x8000001000), (24, le8 0x8000002000),
      (32, [128]), (36, [128]), (40, le8 0x8000003000), (48, le8 0x8000004000)]
    d.skip = false ∧ ((tally 3).core 0).slot 0 ≠ none ∧
    (∃ kt modes, pairOf 0 0 = some (kt, modes) ∧ modes.contains 3 = true ∧ mulOk d false (mulOf d false kt) = true ∧
      ∀ r ∈ (mulOf d false kt).ranges, openTo (tally 3) ofOne false r.1 r.2) ∧
    ∃ kt modes, pairOf 6 6 = some (kt, modes) ∧ modes.contains 1 = true ∧ mulOk e true (mulOf e true kt) = true ∧
      (mulOf e true kt).abm = true ∧ ∀ r ∈ (mulOf e true kt).ranges, openTo (tally 1) ofOne false r.1 r.2 :=
  ⟨by decide +kernel, by decide +kernel,
    ⟨_, _, rfl, by decide +kernel, by decide +kernel, openTo_all (by decide +kernel) rfl (by decide +kernel)⟩,
    ⟨_, _, rfl, by decide +kernel, by decide +kernel, by decide +kernel, openTo_all (by decide +kernel) rfl (by decide +kernel)⟩⟩

/-- Tiles of an FP32 and of an EWA slot, whose partials are zero under the slot's w. -/
theorem test_meets_tiles :
    let d : Desc := descr 0x21 [(16, le8 0x8000001000), (24, [128])]
    let e : Desc := descr 0x21 [(16, le8 0x8000001000)]
    tileOk d true = true ∧ tileOk d false = true ∧ tileOk e true = true ∧ tileOk e false = true ∧
    (∀ i < 32, openTo (tally 0) ofOne true (0x8000001000 + i * 128) (32 * tileWidth 0)) ∧
    (∀ i j, i < 32 → j < 32 → openTo (tally 3) ofOne false (0x8000001000 + (32 * i + j) * 32) 24 ∧
      lfOk 0 (partialAt (tally 3) (localOf (0x8000001000 + (32 * i + j) * 32))) = true ∧
      (partialAt (tally 3) (localOf (0x8000001000 + (32 * i + j) * 32))).w = 0) ∧
    ∀ e < 1024, openTo (tally 3) ofOne true (0x8000001000 + 32 * e) 20 := by
  refine ⟨by decide +kernel, by decide +kernel, by decide +kernel, by decide +kernel, ?_, ?_, ?_⟩
  · exact fun i hi => openTo_press (by decide +kernel) rfl (by omega) (by simp [tileWidth]; omega)
  · have hb : ∀ a, (tally 3).byte a = 0 := fun _ => rfl
    have hn : ∀ n l, numberAt (tally 3) l n = 0 := fun n => by
      induction n with
      | zero => exact fun _ => rfl
      | succ n ih => exact fun l => by simp [numberAt, hb, ih]
    have hp : ∀ l, partialAt (tally 3) l = ⟨⟨0, 0⟩, 0⟩ := fun l => by simp [partialAt, hn, hb, signedOf]
    exact fun i j hi hj => ⟨openTo_press (by decide +kernel) rfl (by omega) (by omega), by rw [hp]; decide +kernel, by rw [hp]⟩
  · exact fun e he => openTo_press (by decide +kernel) rfl (by omega) (by omega)

/-- Drains: to MXFP8 with scales and bias, under the stochastic mode, and from Z64. -/
theorem test_meets_drains :
    let d : Desc := descr 0x30 [(9, [0x45]), (10, [0x0E]), (11, [1]), (12, [3]), (16, le8 0x8000001000), (24, [64]),
      (32, le8 0x8000002000), (40, le8 0x8000003000), (56, le8 0x8000000500)]
    let e : Desc := descr 0x30 [(9, [9]), (12, [31]), (16, le8 0x8000001000), (24, [128])]
    drainCheck d = stOk ∧ drainTarget d 3 = true ∧ (drainOf d).rnd = 4 ∧ (drainOf d).ofmt = 5 ∧ (drainOf d).scale = 2 ∧
    (drainOf d).bias = true ∧ ((tally 3).core 0).srKey ≠ none ∧
    drainCheck e = stOk ∧ drainTarget e 2 = true ∧ (drainOf e).rows = 32 ∧
    (∀ i < 4, openTo (tally 3) ofOne true (0x8000001000 + i * 64) 32) ∧ openTo (tally 3) ofOne true 0x8000000500 4 ∧
    openTo (tally 3) ofOne false 0x8000002000 128 ∧ openTo (tally 3) ofOne false 0x8000003000 128 ∧
    ∀ i < 32, openTo (tally 2) ofOne true (0x8000001000 + i * 128) (elemBytes 9 32) := by
  refine ⟨by decide +kernel, by decide +kernel, by decide +kernel, by decide +kernel, by decide +kernel, by decide +kernel,
    by decide +kernel, by decide +kernel, by decide +kernel, by decide +kernel, ?_, ?_, ?_, ?_, ?_⟩
  all_goals first
    | exact fun i hi => openTo_press (by decide +kernel) rfl (by omega) (by simp [elemBytes, fmtBits]; omega)
    | exact openTo_press (by decide +kernel) rfl (by omega) (by omega)

/-- A small set of ring parameters: N = 4, three primes and a special one, with their roots of order 8. -/
def smallRps (scheme : Nat) : Rps :=
  { tag := 77, logn := 2, nq := 3, np := 1, dnum := 3, scheme := BitVec.ofNat 2 scheme, t := if scheme = 0 then 0 else 4,
    ksn := 3, rn := 5, tol := 8, primes := [17, 41, 73, 89], psis := [2, 3, 10, 12] }

/-- Core 0 with the set in slot 3, and bytes at places of its Press. -/
def ringed (scheme : Nat) (ms : List (Nat × List Byte)) : State :=
  ms.foldl (fun (s : State) m => s.putBytes m.1 m.2)
    { ready with cores := [(0, { CoreSt.reset with rps := [(3, some (smallRps scheme))] })] }

/-- The header of a ciphertext of the set, of level 2. -/
def ctHead (form : Bool) (comp gal : Nat) : List Byte :=
  ({ tag := 77, level := 2, form := form, comp := comp, scale := 300, noise := 2, unsure := false, galois := gal, skid := 5,
     user := [] } : CtHdr).bytes false

/-- The raw commands: three limbs in, DECOMP of the digit of prime 1. -/
def rawDesc (op : Nat) : Desc :=
  descr (BitVec.ofNat 8 op) [(8, [3, 0, 2, if op = 0x24 then 1 else if op = 0x23 then 2 else 0,
    if op = 0x24 then 2 else if op = 0x23 then 1 else 0]), (16, le8 0x8000001000), (32, le8 0x8000002000), (40, [5])]

theorem test_meets_ring :
    (∀ op ∈ [0x20, 0x21, 0x22, 0x23, 0x24], ∃ is outs, rawFields op (rawDesc op) ∧
      ((ringed 1 []).core 0).rpsAt ((rawDesc op).bits 8 0 4) = some (smallRps 1) ∧
      rawPlan op (rawDesc op) (smallRps 1) = some (is, outs) ∧
      (ringed 1 []).overlapBad 0 [(0x8000001000, 96)] [(0x8000002000, outs * 32)] = false ∧
      openTo (ringed 1 []) ofOne false 0x8000001000 96 ∧ openTo (ringed 1 []) ofOne true 0x8000002000 (outs * 32)) ∧
    (smallRps 1).prime 0 = 17 ∧ Nat.Coprime (smallRps 1).n 17 ∧ (rawDesc 0x22).n 40 4 % 2 = 1 ∧
    (rawDesc 0x22).n 40 4 < 2 * (smallRps 1).n ∧ (smallRps 1).prime ((rawDesc 0x23).bits 11 0 6 + 1) ≠ 0 ∧
    (rawDesc 0x24).bits 12 0 6 + 1 + (smallRps 1).np = 4 := by
  have h : pressReady (ringed 1 []) = true := by decide +kernel
  have ho : ∀ w n, n ≤ 0x1000 → openTo (ringed 1 []) ofOne w 0x8000001000 n ∧ openTo (ringed 1 []) ofOne w 0x8000002000 n :=
    fun w n hn => ⟨openTo_press h rfl (by omega) (by omega), openTo_press h rfl (by omega) (by omega)⟩
  refine ⟨?_, by decide +kernel⟩
  intro op hop
  fin_cases hop
  all_goals exact ⟨_, _, by unfold rawFields; decide +kernel, rfl, rfl, by decide +kernel, (ho _ _ (by omega)).1, (ho _ _ (by decide +kernel)).2⟩

/-- The ciphertext commands: operands at 0x1000 and 0x2000, PADD and PMUL with a plaintext, MODDOWN by one limb. -/
def ctDesc (op : Nat) : Desc :=
  descr (BitVec.ofNat 8 op) [(8, [if op = 0x2F then 1 else if op = 0x2E then 64 else 0]), (16, le8 0x8000001000),
    (24, le8 0x8000002000), (32, le8 0x8000003000), (40, [5]), (46, if op = 0x2B then [44, 1] else [1, 0])]

theorem test_meets_ciphertexts :
    ∀ op ∈ [0x28, 0x29, 0x2A, 0x2B, 0x2C, 0x2D, 0x2E, 0x2F],
      let s := ringed 1 [(0x8000001000, ctHead (op ∈ [0x2A, 0x2B, 0x2C]) 2 0), (0x8000002000, ctHead (op = 0x2A) 2 0)]
      let d := ctDesc op
      let ab : Desc := readAt s (d.n 16 8) 64
      let bb : Desc := if ctTwo op then readAt s (d.n 24 8) 64 else ab
      let r := smallRps 1
      let h0 := ctResult op d r (ctOf ab) (ctOf bb)
      ctFields op d ∧ (s.core 0).findRps (ctOf ab).tag = some r ∧ (s.core 0).findRps (ctOf bb).tag = some r ∧
      (op = 0x2D → d.n 40 4 < 2 * r.n) ∧ ctOk r ab = true ∧ ctOk r bb = true ∧ ctRequire op d r (ctOf ab) (ctOf bb) = stOk ∧
      (op = 0x2F → d.bits 8 0 6 ≤ (ctOf ab).level) ∧
      (noiseCheck r h0.level (predict op r (ctOf ab) (ctOf bb) (d.n 44 2) (d.bits 8 0 6)) false).1 = stOk ∧
      d.bits 2 3 1 ≠ 1 ∧
      s.overlapBad 0 (ctOperands op d r (ctOf ab) (ctOf bb)) [(0x8000003000, 64 + bodyBytes r h0.comp h0.level)] = false ∧
      (∀ o ∈ ctOperands op d r (ctOf ab) (ctOf bb), openTo s ofOne false o.1 o.2) ∧
      openTo s ofOne true 0x8000003000 (64 + bodyBytes r h0.comp h0.level) := by
  intro op hop
  fin_cases hop
  all_goals exact ⟨by unfold ctFields; decide +kernel, rfl, rfl, by decide +kernel, by decide +kernel, by decide +kernel, by decide +kernel,
    by decide +kernel, by decide +kernel, by decide +kernel, by decide +kernel,
    openTo_all (by decide +kernel) rfl (by decide +kernel),
    openTo_press (by decide +kernel) rfl (by decide +kernel) (by decide +kernel)⟩

/-- The statements about residues: a component with a number, automorphism 5, and a BGV limb dropped. -/
theorem test_meets_residues :
    let r := smallRps 2
    (∃ comp l, ([[[7, 1, 2, 3]], [[9, 0, 0, 0]]] : CtBody)[1]? = some comp ∧ comp[0]? = some l ∧ l[0]? = some 9) ∧
    r.prime 0 = 17 ∧ (2 * Ring.brv r.logn 1 + 1) % (2 * r.n) = 5 * (2 * Ring.brv r.logn 0 + 1) % (2 * r.n) ∧
    r.scheme = 2 ∧ r.prime 2 = 73 ∧ r.prime 0 < 2 ^ 60 ∧ Nat.Coprime 73 17 ∧ (73 : Nat) % 2 = 1 ∧ 1 < r.t ∧ r.t < 2 ^ 64 ∧
    Nat.Coprime 73 r.t := ⟨⟨_, _, rfl, rfl, rfl⟩, by decide +kernel⟩

/-- A relinearisation key of two ciphertext primes and three digits for the set. -/
def relinKey : List Byte :=
  le8 77 ++ le8 1234 ++ le8 9 ++ le8 5 ++ [0, 3] ++ List.replicate 30 0 ++
    (List.range 3).flatMap (fun j => le8 1234 ++ [BitVec.ofNat 8 j] ++ List.replicate 311 0)

theorem test_meets_keyswitch :
    let s := ringed 0 [(0x8000001000, ctHead true 3 0), (0x8000002000, relinKey)]
    let d : Desc := descr 0x30 [(16, le8 0x8000001000), (24, le8 0x8000002000), (32, le8 0x8000004000),
      (40, le8 0x8000005000), (48, [0, 0x10])]
    let hb : Desc := readAt s 0x8000001000 64
    let kb : Desc := readAt s 0x8000002000 64
    let r := smallRps 0
    d.headOk = true ∧ d.skip = false ∧ d.zero 8 8 = true ∧ d.zero 52 12 = true ∧ (s.core 0).findRps (ctOf hb).tag = some r ∧
    ctOk r hb = true ∧ keyOk r (ctOf hb) kb = true ∧ (ctOf hb).level = 2 ∧ kb.n 33 1 = 3 ∧ r.alpha = 1 ∧
    (noiseCheck r 2 (predict 0x30 r (ctOf hb) (ctOf hb) 0 0) false).1 = stOk ∧ d.bits 2 3 1 ≠ 1 ∧
    8 * ((4 * 3 + 3 * r.np) * r.n) ≤ d.n 48 4 ∧
    (∀ j < 3, digitOk kb (readAt s (digitAt r 0x8000002000 3 j) 64) j = true) ∧
    s.overlapBad 0 [(0x8000002000, 64 + 3 * (64 + 2 * 4 * r.n * 8)), (0x8000001000, 64 + bodyBytes r 3 2)]
      [(0x8000004000, 64 + bodyBytes r 2 2), (0x8000005000, 8 * ((4 * 3 + 3 * r.np) * r.n))] = false ∧
    s.overlap 0 (0x8000001000, 64 + bodyBytes r 3 2) (0x8000005000, 8 * ((4 * 3 + 3 * r.np) * r.n)) = false ∧
    s.canon 0 0x8000001000 ≠ s.canon 0 0x8000004000 ∧
    openTo s ofOne false 0x8000001000 (64 + bodyBytes r 3 2) ∧
    openTo s ofOne false 0x8000002000 (64 + 3 * (64 + 2 * 4 * r.n * 8)) ∧
    openTo s ofOne true 0x8000004000 (64 + bodyBytes r 2 2) ∧ openTo s ofOne true 0x8000005000 (d.n 48 4) := by
  refine ⟨by decide +kernel, by decide +kernel, by decide +kernel, by decide +kernel, rfl, by decide +kernel, by decide +kernel,
    by decide +kernel, by decide +kernel, by decide +kernel, by decide +kernel, by decide +kernel, by decide +kernel,
    by decide +kernel, by decide +kernel, by decide +kernel, by decide +kernel, ?_, ?_, ?_, ?_⟩
  all_goals exact openTo_press (by decide +kernel) rfl (by decide +kernel) (by decide +kernel)

/-- Partition 1 with two filled seed slots and an empty one, core 0 with a set whose prime 2 lies above 2^56, and the points 3
and 4 at 0x1000. -/
def masking : State :=
  let s : State := ({ ready with cores := [(0, { CoreSt.reset with rps := [(3, some { smallRps 0 with
    primes := [17, 97, 1152921504606846883, 89] })] })] } : State).putBytes 0x8000001000 (le8 3 ++ le8 4)
  [(5, some (List.replicate 32 5)), (6, some (List.replicate 32 6)), (7, none)].foldl (fun (s : State) e =>
    s.setSeedSlot 0 e.1 { SeedSlot.reset with pid := some 1, seed := e.2 }) s

theorem test_meets_macc :
    let d : Desc := descr 0x40 [(8, [9, 1, 5]), (12, [5]), (16, le8 0x8000001000), (24, le8 0x8000002004), (32, [8])]
    d.headOk = true ∧ d.skip = false ∧ d.bits 8 4 4 = 0 ∧ d.bits 9 2 6 = 0 ∧ d.bits 11 4 4 = 0 ∧ d.bits 8 0 4 = 9 ∧
    d.n 12 4 = 5 ∧ d.zero 40 16 = true ∧ d.n 16 8 % 4 = 0 ∧ d.n 24 8 % 4 = 0 ∧ d.n 32 8 * 4 % 16 = 0 ∧
    masking.overlapBad 0 [(d.n 16 8, 20)] [(d.n 24 8, 20)] = false ∧ (masking.seedSlot 0 5).pid = some 1 ∧
    (masking.seedSlot 0 5).seed = some (List.replicate 32 5) ∧ openTo masking ofOne true 0x8000002004 20 ∧
    openTo masking ofOne false 0x8000001000 20 ∧ uncontested masking 0 ofOne 0x8000002004 20 :=
  ⟨by decide +kernel, by decide +kernel, by decide +kernel, by decide +kernel, by decide +kernel, by decide +kernel,
    by decide +kernel, by decide +kernel, by decide +kernel, by decide +kernel, by decide +kernel, by decide +kernel,
    by decide +kernel, by decide +kernel, openTo_press (by decide +kernel) rfl (by omega) (by omega),
    openTo_press (by decide +kernel) rfl (by omega) (by omega), by unfold uncontested; decide +kernel⟩

/-- Coordinate 40 under the seed of slot 6 and the highest rate. -/
theorem sampled_forty : sampled (List.replicate 32 6) 0xFFFFFFFF 40 1 = [40] := by decide +kernel

/-- SCATTER_ADD at indices in memory in a prime's ring, masked, and at sampled coordinates. -/
theorem test_meets_scatter :
    let d : Desc := descr 0x41 [(8, [11, 3, 5]), (12, [2]), (16, le8 0x8000001000), (24, le8 0x8000002000),
      (32, le8 0x8000003000), (40, [1]), (44, [3, 1])]
    let e : Desc := descr 0x41 [(8, [10, 8]), (12, [1]), (16, le8 0x8000001000), (24, le8 0x8000002000),
      (32, [6, 0, 0, 0, 0xFF, 0xFF, 0xFF, 0xFF]), (40, [1]), (44, [3, 1]), (48, [40])]
    d.headOk = true ∧ d.bits 8 0 4 = 11 ∧ d.bits 9 2 2 = 0 ∧ d.bits 44 4 4 = 0 ∧ d.bits 45 6 2 = 0 ∧ d.zero 46 2 = true ∧
    d.zero 48 8 = true ∧ (masking.core 0).primeOf (d.bits 44 0 4) (d.bits 45 0 6) = (stOk, 97) ∧
    masking.overlapBad 0 [(d.n 16 8, 16), (d.n 32 8, 8)] [(d.n 24 8, 8)] = false ∧ numAt masking 0x8000003000 4 = 0 ∧
    numAt masking 0x8000003004 4 = 0 ∧
    e.headOk = true ∧ e.bits 9 2 2 = 2 ∧ e.bits 33 4 4 = 0 ∧ e.zero 34 2 = true ∧ e.n 48 8 % 4 = 0 ∧ 1 ≤ e.n 36 4 ∧
    (masking.seedSlot 0 6).seed = some (List.replicate 32 6) ∧ masking.conf ofOne = false ∧
    masking.overlapBad 0 [(e.n 16 8, 8)] [(e.n 24 8, 8)] = false ∧
    e.n 36 4 = 0xFFFFFFFF ∧ sampled (List.replicate 32 6) 0xFFFFFFFF 40 1 = [40] ∧
    ownsSlots masking ofOne 5 1 ∧ ownsSlots masking ofOne 6 1 ∧ uncontested masking 0 ofOne 0x8000002000 8 ∧
    ∀ r ∈ [(0x8000001000, 32), (0x8000002000, 32), (0x8000003000, 8)], ∀ w, openTo masking ofOne w r.1 r.2 :=
  ⟨by decide +kernel, by decide +kernel, by decide +kernel, by decide +kernel, by decide +kernel, by decide +kernel,
    by decide +kernel, by decide +kernel, by decide +kernel, by decide +kernel, by decide +kernel, by decide +kernel,
    by decide +kernel, by decide +kernel, by decide +kernel, by decide +kernel, by decide +kernel, by decide +kernel,
    by decide +kernel, by decide +kernel, by decide +kernel, sampled_forty, by unfold ownsSlots; decide +kernel,
    by unfold ownsSlots; decide +kernel, by unfold uncontested; decide +kernel,
    fun r hr w => openTo_all (by decide +kernel) rfl (by decide +kernel) r hr⟩

/-- LAGRANGE at the points 3 and 4: a value to memory, and a seed to slot 7. -/
theorem test_meets_lagrange :
    let d : Desc := descr 0x42 [(8, [3, 0, 1]), (12, [2]), (14, [1]), (16, le8 0x8000001000), (24, le8 0x8000002000),
      (32, le8 0x8000003000)]
    let e : Desc := descr 0x42 [(8, [3, 3, 2]), (12, [2]), (14, [1]), (16, le8 0x8000001000), (24, le8 0x8000002000),
      (40, [7]), (48, le8 0x8000003000)]
    (∀ f ∈ [d, e], f.headOk = true ∧ f.skip = false ∧ f.bits 8 4 4 = 0 ∧ f.bits 9 2 6 = 0 ∧ f.bits 10 6 2 = 0 ∧
      f.zero 11 1 = true ∧ f.bits 41 4 4 = 0 ∧ f.zero 42 6 = true ∧ f.zero 56 8 = true) ∧
    (masking.core 0).primeOf 3 1 = (stOk, 97) ∧ (masking.core 0).primeOf 3 2 = (stOk, 1152921504606846883) ∧
    masking.overlapBad 0 [(0x8000001000, 16), (0x8000002000, 16)] [(0x8000003000, 8)] = false ∧
    masking.overlapBad 0 [(0x8000001000, 16), (0x8000002000, 80)] [(0x8000003000, 1)] = false ∧
    (List.range 2).map (fun i => numAt masking (0x8000001000 + 8 * i) 8) = [3, 4] ∧ ownsSlots masking ofOne 7 1 ∧
    ∀ r ∈ [(0x8000001000, 16), (0x8000002000, 80), (0x8000003000, 8)], ∀ w, openTo masking ofOne w r.1 r.2 :=
  ⟨by decide +kernel, by decide +kernel, by decide +kernel, by decide +kernel, by decide +kernel, by decide +kernel,
    by unfold ownsSlots; decide +kernel, fun r hr w => openTo_all (by decide +kernel) rfl (by decide +kernel) r hr⟩

/-- The mask expander's commands on slot 6, two seeds to slots 6 and 7; an index list of more and of fewer places than chosen
coordinates. -/
theorem test_meets_mask_expander :
    let l : Desc := descr 1 [(8, [6]), (12, [2]), (16, le8 0x8000001000)]
    let x : Desc := descr 0x10 [(8, [6]), (10, [10]), (12, [5]), (16, le8 0x8000002000), (24, le8 6)]
    let c : Desc := descr 0x20 [(8, [6]), (12, [1]), (16, le8 0x8000002000), (24, le8 40), (32, [0xFF, 0xFF, 0xFF, 0xFF])]
    let i (most : Byte) : Desc := descr 0x21 [(8, [6]), (12, [1]), (16, le8 0x8000002000), (24, le8 40),
      (32, [0xFF, 0xFF, 0xFF, 0xFF]), (36, [most]), (40, le8 0x8000003000)]
    (∀ f ∈ [l, x, c, i 1, i 0], f.headOk = true ∧ f.skip = false ∧ f.bits 9 4 4 = 0) ∧
    l.zero 10 2 = true ∧ l.zero 24 40 = true ∧ l.slot + 2 ≤ 4096 ∧ x.bits 10 4 4 = 0 ∧ x.zero 11 1 = true ∧
    x.zero 32 32 = true ∧ x.n 24 8 * 8 % 16 = 0 ∧ c.zero 10 2 = true ∧ c.zero 36 28 = true ∧ (i 1).zero 48 16 = true ∧
    (masking.seedSlot 0 6).seed = some (List.replicate 32 6) ∧ masking.conf ofOne = false ∧
    c.n 32 4 = 0xFFFFFFFF ∧ sampled (List.replicate 32 6) 0xFFFFFFFF 40 1 = [40] ∧ (i 0).n 36 4 < 1 ∧ 1 ≤ (i 1).n 36 4 ∧
    ownsSlots masking ofOne 6 2 ∧
    ∀ r ∈ [(0x8000001000, 64), (0x8000002000, 40), (0x8000003000, 8)], ∀ w, openTo masking ofOne w r.1 r.2 :=
  ⟨by decide +kernel, by decide +kernel, by decide +kernel, by decide +kernel, by decide +kernel, by decide +kernel,
    by decide +kernel, by decide +kernel, by decide +kernel, by decide +kernel, by decide +kernel, by decide +kernel,
    by decide +kernel, by decide +kernel, sampled_forty, by decide +kernel, by decide +kernel, by unfold ownsSlots; decide +kernel,
    fun r hr w => openTo_all (by decide +kernel) rfl (by decide +kernel) r hr⟩

/-- The statement about FILL and COPY within a Press: four bytes to the end of a line and past it. -/
theorem test_meets_copy :
    openTo ready ofOne true 0x800000103E 4 ∧ openTo ready ofOne false 0x8000001000 4 ∧
    ready.overlap 0 (0x8000001000, 4) (0x800000103E, 4) = false :=
  ⟨openTo_press (by decide +kernel) rfl (by omega) (by omega), openTo_press (by decide +kernel) rfl (by omega) (by omega),
    by decide +kernel⟩

/-- A CONFIDENTIAL partition with key slot 100, a segment of the host window, and a release descriptor of a kind at 0x2000 for
one byte at 0x1000. -/
def releasing (kind : Byte) : State :=
  ({ keyed with parts := [(1, { Part.reset with st := 2, clusters := 1, pgen := 7, conf := true })] }.wr64
    (.dieE tyPcie) 0x140 1).putBytes 0x8000002000
      ([kind, 0, 0, 0, 1, 7, 0, 0] ++ le8 0x8000001000 ++ le8 1 ++ le8 0 ++ [100] ++ List.replicate 31 0)

/-- The COPY of that byte to the window. -/
def releaseCopy : Desc := descr 1 [(16, le8 0x8000001000), (24, le8 0xE000000000), (32, [1]), (40, le8 0x8000002000)]

/-- Releases that the Wicket seals, and refuses for a reserved kind with reason 1. -/
theorem test_meets_release :
    (∀ k ∈ [(0 : Byte), 2], let s := releasing k
      s.conf ofOne = true ∧ s.run.asks = [] ∧ (∀ i < 81, s.place 0 (0xE000000000 + i) = .host (0 + i)) ∧ s.host.bme = true ∧
      s.host.inReset = false ∧ s.failsafe = false ∧ s.takesWork (.die 0 tyWicket 0) = true ∧ (s.part 1).st = 2 ∧
      s.checkRange ofOne false 0 128 ≠ stOk ∧ openTo s ofOne false 0x8000001000 64 ∧ openTo s ofOne false 0x8000002000 64) ∧
    releaseReason (releasing 0) ofOne 0x8000002000 0x8000001000 1 1 ∧
    releaseReason (releasing 2) ofOne 0x8000002000 0x8000001000 1 0 := by
  have hf : ¬ releaseFields (releasing 0) ofOne 0x8000002000 0x8000001000 1 := by unfold releaseFields; decide +kernel
  have h2 : releaseFields (releasing 2) ofOne 0x8000002000 0x8000001000 1 := by unfold releaseFields; decide +kernel
  have hk : releaseKey (releasing 2) ofOne 100 := by unfold releaseKey; decide +kernel
  have hd : Desc.bits (readAt (releasing 2) 0x8000002000 64) 0 0 2 = 2 ∧
      Desc.bits (readAt (releasing 2) 0x8000002000 64) 0 2 1 = 0 ∧
      BitVec.ofNat 8 (Desc.n (readAt (releasing 2) 0x8000002000 64) 32 1) = 100 := by decide +kernel
  refine ⟨?_, ⟨fun _ => rfl, fun h => absurd h hf, fun h => absurd h hf⟩,
    ⟨fun h => absurd h2 h, fun _ h => absurd (hd.1.symm.trans h) (by decide), fun _ _ => ⟨fun h => absurd (hd.2.2 ▸ hk) h,
      fun _ => ⟨fun h => absurd (hd.2.1.symm.trans h.1) (by decide), fun _ => rfl⟩⟩⟩⟩
  intro k hk
  fin_cases hk
  all_goals exact ⟨by decide +kernel, by decide +kernel, by decide +kernel, by decide +kernel, by decide +kernel,
    by decide +kernel, by decide +kernel, by decide +kernel, by decide +kernel,
    openTo_press (by decide +kernel) rfl (by omega) (by omega), openTo_press (by decide +kernel) rfl (by omega) (by omega)⟩

/-! ### Witnesses: accesses to HBM, long-form adds, noise -/

/-- Thread 0 with an access outstanding at an address, in region 0 of partition 1; the version of the first block. -/
def accessing (k : AccKind) (size addr src : Nat) (version : BitVec 32) : State :=
  { ready with
    threads := [(0, { Thread.reset with st := .ready, accs := [
      { kind := k, addr := addr, size := size, rd := 3, data := 0x1122334455667788, cmp := 0, src := src, acq := false,
        rel := false, pc := 0, stage := .issued }] })]
    regions := [(0, some { owner := some 1, near := some 0, frames := [(0, 0), (1, 0), (2, 0), (3, 0)] })]
    v0 := [(0, version)] }

/-- The statements about accepted loads, stores and atomics in HBM: a sound block, a poisoned one, and one whose line of
versions has a wrong MAC. -/
theorem test_meets_hbm :
    (∀ e ∈ [(AccKind.load false, 5), (.store, 5), (.atom 2, 5), (.load false, 0xFFFFFFFF), (.store, 0xFFFFFFFF)],
      let s := accessing e.1 8 0xF8 0 e.2
      ((s.thread w0).accs[0]?.map (fun x => (x.addr, x.size, x.stage))) = some (0xF8, 8, .issued) ∧ s.diesUp = true ∧
      s.place 0 0xF8 = .hbm 0xF8 ∧ (0xF8 : Nat) % 8 = 0 ∧ s.blockKey 0xF8 = some 0 ∧ s.keyLost 0xF8 = false ∧
      (∀ i < 8, s.checkPlace (s.agentOf w0 1).pid true none (s.place 0 (0xF8 + i)) = stOk) ∧ s.ver0 0 = e.2.toNat ∧
      s.versionsFull 0 = false ∧ (∀ level < 3, s.macBad (macItem level 0) = false) ∧ (s.thread w0).st = .ready ∧
      s.mode ≠ 3 ∧ (s.thread w0).held = none) ∧
    ({ accessing (.load false) 8 0xF8 0 5 with macErr := [(macItem 1 0, 1)] } : State).macBad (macItem 1 0) = true := by
  decide +kernel

/-- A long-form add of two partials of a Press that both end with their line. -/
theorem test_meets_accepted_lfadd :
    let s := accessing (.atom 4) 20 0x800000012C 0x8000000168 0
    ((s.thread w0).accs[0]?.map (fun x => (x.kind, x.size, x.stage))) = some (.atom 4, 20, .issued) ∧ s.run.asks = [] ∧
    s.place 0 0x800000012C = .press 0 0x800000012C ∧ s.place 0 0x8000000168 = .press 0 0x8000000168 ∧
    (0x800000012C : Nat) % 64 + 20 = 64 ∧ (0x8000000168 : Nat) % 64 + 24 = 64 ∧ s.lineBad 0x800000012C = false ∧
    s.lineBad 0x8000000168 = false ∧
    (∀ i < 20, s.checkPlace (s.agentOf w0 1).pid true none (s.place 0 (0x800000012C + i)) = stOk) ∧
    (∀ i < 24, s.checkPlace (s.agentOf w0 1).pid false none (s.place 0 (0x8000000168 + i)) = stOk) := by decide +kernel

/-- A cluster whose sampler is seeded, of a partition with a policy and a MAC key. -/
def noising : State :=
  { keyed with
    parts := [(1, { Part.reset with st := 2, clusters := 1, pgen := 7, kmin := 2, mech := 1, gauss := (9, 1) })]
    clusters := [(0, { ClusterSt.reset with nsuKey := some [1] })] }

/-- Noise requests that pass, of eight elements of Z64 in a line, and that fail: a reserved format, the fields, the ranges, a
parameter of 0, the policy, the cohort. -/
theorem test_meets_noise :
    let g := unitAgent pgNsu 0 request 1
    let d (f k : Byte) (num : Byte) : Desc := descr 1 [(8, [f]), (12, [8]), (16, le8 0x8000001000), (24, [num]), (28, [1]),
      (40, [k]), (48, le8 0x8000001040)]
    noiseRefusal noising 0 g (d 0xA0 2 9) = stOk ∧ noising.place 0 0x8000001000 = .press 0 0x8000001000 ∧
    noising.lineBad 0x8000001000 = false ∧ (8 : Nat) * 8 ≤ 64 ∧ (noising.cluster 0).drawn + 8 ≤ 2 ^ 32 ∧
    noising.slotWith 1 mbMac = some 100 ∧ noiseRefusal noising 0 g (d 0xC0 2 9) = stFormat ∧
    noiseRefusal noising 0 g (descr 1 [(8, [0xA0])]) = stRing ∧
    noiseRefusal { noising with parts := [] } 0 g (d 0xA0 2 9) = stBound ∧
    noiseRefusal noising 0 g (d 0xA0 2 0) = stNoiseParam ∧ noiseRefusal noising 0 g (d 0xA0 2 8) = stNoisePolicy ∧
    noiseRefusal noising 0 g (d 0xA0 1 9) = stCohort := by decide +kernel

/-- Units whose request has sent a write to another device, which is answered with a STATUS or not yet. -/
def unitsAsked (st : Option Status) : State :=
  let op (w : Doer) : RemOp := { doer := w, sel := 0, port := 0, demoted := true, read := false, lf := false, dev := 3, addr := 0,
                                 size := 8, tag := 1, done := st.map (fun v => (v, [])) }
  { unitsEnded with remote := [op (.nsu 0), op (.router 0)] }

theorem test_meets_unit_answers :
    let s := unitsAsked (some 0x85)
    s.answered (.nsu 0) = true ∧ s.withAnswers (.nsu 0) stOk = 0x85 ∧ s.opDemoted (.nsu 0) = true ∧
    s.answered (.router 0) = true ∧ s.withAnswers (.router 0) stOk = 0x85 ∧ s.opDemoted (.router 0) = true ∧
    (unitsAsked none).answered (.nsu 0) = false ∧
    (((out (exec (.routerItemDispatch 0) { dispatching with remote := s.remote })).cluster 0).rtrRun.map
      (fun x => (x.status, x.items))) = some (0x85, []) := by decide +kernel

/-- A token for the memory of device 9, to which lane 33 of die 0 leads. -/
theorem test_meets_token_away :
    let run := { aRun 1 with status := some stOk, own := some 4, token := some (2 ^ 46 + 9 * 2 ^ 40 + 0x8000000000, [1]) }
    let s0 := (linked JLink.reset).setCluster 0 { ClusterSt.reset with nsuRun := some run }
    let s := s0.setDie 0 { s0.die 0 with routes := [(9, 2 ^ 33)] }
    s.answered (.nsu 0) = true ∧ (s.writeToken 0 run (s.withAnswers (.nsu 0) stOk)).1.answered (.nsu 0) = false := by
  decide +kernel

/-! ### Witnesses: effects of mailbox requests -/

/-- Remaps of core 17 of a free cluster, of the last core, and of cluster 9; lane 5 of die 1 leads to device 7. -/
theorem test_meets_remaps :
    let s := (ready.setLink 1 5 { JLink.reset with up := true, dev := 7 }).setDie 1
      { (ready.setLink 1 5 { JLink.reset with up := true, dev := 7 }).die 1 with routes := [(7, 0x21)] }
    s.physCluster (0x11 / 16) = some 1 ∧ (s.physCore 0x11).isSome = true ∧ (s.spareCore 1).isSome = true ∧
    s.coreQuiet 0x11 = true ∧ s.coreOwner 0x11 = none ∧
    ({ s with threads := [(0x110, { Thread.reset with st := .ready })] } : State).coreQuiet 0x11 = false ∧
    s.clusterOwner 9 = none ∧ (s.spareCluster (9 / 8)).isSome = true ∧ (s.link 1 32).spare = false ∧
    s.isWorn 2 (34 * 1 + 32) = false ∧ (s.routeMask 1 7).getLsbD 5 = true := by decide +kernel

/-- Core 1 is a partition's, and Seedbed has the 48 bytes of its generator. -/
theorem test_meets_remap_owned :
    (seeded 48).coreOwner 1 = some 1 ∧ ((seeded 48).drawInternal 3 48).2.1 = stOk ∧ (seeded 48).coreQuiet 1 = true ∧
    ((seeded 48).spareCore 0).isSome = true := by decide +kernel

/-- States of power in which the requests act: each way out of ACTIVE and back, and the refusals. -/
theorem test_meets_power :
    ready.power = 0 ∧ ready.dozeBlocked = false ∧ ready.sleepBlocked = false ∧ ready.enterDoze.power = 1 ∧
    ready.enterDoze.mode = 1 ∧
    (running (.halt w0 0) (withRegs [])).dozeBlocked = true ∧ (running (.halt w0 0) (withRegs [])).sleepBlocked = true ∧
    ({ ready with parts := [] }.wrN (.dieE tyClocks) 0x11C 2).power = 2 ∧
    ({ ready with parts := [] }.wrN (.dieE tyClocks) 0x11C 2).rekeyBytes = 0 := by decide +kernel

theorem joined_ok {f : Nat → Status} {n : Nat} (h : ∀ i < n, f i = stOk) :
    (List.range n).foldl (fun st i => joinCheck st (f i)) stOk = stOk := by
  induction n with
  | zero => rfl
  | succ n ih =>
    rw [List.range_succ, List.foldl_append, ih (fun i hi => h i (by omega))]
    simp [h n (by omega), joinCheck, stOk, stSegment, stUnmapped, stBound]

/-- A partition's request may write a range of its Press while the compute dies are powered. -/
theorem reqCheck_press {s : State} {a n : Nat} (h : pressReady s = true) (hw : s.power ≠ 2) (ha : 0x8000000000 ≤ a)
    (hn : a + n ≤ 0x8004000000) : s.reqCheck partReq true a n = stOk := by
  have ho : s.checkRange (rtpAgent 1) true a n = stOk := joined_ok fun i hi => by
    obtain ⟨⟨c, hp⟩, -, hc⟩ := openTo_press (g := rtpAgent 1) (w := true) h rfl ha hn i hi
    obtain hp | hp := hp <;> rw [hp] at hc <;> simp only [State.placeOf, hp, State.checkByte] <;> exact hc
  simp only [State.reqCheck, partReq, if_false, Bool.false_eq_true, ho]
  exact joined_ok fun i _ => by simp [State.asleepCheck, hw, stOk]

/-- Partition 1 and slot 100 at its teardown's start and in its step 5; a report of its own, for which Seedbed has the bytes. -/
theorem test_meets_partition_requests :
    (keyed.part 1).st = 2 ∧ (keyed.key 100).allot = some 1 ∧
    ((tearing 5).rtp.teardown.map (fun v => v.step)) = some 5 ∧ (tearing 5).escOn = true ∧ (tearing 5).rtpHalted = false ∧
    partReq.host = false ∧ ((seeded 160).part 1).st ≠ 0 ∧
    ((seeded 160).drawRtp 160).2.map (fun x => x.1) = some stOk ∧
    (seeded 160).reqCheck partReq true 0x8000002000 9896 = stOk :=
  ⟨by decide +kernel, by decide +kernel, by decide +kernel, by decide +kernel, by decide +kernel, by decide +kernel,
    by decide +kernel, by decide +kernel, reqCheck_press (by decide +kernel) (by decide +kernel) (by omega) (by omega)⟩

/-! ### Witnesses: Mitre and Joist, further clauses -/

/-- A DATA packet of the peer without bytes, PSN 0, under EPOCH 2 and PKT_CTR 3 (its tag computed with OpenSSL). -/
def sealedData : Frame :=
  { unsealed with
    udpSum := 61299
    body := mitreHead 1 false 1 0 0 2 3 ++ List.replicate 44 0 ++
      [110, 9, 82, 182, 117, 117, 28, 38, 249, 45, 129, 0, 219, 9, 127, 123] }

/-- The statement about frames: authentic data within the window, as a duplicate, beyond the window, and while its bytes are
being placed elsewhere; PSN 0 under four contexts, which authentication does not read. -/
theorem test_meets_data :
    let s := peered aPeer true
    let f := sealedData
    let ahead (p : Peer) : Nat := (f.n 20 4 + 2 ^ 32 - p.cum.toNat) % 2 ^ 32
    inService s ∧ s.recognises f = true ∧ s.badFrame f = false ∧ f.ty = 1 ∧ s.peer f.peer = some aPeer ∧
    s.takesPackets 1 = true ∧ s.authenticate aPeer f = some ([], false) ∧
    (∀ x l, s.authenticate { aPeer with cum := x, placing := l } f = s.authenticate aPeer f) ∧
    ahead aPeer < 256 ∧ aPeer.seen.contains 0 = false ∧ aPeer.isPlacing 0 = false ∧ 2 ^ 31 ≤ ahead { aPeer with cum := 1 } ∧
    256 ≤ ahead { aPeer with cum := 0xFFFFFF00 } ∧ ahead { aPeer with cum := 0xFFFFFF00 } < 2 ^ 31 ∧
    Peer.isPlacing { aPeer with placing := [⟨0, 0, 64⟩] } 0 = true :=
  ⟨by unfold inService; decide +kernel, by decide +kernel, by decide +kernel, by decide +kernel, by decide +kernel,
    by decide +kernel, by decide +kernel, fun _ _ => rfl, by decide +kernel⟩

/-- A ring of partition 1 whose last place before its header is next, in a Press. -/
def aRing (isAeq : Bool) (waiting : List (List Byte)) : Ring :=
  { pid := 1, isAeq := isAeq, base := 0x8000002000, log2n := 4, hdr := 0x8000003000, written := 15, waiting := waiting }

/-- Die 0 with the ring as its ring 3. -/
def ringed3 (r : Ring) : State := (bound []).setMit 0 { (bound []).mit 0 with rings := [(3, some r)] }

/-- The statement about rings and ports: a waiting record of queue 5 with room; an event ring; no ring. -/
theorem test_meets_rings :
    let r := aRing false [[0, 0, 5, 0] ++ List.replicate 28 0]
    (ringed3 r).ring 0 3 = some r ∧ ringReady (ringed3 r) 0 r 0x80000021E0 0x8000003000 ∧ ((ringed3 r).mq 0 5).isSome = true ∧
    ((ringed3 { r with written := 16 }).ringRoom 0 { r with written := 16 }) = false ∧
    (ringed3 (aRing true [])).diesUp = true ∧ (ringed3 (aRing true [])).fld (ethPage 0) 0x100 0 1 = 0 ∧
    ((ringed3 (aRing true [])).parts.filter (fun e => e.2.ports.getLsbD 0 && e.2.st ≠ 0)).map (fun e => e.1) = [1] ∧
    (ringed3 (aRing true [])).ctrlDie 1 = 0 ∧
    ringReady (ringed3 (aRing true [])) 0 (aRing true []) 0x80000021E0 0x8000003000 := by
  have h : ∀ r : Ring, r = aRing false [[0, 0, 5, 0] ++ List.replicate 28 0] ∨ r = aRing true [] →
      ringReady (ringed3 r) 0 r 0x80000021E0 0x8000003000 := by
    intro r hr
    refine ⟨⟨.inl ⟨0, ?_⟩, ?_⟩, ⟨.inl ⟨0, ?_⟩, ?_⟩, ?_⟩
    all_goals obtain rfl | rfl := hr <;> decide +kernel
  exact ⟨by decide +kernel, h _ (.inl rfl), by decide +kernel, by decide +kernel, by decide +kernel, by decide +kernel,
    by decide +kernel, by decide +kernel, h _ (.inr rfl)⟩

/-- A fetch whose block has a version and a sound MAC, and one whose line of versions has a wrong one. -/
theorem test_meets_fetch_bad :
    let s : State := { fetching with v0 := [(0, 5)] }
    let t : State := { s with macErr := [(macItem 2 0, 1)] }
    (∀ x ∈ [s, t], x.engOn = true ∧ (x.mit 0).waiting.contains 0 = true ∧ x.peer 0 = some aPeer ∧ x.cached 0 = false ∧
      (x.cacheIn 0).isSome = true ∧
      ((x.cacheIn 0).map (fun u => (u.hbmRequest (mitreAgent 0 1 0) (u.backAddr 0 aPeer) 256).1.blockKey (u.backAddr 0 aPeer))) =
        some (some 0) ∧ x.ver0 0 = 5) ∧
    (∀ level < 3, s.macBad (macItem level 0) = false) ∧ t.macBad (macItem 2 0) = true := by decide +kernel

/-- A link with a route over it and a packet to replay, before its eighth replay. -/
theorem test_meets_routes :
    let s := (replaying 7).setDie 0 { (replaying 7).die 0 with routes := [(9, 2 ^ 33 + 2 ^ 32)] }
    (s.link 0 33).up = true ∧ (s.link 0 33).replay ≠ [] ∧ 8 ≤ (s.link 0 33).replays + 1 ∧ (s.routeMask 0 9).getLsbD 33 = true ∧
    (out (exec (.linkDown 0 33) s)).routeMask 0 9 = 2 ^ 32 := by decide +kernel

/-- A write of two bytes of a poisoned line. -/
theorem test_meets_poisoned_write :
    let s : State := { linked JLink.reset with badLines := [(0x8000000000 / 64, true)] }
    partPoisoned s 0x8000000000 2 ∧ s.arrivalCheck { jp with payload := [1, 2] } 1 true false 2 = stOk ∧
    (out (exec (.wr 0 33 { jp with payload := [1, 2] }) s)).byte 0x8000000000 = 0 :=
  ⟨⟨0x8000000000, .inl ⟨0, by decide +kernel⟩, by decide +kernel⟩, by decide +kernel⟩

/-! ### Witnesses: clauses of events, the aperture, pins, causes and records -/

def aRecord : EvRec := { src := 2, owner := 2, cls := 2, prio := 3, merged := false, flushed := false, time := 9 }

/-- A request of class c that one target of a ring of 16 may take, which has n records staged and ends its episode at 9. -/
def requesting (c : BitVec 2) (n : Nat) : State :=
  { routing with evc := { routing.evc with
      srcs := [(2, { EvSrc.reset with en := true, st := .pending, prio := 3, cls := c })]
      tgts := [(0, { Tgt.reset with enable := true, prio := 0, modCount := 9, staged := List.replicate n aRecord })] } }

/-- The numbers of a state's requests, and the targets that may take source 2's. -/
def choices (s : State) : List Nat × List (List Nat) :=
  (s.requests.map (fun x => x.1), (({ s with fresh := s.fresh + 1 } : State).eligible (s.src 2)).map
    (fun y => [y.1, y.2.1, y.2.2.1, y.2.2.2.toNat]))

theorem test_meets_route_clauses :
    choices (requesting 2 1) = ([2], [[0, 1, 0, 1]]) ∧ choices (requesting 3 8) = ([2], [[0, 8, 0, 0]]) ∧
    choices (requesting 3 7) = ([2], [[0, 7, 0, 1]]) ∧
    ((out (exec .eventRoute (requesting 2 1))).src 2).st = .held ∧ ((out (exec .eventRoute (requesting 3 7))).src 2).st = .held ∧
    ((out (exec .eventRoute (requesting 2 8))).tgt 0).staged = [] ∧
    (out (exec .eventRoute (requesting 3 8))).rdN evcPage 0x158 = 1 := by decide +kernel

/-- A request that only the RTP may take goes to it where it has room at a lower priority. -/
theorem test_meets_route_rtp (s : State) (e : EvSrc) (hm : s.group e.group.toNat = 0x10000000000000000)
    (h : (Config.rtpPriority s.fresh).toNat < e.prio.toNat) (g : Config.rtpRoom s.fresh = true) :
    bestTgt (s.eligible e) = some 64 := by
  have z : ∀ t ∈ List.range 64, (0x10000000000000000 : BitVec 65).getLsbD t = false := by decide
  have p : (List.range 64).filter (fun t => (0x10000000000000000 : BitVec 65).getLsbD t && (s.tgt t).takes e.prio.toNat) = [] :=
    List.filter_eq_nil_iff.mpr (fun t ht => by rw [z t ht]; exact Bool.false_ne_true)
  have r : (0x10000000000000000 : BitVec 65).getLsbD 64 = true := by decide
  simp only [State.eligible, hm, p, List.map_nil, List.nil_append]
  rw [if_pos ⟨r, h, g⟩]
  rfl

theorem test_meets_sample_clauses :
    let lev : EvSrc := { EvSrc.reset with en := true, line := true }
    let edge : EvSrc := { EvSrc.reset with en := true, sense := 3 }
    let held := sensing { lev with st := .held, target := 0 } false
    let s : State := { held with evc := { held.evc with tgts := [(0, { Tgt.reset with enable := true, modCount := 9, staged := [aRecord] })] } }
    ((out (exec (.eventLineSample 2) s)).src 2).withdrawn = true ∧
    ((out (exec (.eventLineSample 2) s)).tgt 0).staged = [{ aRecord with src := 0xFFF }] ∧
    ((out (exec (.eventLineSample 2) (sensing { edge with st := .pending } true))).src 2).merged = true := by decide +kernel

/-- A record staged in target 63 in an episode of a vector armed or owed, of a host that may be written or is in D3hot. -/
def staging (armed owed d3 : Bool) : State :=
  { routing with
    host := { routing.host with d3hot := d3 }
    evc := { routing.evc with tgts :=
      [(63, { Tgt.reset with enable := true, modCount := 9, staged := [aRecord], armed := armed, owed := owed })] } }

theorem test_meets_moderation_clauses :
    (out (exec (.moderationTimeout 63) (staging true false false))).out = [.msix 63] ∧
    (out (exec (.moderationTimeout 63) (staging false true false))).out = [.msix 63] ∧
    (out (exec (.moderationTimeout 63) (staging false false false))).out = [] ∧
    ((staging false false false).tgt 63).load ≤ ((staging false false false).tgt 63).size ∧
    (staging true false true).hostWritable = false ∧ inService (staging true false true) ∧
    (out (exec (.moderationTimeout 63) (staging true false true))).host.pme = true := by unfold inService; decide +kernel

theorem test_meets_gauge_input :
    let s := { ready with regs := [(regKey mboxPage 0x114, 1), (regKey gaugePage 0x104, 0x10000)], time := 9 }
    s.gaugeBusy = false ∧ (out (exec .gaugeInEdge s)).gaugeBusy = true ∧ (out (exec .gaugeInEdge snapped)).gaugeBusy = true := by
  decide +kernel

theorem test_meets_aperture_places : openAt windows 0x200FFF ∧ deniedAt windows 0 ∧ unassignedAt windows 0x400000 :=
  ⟨⟨by decide, { owner := none, near := some 0, frames := [(0, 4), (1, 4), (2, 4), (3, 4)] }, by decide +kernel, fun _ h => nomatch h⟩,
    ⟨by decide, { owner := some 1, near := some 0, frames := [(0, 0), (1, 0), (2, 0), (3, 0)] }, 1, by decide +kernel, rfl,
      .inl (by decide +kernel)⟩,
    .inr (by decide +kernel)⟩

theorem test_meets_aperture_block : ∃ key, soundBlock windows 0x200FFF key ∧ windows.versionsFull key = false :=
  ⟨(windows.blockKey 0x200FFF).getD 0, by unfold soundBlock; decide +kernel, by decide +kernel⟩

/-- The block of 0x200F00 poisoned, and the range of its clusters' Wicket frozen. -/
theorem test_meets_aperture_poisoned :
    let key := (windows.blockKey 0x200F00).getD 0
    let s : State := { windows with v0 := sput (fun _ => 0) windows.v0 key 0xFFFFFFFF }
    s.ver0 key = 0xFFFFFFFF ∧ s.blockKey 0x200F00 = some key ∧
    (out (exec (.bar2Read 0x200F00 4) s)).host.poisoned = true ∧ (out (exec (.bar2Read 0x200F00 4) s)).host.bytes = [0, 0, 0, 0] := by
  decide +kernel

theorem test_meets_pcie_resets :
    let s : State := { ready with pins := { ready.pins with perst := false } }
    (out (exec .perstRelease s)).crossOpen endPcie = true ∧ (out (exec .functionLevelReset ready)).host.inReset = true ∧
    (out (exec (.pcieReset .perst) ready)).pins.perst = false := by
  decide +kernel

/-- A cause recorded, the same again, another after it, and one that its ESC cycle may hold. -/
theorem test_meets_causes :
    let s := ready.failCause 5 1
    s.rtp.fsCause = 5 ∧ s.mode = 3 ∧ (s.failCause 5 1).rd64 sparesPage 0x138 = 0 ∧ s.rd64 sparesPage 0x138 = s.time.toNat ∧
    ({ s with time := s.time + 9 } : State).rd64 sparesPage 0x138 ≠ (s.time + 9).toNat ∧
    (({ s with time := s.time + 9 } : State).failCause 2 0).fld sparesPage 0x12C 0 8 = 5 := by decide +kernel

theorem test_meets_records :
    let s : State := { ready with thresh := factoryThresholds, journal := { ready.journal with queue := [[1, 2], [3]], captures := [1, 2] } }
    (out (exec .sparesRecordWrite s)).flash.record.seq = s.flash.record.seq + 1 ∧
    (out (exec .wearCounterSave s)).flash.record.spares = s.spares ∧
    (out (exec .journalEntryAbsorbed s)).rd64 journalPage 0x1B0 = 1 ∧
    (out (exec .journalEntryAbsorbed s)).journal.captures = [2] := by decide +kernel

end Sys2Proof.Tests
end

/-!
SUPPORT. The exact window accumulator (chapter 02, R57 to R59, R63, R66): what one addition leaves in N and in each flag,
and why a sum does not depend on how it is split.
-/

namespace Sys2Proof.Laws.Accumulator

open Sys2Proof Sys2Proof.Machine Sys2Proof.Spec

/-! ### The range of N and its flags -/

/-- N lies outside the signed 128-bit range: what WIDE reports (R58). -/
def isWide (n : Int) : Bool := decide (n < -2 ^ 127) || decide (2 ^ 127 ≤ n)

/-- The value of the 136-bit range nearest to a sum: what N becomes (R58). -/
def clamp136 (s : Int) : Int := max (-2 ^ 135) (min s (2 ^ 135 - 1))

theorem clamp136_of_mem {s : Int} (hlo : -2 ^ 135 ≤ s) (hhi : s < 2 ^ 135) : clamp136 s = s := by
  unfold clamp136; omega

theorem clamp136_of_lt {s : Int} (h : s < -2 ^ 135) : clamp136 s = -2 ^ 135 := by
  unfold clamp136; omega

theorem clamp136_of_le {s : Int} (h : 2 ^ 135 ≤ s) : clamp136 s = 2 ^ 135 - 1 := by
  unfold clamp136; omega

theorem toInt_ofInt_clamp136 (s : Int) : (BitVec.ofInt 136 (clamp136 s)).toInt = clamp136 s := by
  apply BitVec.toInt_ofInt_eq_self (by decide) <;> unfold clamp136 <;> omega

theorem hasFlag_flOverflow (f : BitVec 8) : hasFlag f flOverflow = f.getLsbD 2 := by
  revert f; decide

theorem getLsbD_flInexact (i : Nat) : flInexact.getLsbD i = decide (i = 0) := by
  rw [show flInexact = BitVec.twoPow 8 0 from rfl, BitVec.getLsbD_twoPow]
  simp [eq_comm]

theorem getLsbD_flWide (i : Nat) : flWide.getLsbD i = decide (i = 1) := by
  rw [show flWide = BitVec.twoPow 8 1 from rfl, BitVec.getLsbD_twoPow]
  simp [eq_comm]

theorem getLsbD_flOverflow (i : Nat) : flOverflow.getLsbD i = decide (i = 2) := by
  rw [show flOverflow = BitVec.twoPow 8 2 from rfl, BitVec.getLsbD_twoPow]
  simp [eq_comm]

/-- WIDE becomes what N says, and no other flag changes. -/
theorem getLsbD_setWide (n : Int) (f : BitVec 8) (i : Nat) :
    (setWide n f).getLsbD i = if i = 1 then isWide n else f.getLsbD i := by
  by_cases hw : n < -2 ^ 127 ∨ 2 ^ 127 - 1 < n
  · have hn : isWide n = true := by simp only [isWide, Bool.or_eq_true, decide_eq_true_eq]; omega
    rw [setWide, if_pos hw, BitVec.getLsbD_or, getLsbD_flWide, hn]
    split <;> simp [*]
  · have hn : isWide n = false := by simp only [isWide, Bool.or_eq_false_iff, decide_eq_false_iff_not]; omega
    rw [setWide, if_neg hw, BitVec.getLsbD_and, BitVec.getLsbD_not, getLsbD_flWide, hn]
    by_cases hi : i < 8
    · split <;> simp [*]
    · simp [hi, BitVec.getLsbD_of_ge f i (by omega)]

/-! ### One addition of an integer -/

/-- N takes the sum, or the end of its range that the sum passed; only then is ACC_OVERFLOW set (R58). -/
theorem addInt_of_not_overflow {x : Elem} (a : Int) (h : x.flags.getLsbD 2 = false) :
    let n := clamp136 (x.n.toInt + a)
    x.addInt a = { n := BitVec.ofInt 136 n,
                   flags := setWide n (if n = x.n.toInt + a then x.flags else x.flags ||| flOverflow) } := by
  simp only [Elem.addInt, hasFlag_flOverflow, h, Bool.false_eq_true, if_false]
  by_cases hlo : x.n.toInt + a < -2 ^ 135
  · rw [if_pos hlo, clamp136_of_lt hlo, if_neg (by omega)]
  by_cases hhi : 2 ^ 135 - 1 < x.n.toInt + a
  · rw [if_neg hlo, if_pos hhi, clamp136_of_le (by omega), if_neg (by omega)]
  · rw [if_neg hlo, if_neg hhi, clamp136_of_mem (by omega) (by omega), if_pos rfl]

theorem addInt_of_overflow {x : Elem} (a : Int) (h : x.flags.getLsbD 2 = true) : x.addInt a = x := by
  rw [Elem.addInt, hasFlag_flOverflow, if_pos h]

theorem addInt_toInt {x : Elem} (a : Int) (h : x.flags.getLsbD 2 = false) :
    (x.addInt a).n.toInt = clamp136 (x.n.toInt + a) := by
  rw [addInt_of_not_overflow a h]
  exact toInt_ofInt_clamp136 _

theorem addInt_flags_getLsbD {x : Elem} (a : Int) (h : x.flags.getLsbD 2 = false) (i : Nat) :
    (x.addInt a).flags.getLsbD i =
      if i = 1 then isWide (x.addInt a).n.toInt
      else (x.flags.getLsbD i || decide (i = 2 ∧ (x.addInt a).n.toInt ≠ x.n.toInt + a)) := by
  rw [addInt_toInt a h, addInt_of_not_overflow a h, getLsbD_setWide]
  by_cases hs : clamp136 (x.n.toInt + a) = x.n.toInt + a
  · simp [hs]
  · rw [if_neg hs, BitVec.getLsbD_or, getLsbD_flOverflow]
    simp [hs]

/-! ### One addition of an exact value -/

/-- The units and the remainder that an addend is split into are its truncated integer and its lost bits (R57). -/
theorem truncated_eq_splitUnits (w : Int) (neg : Bool) (m : Nat) (e : Int) :
    truncated w neg m e =
      (if neg then -((splitUnits m e (w - 96)).1 : Int) else (splitUnits m e (w - 96)).1,
        decide ((splitUnits m e (w - 96)).2.1 ≠ 0)) := by
  unfold truncated splitUnits
  by_cases hle : w - 96 ≤ e
  · simp [hle]
  · simp [hle, show e < w - 96 by omega, bne, beq_eq_decide]

theorem addFV_fin_of_overflow {w : Int} {x : Elem} {neg : Bool} {m : Nat} {e : Int} (h : x.flags.getLsbD 2 = true) :
    x.addFV w (.fin neg m e) = x := by
  rw [Elem.addFV, hasFlag_flOverflow, if_pos h]

/-- A finite addend adds its truncated integer, and sets INEXACT where it lost bits. -/
theorem addFV_fin_of_not_overflow {w : Int} {x : Elem} {neg : Bool} {m : Nat} {e : Int} (h : x.flags.getLsbD 2 = false) :
    let a := truncated w neg m e
    x.addFV w (.fin neg m e) =
      { x.addInt a.1 with flags := (x.addInt a.1).flags ||| if a.2 then flInexact else 0 } := by
  simp only [Elem.addFV, hasFlag_flOverflow, h, truncated_eq_splitUnits, Bool.false_eq_true, if_false]
  by_cases hr : (splitUnits m e (w - 96)).2.1 = 0 <;> simp [hr]

theorem addFV_fin_toInt {w : Int} {x : Elem} {neg : Bool} {m : Nat} {e : Int} (h : x.flags.getLsbD 2 = false) :
    (x.addFV w (.fin neg m e)).n.toInt = clamp136 (x.n.toInt + (truncated w neg m e).1) := by
  rw [addFV_fin_of_not_overflow h]
  exact addInt_toInt _ h

/-- Each flag after a finite addend: WIDE follows N, INEXACT and ACC_OVERFLOW are sticky, the others are kept. -/
theorem addFV_fin_flags_getLsbD {w : Int} {x : Elem} {neg : Bool} {m : Nat} {e : Int} (h : x.flags.getLsbD 2 = false)
    (i : Nat) :
    (x.addFV w (.fin neg m e)).flags.getLsbD i =
      if i = 1 then isWide (x.addFV w (.fin neg m e)).n.toInt
      else (x.flags.getLsbD i || decide (i = 0 ∧ (truncated w neg m e).2 = true) ||
        decide (i = 2 ∧ (x.addFV w (.fin neg m e)).n.toInt ≠ x.n.toInt + (truncated w neg m e).1)) := by
  set a := truncated w neg m e
  have hlost : (if a.2 then flInexact else 0).getLsbD i = decide (i = 0 ∧ a.2 = true) := by
    cases a.2 with
    | false => simp
    | true => rw [if_pos rfl, getLsbD_flInexact]; simp
  rw [addFV_fin_of_not_overflow h, BitVec.getLsbD_or, hlost, addInt_flags_getLsbD _ h]
  by_cases hi : i = 1
  · simp [hi]
  · rw [if_neg hi, if_neg hi, Bool.or_right_comm]

/-- A finite addend sets ACC_OVERFLOW exactly where N is not the sum. -/
theorem addFV_fin_overflow {w : Int} {x : Elem} {neg : Bool} {m : Nat} {e : Int} (h : x.flags.getLsbD 2 = false) :
    (x.addFV w (.fin neg m e)).flags.getLsbD 2 =
      decide ((x.addFV w (.fin neg m e)).n.toInt ≠ x.n.toInt + (truncated w neg m e).1) := by
  rw [addFV_fin_flags_getLsbD h, h]
  simp

/-- A finite addend sets INEXACT exactly where it lost bits. -/
theorem addFV_fin_inexact {w : Int} {x : Elem} {neg : Bool} {m : Nat} {e : Int} (h : x.flags.getLsbD 2 = false) :
    (x.addFV w (.fin neg m e)).flags.getLsbD 0 = (x.flags.getLsbD 0 || (truncated w neg m e).2) := by
  rw [addFV_fin_flags_getLsbD h]
  simp

/-- Every flag but WIDE is sticky (R60). -/
theorem addFV_flag_sticky {w : Int} {x : Elem} {i : Nat} (hi : i ≠ 1) (hx : x.flags.getLsbD i = true) (v : FV) :
    (x.addFV w v).flags.getLsbD i = true := by
  cases v with
  | nan => simp [Elem.addFV, hx]
  | inf neg => simp [Elem.addFV, hx]
  | fin neg m e =>
    cases h : x.flags.getLsbD 2 with
    | true => rw [addFV_fin_of_overflow h, hx]
    | false => rw [addFV_fin_flags_getLsbD h, if_neg hi, hx, Bool.true_or, Bool.true_or]

/-- Settles O26: N takes the sum or the end of its range, and the flags follow from it bit by bit. -/
theorem accumulatorAddsExactly : Obligations.AccumulatorAddsExactly := by
  unfold Obligations.AccumulatorAddsExactly
  intro w x _
  refine ⟨fun neg m e => ?_, rfl, rfl, rfl⟩
  have hn := addFV_fin_toInt (w := w) (x := x) (neg := neg) (m := m) (e := e)
  have hov := addFV_fin_overflow (w := w) (x := x) (neg := neg) (m := m) (e := e)
  refine ⟨addFV_fin_of_overflow, fun h hlo hhi => ?_, fun h hlo => ?_, fun h hhi => ?_,
    fun h => addFV_fin_flags_getLsbD h 1⟩
  · have hsum := (hn h).trans (clamp136_of_mem hlo hhi)
    exact ⟨hsum, (hov h).trans (decide_eq_false (not_not_intro hsum)), addFV_fin_inexact h⟩
  · have hmin := (hn h).trans (clamp136_of_lt hlo)
    exact ⟨hmin, (hov h).trans (decide_eq_true (by omega))⟩
  · have hmax := (hn h).trans (clamp136_of_le hhi)
    exact ⟨hmax, (hov h).trans (decide_eq_true (by omega))⟩

/-! ### A part holds the sum of its addends -/

/-- The integer that an addend adds (R57). -/
def units (w : Int) : FV → Int
  | .fin neg m e => (truncated w neg m e).1
  | _ => 0

/-- An addend loses bits below the window (R57). -/
def losesBits (w : Int) : FV → Bool
  | .fin neg m e => (truncated w neg m e).2
  | _ => false

/-- The sum of the addends' integers. -/
def unitSum (w : Int) (l : List FV) : Int := (l.map (units w)).sum

@[simp] theorem unitSum_append (w : Int) (l k : List FV) : unitSum w (l ++ k) = unitSum w l + unitSum w k := by
  simp [unitSum]

/-- An accumulator holds a sum exactly: N is the sum, and no flag stands but INEXACT, where bits were lost, and WIDE,
where the sum is wide. -/
def HoldsSum (x : Elem) (n : Int) (lost : Bool) : Prop :=
  x.n.toInt = n ∧ ∀ i, x.flags.getLsbD i = if i = 1 then isWide n else decide (i = 0 ∧ lost = true)

theorem HoldsSum.not_overflow {x : Elem} {n : Int} {lost : Bool} (h : HoldsSum x n lost) : x.flags.getLsbD 2 = false := by
  rw [h.2]
  simp

/-- The sum and the lost bits say what an accumulator is. -/
theorem HoldsSum.unique {x y : Elem} {n : Int} {lost : Bool} (hx : HoldsSum x n lost) (hy : HoldsSum y n lost) : x = y := by
  obtain ⟨hxn, hxf⟩ := hx
  obtain ⟨hyn, hyf⟩ := hy
  have hn : x.n = y.n := BitVec.eq_of_toInt_eq (hxn.trans hyn.symm)
  have hf : x.flags = y.flags := BitVec.eq_of_getLsbD_eq fun i _ => (hxf i).trans (hyf i).symm
  cases x; cases y; congr

/-- No flag stands but INEXACT and WIDE. -/
def Unfailed (x : Elem) : Prop := ∀ i, 2 ≤ i → x.flags.getLsbD i = false

theorem Unfailed.of_addFV {w : Int} {x : Elem} {v : FV} (h : Unfailed (x.addFV w v)) : Unfailed x := fun i hi => by
  by_contra hx
  have hset := addFV_flag_sticky (w := w) (by omega) (Bool.eq_true_of_not_eq_false hx) v
  simp [h i hi] at hset

/-- An addend that leaves no failure behind is finite and was added exactly. -/
theorem HoldsSum.addFV {w : Int} {x : Elem} {n : Int} {lost : Bool} {v : FV} (h : HoldsSum x n lost)
    (hu : Unfailed (x.addFV w v)) : HoldsSum (x.addFV w v) (n + units w v) (lost || losesBits w v) := by
  cases v with
  | nan => simpa [Elem.addFV] using hu 3 (by decide)
  | inf neg =>
    cases neg with
    | false => simpa [Elem.addFV] using hu 4 (by decide)
    | true => simpa [Elem.addFV] using hu 5 (by decide)
  | fin neg m e =>
    have hov := addFV_fin_overflow (w := w) (neg := neg) (m := m) (e := e) h.not_overflow
    have hflags := addFV_fin_flags_getLsbD (w := w) (neg := neg) (m := m) (e := e) h.not_overflow
    obtain ⟨hn, hf⟩ := h
    rw [hu 2 le_rfl, hn] at hov
    have hsum : (x.addFV w (.fin neg m e)).n.toInt = n + units w (.fin neg m e) :=
      not_not.mp (of_decide_eq_false hov.symm)
    refine ⟨hsum, fun i => ?_⟩
    rw [hflags, hsum, hf, hn]
    by_cases hi : i = 1
    · simp [hi]
    · by_cases h0 : i = 0 <;> simp [hi, h0, losesBits, units]

theorem reducePart_concat (w : Int) (l : List FV) (v : FV) : reducePart w (l ++ [v]) = (reducePart w l).addFV w v := by
  simp [reducePart]

/-- A part whose partial shows no failure holds the sum of its addends: its flags are sticky, so no addition on the way
overflowed. -/
theorem holdsSum_reducePart {w : Int} {l : List FV} (hu : Unfailed (reducePart w l)) :
    HoldsSum (reducePart w l) (unitSum w l) (l.any (losesBits w)) := by
  induction l using List.reverseRecOn with
  | nil => exact ⟨rfl, fun i => by simp [reducePart, Elem.zero, isWide, unitSum]⟩
  | append_singleton l v ih =>
    rw [reducePart_concat] at hu ⊢
    simpa [unitSum] using (ih hu.of_addFV).addFV hu

/-- The premise of R66 on one partial: no flag other than INEXACT stands, so N is the sum and lies in 128 bits. -/
theorem holdsSum_of_flags_le_one {w : Int} {l : List FV} (h : (reducePart w l).flags.toNat ≤ 1) :
    HoldsSum (reducePart w l) (unitSum w l) (l.any (losesBits w)) ∧ -2 ^ 127 ≤ unitSum w l ∧ unitSum w l < 2 ^ 127 := by
  have hclear : ∀ i, 1 ≤ i → (reducePart w l).flags.getLsbD i = false := fun i hi =>
    Nat.testBit_lt_two_pow (lt_of_le_of_lt h (Nat.one_lt_two_pow (by omega)))
  have hs := holdsSum_reducePart fun i hi => hclear i (by omega)
  have hw : isWide (unitSum w l) = false := by
    have h1 := hs.2 1
    rw [hclear 1 le_rfl] at h1
    exact h1.symm
  simp only [isWide, Bool.or_eq_false_iff, decide_eq_false_iff_not] at hw
  exact ⟨hs, by omega, by omega⟩

/-! ### Partials combined -/

/-- A long-form add whose sum lies in the 136-bit range adds exactly (R63). -/
theorem HoldsSum.addElem {x y : Elem} {m n : Int} {lx ly : Bool} (hx : HoldsSum x m lx) (hy : HoldsSum y n ly)
    (hlo : -2 ^ 135 ≤ m + n) (hhi : m + n < 2 ^ 135) : HoldsSum (x.addElem y) (m + n) (lx || ly) := by
  have hsum : (x.addInt y.n.toInt).n.toInt = m + n := by
    rw [addInt_toInt _ hx.not_overflow, hx.1, hy.1, clamp136_of_mem hlo hhi]
  refine ⟨hsum, fun i => ?_⟩
  have hflags := addInt_flags_getLsbD y.n.toInt hx.not_overflow i
  rw [hsum, hx.1, hx.2] at hflags
  simp only [Elem.addElem, getLsbD_setWide, BitVec.getLsbD_or, hsum, hflags, hy.2]
  by_cases hi : i = 1
  · simp [hi]
  · by_cases h0 : i = 0 <;> simp [hi, h0, hy.1]

/-- At most 256 partials within 128 bits add up within 136 bits, in whatever order they are combined. -/
theorem holdsSum_value {w : Int} {c : Combination} (hlen : c.parts.length ≤ 256)
    (hflags : ∀ l ∈ c.parts, (reducePart w l).flags.toNat ≤ 1) :
    HoldsSum (c.value w) (unitSum w c.parts.flatten) (c.parts.flatten.any (losesBits w)) ∧
      -2 ^ 127 * (c.parts.length : Int) ≤ unitSum w c.parts.flatten ∧
      unitSum w c.parts.flatten ≤ (2 ^ 127 - 1) * (c.parts.length : Int) := by
  induction c with
  | part l =>
    obtain ⟨hs, hlo, hhi⟩ := holdsSum_of_flags_le_one (hflags l (by simp [Combination.parts]))
    simp only [Combination.parts, Combination.value, List.flatten_singleton, List.length_singleton]
    exact ⟨hs, by omega, by omega⟩
  | add a b iha ihb =>
    simp only [Combination.parts, List.length_append, List.mem_append] at hlen hflags
    obtain ⟨ha, haLo, haHi⟩ := iha (by omega) fun l hl => hflags l (.inl hl)
    obtain ⟨hb, hbLo, hbHi⟩ := ihb (by omega) fun l hl => hflags l (.inr hl)
    simp only [Combination.parts, Combination.value, List.flatten_append, List.length_append, unitSum_append,
      List.any_append, Nat.cast_add]
    exact ⟨ha.addElem hb (by omega) (by omega), by omega, by omega⟩

/-- Settles O28: both evaluations hold the sum of the same addends, so they are the same accumulator. -/
theorem reductionsAreSplitInvariant : Obligations.ReductionsAreSplitInvariant := by
  unfold Obligations.ReductionsAreSplitInvariant
  intro w a b _ hperm hlenA hlenB hflags
  have ha := (holdsSum_value hlenA fun l hl => hflags l (List.mem_append_left _ hl)).1
  have hb := (holdsSum_value hlenB fun l hl => hflags l (List.mem_append_right _ hl)).1
  have hsum : unitSum w a.parts.flatten = unitSum w b.parts.flatten := (hperm.map (units w)).sum_eq
  have hlost : a.parts.flatten.any (losesBits w) = b.parts.flatten.any (losesBits w) := hperm.any_eq
  rw [hsum, hlost] at ha
  have hval : a.value w = b.value w := ha.unique hb
  exact ⟨hval, fun code mode draw _ => by rw [hval]⟩

end Sys2Proof.Laws.Accumulator

/-!
SUPPORT. The issue of a thread's instructions (chapter 03, R70 to R78): what a false guard, an illegal word, a fault and an
access come to.
-/

namespace Sys2Proof.Laws.Issue

open Sys2Proof Sys2Proof.Machine Sys2Proof.Spec

/-! ### Every instruction of a thread runs through threadExec -/

/-- The command of a row of Table 3.5 is threadExec of some body, whatever the instruction. -/
theorem exec_eq_threadExec {i : Instr} {w : Who} {gp : BitVec 3} (h : threadRow i = some (w, gp)) (s : State) :
    ∃ reads body, exec i s = .next (threadExec i w gp reads body s) := by
  cases i <;> cases h <;> exact ⟨_, _, rfl⟩

section
variable {i : Instr} {w : Who} {gp : BitVec 3} {v : BitVec 32} {s : State} (reads : List (BitVec 5))
  (body : Thread → State → State) (ha : s.active w = true) (ht : s.turn w = true) (hf : s.fetch w = .word v)
include ha ht hf

/-- An instruction whose guard is false is passed (R76). -/
theorem threadExec_of_pred_false (hd : decodeThreadWord w v = some i) (hp : (s.thread w).pred gp = false) :
    threadExec i w gp reads body s = passedBy s w := by
  have hn : ¬ s.issues w i gp reads = true := fun hi => by simp [(s.issues_active w i gp reads hi).2.2.1] at hp
  rw [threadExec, if_neg hn, if_neg (not_not.2 ⟨ha, ht⟩)]
  simp [hf, hd, hp, passedBy, Thread.step]

/-- A word that decodes to no instruction faults its thread, whatever the command was (R77). -/
theorem threadExec_of_illegal (hd : decodeThreadWord w v = none) :
    threadExec i w gp reads body s = (s.took w false).threadFault w fcIllegal (s.thread w).pc 0 := by
  have hn : ¬ s.issues w i gp reads = true := fun hi => by
    obtain ⟨-, -, -, u, hu, hdu⟩ := s.issues_active w i gp reads hi
    obtain rfl : v = u := by simpa [hf] using hu
    simp [hd] at hdu
  rw [threadExec, if_neg hn, if_neg (not_not.2 ⟨ha, ht⟩)]
  simp [hf, hd]

end

/-! ### Faults (R100) -/

theorem thread_of_threads_eq {s t : State} (h : s.threads = t.threads) (v : Who) : s.thread v = t.thread v := by
  rw [State.thread, State.thread, h]

/-- Every other thread of a state in which one has issued is as it was. -/
theorem took_thread_other (s : State) {w v : Who} (slow : Bool) (h : v ≠ w) : (s.took w slow).thread v = s.thread v :=
  State.thread_setThread_other _ _ h

/-- A fault of the instruction that a thread has issued, without a latency, is the fault of R100. -/
theorem faulted_threadFault (s : State) (w : Who) (cause : BitVec 4) (pc : Word) (addr : Nat) :
    Faulted s ((s.took w false).threadFault w cause pc (BitVec.ofNat 64 addr)) w cause pc addr := by
  obtain ⟨hthreads, hmem, -⟩ := (s.took w false).threadFault_effect w cause pc (BitVec.ofNat 64 addr)
  refine ⟨?_, fun v hv => ?_, fun a => ?_⟩
  · rw [thread_of_threads_eq hthreads]; simp
  · rw [thread_of_threads_eq hthreads, State.thread_setThread_other _ _ hv, took_thread_other s false hv]
  · rw [State.byte, State.byte, hmem, (s.took_still w false).1]

/-- The same fault, at the PC of the thread. -/
theorem faulted_faultHere (s : State) (w : Who) (cause : BitVec 4) (addr : Nat) :
    Faulted s ((s.took w false).faultHere w cause addr) w cause (s.thread w).pc addr := by
  have hpc : ((s.took w false).thread w).pc = (s.thread w).pc := by rw [State.took_thread]
  rw [State.faultHere, hpc]
  exact faulted_threadFault s w cause _ addr

/-- Settles O14: every instruction's command is threadExec of its body, which a false guard and an illegal word never
reach. -/
theorem falseGuardHasNoEffect : Obligations.FalseGuardHasNoEffect := by
  unfold Obligations.FalseGuardHasNoEffect
  intro i w gp v s hrow ha ht hf
  obtain ⟨reads, body, hexec⟩ := exec_eq_threadExec hrow s
  refine ⟨fun hd hp => ?_, fun hd => ⟨_, hexec, ?_⟩⟩
  · rw [hexec, threadExec_of_pred_false reads body ha ht hf hd hp]
  · rw [threadExec_of_illegal reads body ha ht hf hd]
    exact faulted_threadFault s w fcIllegal _ 0

end Sys2Proof.Laws.Issue

/-!
SUPPORT. The accesses that a thread issues (chapter 03, R72, R78 to R80): each load, store and atomic is the access of its
row, and a misaligned one is a fault.
-/

namespace Sys2Proof.Laws.Access

open Sys2Proof Sys2Proof.Machine Sys2Proof.Spec Sys2Proof.Laws.Issue

/-! ### The body of a load, a store or an atomic -/

/-- The issue of an access by its thread: an aligned atomic outside HBM, Press and Drawer has no place (R32). -/
def issueOf (w : Who) (x : Access) (s : State) : State :=
  if isAtom x = true ∧ x.addr % x.size = 0 ∧ s.atomicPlace w x.addr x.size = false then s.faultHere w fcUnmapped x.addr
  else s.issueAccess w x

/-- A register and an offset add up modulo 2^64 (R78). -/
theorem toNat_add_ofInt (x : Word) (off : Int) : (x + BitVec.ofInt 64 off).toNat = ((x.toNat + off) % 2 ^ 64).toNat := by
  rw [BitVec.toNat_add, BitVec.toNat_ofInt]
  omega

section
variable {i : Instr} {w : Who} {gp : BitVec 3} {s : State} {rd ra rb : BitVec 5}

/-- A load that its thread issues makes the access of its row. -/
theorem loadExec_of_issues {imm : Word} {off : Int} {n : Nat} {sext acq : Bool} (hi : s.issues w i gp [ra] = true)
    (hslow : slowInstr i = false) (himm : imm = BitVec.ofInt 64 off) :
    loadExec i w gp rd ra imm n sext acq s =
      .next (issueOf w (loadOf (s.thread w) rd ra off n sext acq) (s.took w false)) := by
  rw [loadExec, threadExec_issues _ _ _ _ _ _ hi, hslow, State.took_thread, himm, toNat_add_ofInt]
  rfl

/-- A store that its thread issues makes the access of its row. -/
theorem storeExec_of_issues {imm : Word} {off : Int} {n : Nat} {rel : Bool} (hi : s.issues w i gp [rd, ra] = true)
    (hslow : slowInstr i = false) (himm : imm = BitVec.ofInt 64 off) :
    storeExec i w gp rd ra imm n rel s =
      .next (issueOf w (storeOf (s.thread w) rd ra off n rel) (s.took w false)) := by
  rw [storeExec, threadExec_issues _ _ _ _ _ _ hi, hslow, State.took_thread, himm, toNat_add_ofInt]
  rfl

/-- The two bits of ORDER (Table 3.7). -/
theorem order_bits (o : BitVec 2) : o.getLsbD 0 = decide (o.toNat % 2 = 1) ∧ o.getLsbD 1 = decide (2 ≤ o.toNat) := by
  revert o; decide

/-- The latency of a thread is no part of its registers. -/
theorem reg_lat (t : Thread) (b : Bool) (g : BitVec 5) : ({ t with lat := b } : Thread).reg g = t.reg g := rfl

/-- An atomic that its thread issues makes the access of its row. -/
theorem atomExec_of_issues {order : BitVec 2} {is64 : Bool} {op : BitVec 4}
    (hi : s.issues w i gp (if op = 2 then [ra, rb, rd] else [ra, rb]) = true) (hslow : slowInstr i = false) :
    atomExec i w gp rd ra rb order is64 op s =
      .next (issueOf w (atomOf (s.thread w) rd ra rb order is64 op) (s.took w false)) := by
  obtain ⟨hacq, hrel⟩ := order_bits order
  rw [atomExec, threadExec_issues _ _ _ _ _ _ hi, hslow, State.took_thread, hacq, hrel]
  refine congrArg _ (?_ : (if _ ∨ _ then State.issueAccess _ w (atomOf (s.thread w) rd ra rb order is64 op) else _) = _)
  rw [issueOf, ← ite_not]
  exact if_congr (by simp [isAtom, atomOf, reg_lat]) rfl rfl

end

/-- Every load, store and atomic but LFADD, once issued, is the issue of its row's access (Tables 3.5 and 3.7). -/
theorem exec_of_accRow {i : Instr} {r : AccRow} {s : State} (h : accRow i = some r)
    (hi : s.issues r.who i r.gp r.reads = true) :
    exec i s = .next (issueOf r.who (r.acc (s.thread r.who)) (s.took r.who false)) := by
  cases i with
  | ld8 | ld16 | ld32 | ld64 | lds8 | lds16 | lds32 | lda => cases h; exact loadExec_of_issues hi rfl rfl
  | st8 | st16 | st32 | st64 | stl => cases h; exact storeExec_of_issues hi rfl rfl
  | fadd | swap | cas | atomMax => cases h; exact atomExec_of_issues hi rfl
  | _ => cases h

/-! ### Misaligned addresses (R78, R94) -/

/-- A misaligned access faults before any check of its address. -/
theorem issueOf_misaligned (w : Who) (x : Access) (s : State) (h : x.addr % x.size ≠ 0) :
    issueOf w x s = s.faultHere w fcMisaligned x.addr := by
  rw [issueOf, if_neg (fun hx => h hx.2.1), State.issueAccess, if_pos h]

/-- A misaligned PARK faults before it reads its word. -/
theorem exec_park_misaligned {w : Who} {gp : BitVec 3} {rd ra rb : BitVec 5} {e : BitVec 6} {s : State}
    (hi : s.issues w (.park w gp rd ra rb e) gp [ra, rb] = true) (h : ((s.thread w).reg ra).toNat % 8 ≠ 0) :
    exec (.park w gp rd ra rb e) s =
      .next ((s.took w false).faultHere w fcMisaligned ((s.thread w).reg ra).toNat) := by
  change execPark w gp rd ra rb e s = _
  rw [execPark, threadExec_issues _ _ _ _ _ _ hi, State.took_thread]
  exact congrArg _ (if_pos h)

/-- Settles O17: the alignment is the first check of an access and of PARK, and its failure is the fault of R100. -/
theorem misalignedAccessesFault : Obligations.MisalignedAccessesFault := by
  unfold Obligations.MisalignedAccessesFault
  refine ⟨fun i r s hrow hi hmis => ⟨_, exec_of_accRow hrow hi, ?_⟩,
    fun w gp rd ra rb e s hi hmis => ⟨_, exec_park_misaligned hi hmis, ?_⟩⟩
  · rw [issueOf_misaligned _ _ _ hmis]
    exact faulted_faultHere s r.who fcMisaligned _
  · exact faulted_faultHere s w fcMisaligned _

end Sys2Proof.Laws.Access

/-!
SUPPORT. The special registers of Table 3.3 (chapter 03, R74): what a result in a register leaves of its thread, what MFS
reads and what MTS writes.
-/

namespace Sys2Proof.Laws.Special

open Sys2Proof Sys2Proof.Machine Sys2Proof.Spec Sys2Proof.Laws.Issue Sys2Proof.Laws.Access

/-! ### A result in a register (R71, log 27) -/

/-- A written register is the only field of its thread that changes. -/
theorem setReg_eq (t : Thread) (r : BitVec 5) (v : Word) : t.setReg r v = { t with g := (t.setReg r v).g } := by
  unfold Thread.setReg; split <;> rfl

/-- The accesses that a result in a register leaves: those that would write it write g0. -/
def withoutReg (r : BitVec 5) (l : List Access) : List Access :=
  l.map fun x => if x.writes ∧ x.rd = r then { x with rd := 0 } else x

/-- A result in a register changes the registers of its thread and the registers of its accesses. -/
theorem putReg_eq (t : Thread) (r : BitVec 5) (v : Word) :
    t.putReg r v = { t with g := (t.putReg r v).g, accs := withoutReg r t.accs } := setReg_eq _ r v

theorem reg_putReg (t : Thread) (r g : BitVec 5) (v : Word) : (t.putReg r v).reg g = regAfter t r v g := by
  unfold regAfter
  by_cases hg : g = r
  · subst hg
    by_cases h0 : g = 0
    · rw [if_neg fun h => h.2 h0, h0, Thread.reg_zero, Thread.reg_zero]
    · rw [if_pos ⟨rfl, h0⟩]
      exact Thread.reg_setReg_same _ g v h0
  · rw [if_neg fun h => hg h.1]
    exact Thread.reg_setReg_other _ r g v hg

theorem sameAccesses_withoutReg (r : BitVec 5) (l : List Access) : sameAccesses (withoutReg r l) l := by
  simp only [sameAccesses, withoutReg, List.map_map]
  refine List.map_congr_left fun x _ => ?_
  simp only [Function.comp_apply]
  split <;> rfl

/-- A result in a register, of a thread that goes on, keeps every other field of it. -/
theorem sameButRegs_putReg_step (t : Thread) (b : Bool) (r : BitVec 5) (v : Word) :
    sameButRegs (({ t with lat := b } : Thread).putReg r v).step t := by
  rw [Thread.step, putReg_eq]
  exact ⟨rfl, rfl, rfl, rfl, rfl, rfl, rfl, rfl, rfl, sameAccesses_withoutReg r t.accs⟩

/-! ### MFS -/

/-- A special register's value is that of Table 3.3. -/
theorem special_eq (s : State) (w : Who) (sr : BitVec 4) : s.special w sr = BitVec.ofNat 64 (specialValue s w sr.toNat) := by
  unfold State.special specialValue
  dsimp only
  generalize sr.toNat = n
  split
  case h_6 => simp
  case h_9 h0 h1 h2 h3 h4 h5 h6 h7 =>
    rw [if_neg h0, if_neg h1, if_neg h2, if_neg h3, if_neg h4, if_neg h5, if_neg h6, if_neg h7]
    split
    · exact (BitVec.ofNat_toNat ..).symm
    · rfl
  all_goals rfl

/-- The issue of an instruction leaves the count at which its core's cycles start. -/
theorem took_cycleBase (s : State) (w : Who) (b : Bool) :
    ((s.took w b).core w.core.toNat).cycleBase = (s.core w.core.toNat).cycleBase := by
  rw [State.took, State.core_setThread, State.core_setCore_same]

/-- The issue of an instruction changes no special register. -/
theorem special_took (s : State) (w : Who) (b : Bool) (sr : BitVec 4) : (s.took w b).special w sr = s.special w sr := by
  unfold State.special
  dsimp only
  rw [State.took_thread, took_cycleBase]
  rfl

/-- MFS, once issued, puts the special register's value in rd. -/
theorem exec_mfs {w : Who} {gp : BitVec 3} {rd : BitVec 5} {sr : BitVec 4} {s : State}
    (hi : s.issues w (.mfs w gp rd sr) gp [] = true) :
    exec (.mfs w gp rd sr) s = .next (issuedAs s w (.mfs w gp rd sr)
      (({ s.thread w with lat := false } : Thread).putReg rd (BitVec.ofNat 64 (specialValue s w sr.toNat))).step) := by
  change execMfs w gp rd sr s = _
  rw [execMfs, threadExec_issues _ _ _ _ _ _ hi, special_took, special_eq, State.took_thread]
  rfl

/-! ### MTS -/

theorem counter_setCounter (t : Thread) (n c : Nat) (v : BitVec 32) :
    (t.setCounter n v).counter c = if c = n then v else t.counter c := by
  split
  · next h => rw [h]; exact sget_sput_same ..
  · next h => exact sget_sput_other _ _ _ _ _ h

section
variable {w : Who} {gp : BitVec 3} {sr : BitVec 4} {ra : BitVec 5} {s : State}
  (hi : s.issues w (.mts w gp sr ra) gp [ra] = true)
include hi

/-- MTS of a counter, once issued, stores the low 32 bits of its source there. -/
theorem exec_mts_counter (hsr : 8 ≤ sr.toNat ∧ sr.toNat < 12) :
    exec (.mts w gp sr ra) s = .next (issuedAs s w (.mts w gp sr ra)
      (({ s.thread w with lat := false } : Thread).setCounter (sr.toNat - 8)
        (BitVec.ofNat 32 ((s.thread w).reg ra).toNat)).step) := by
  change execMts w gp sr ra s = _
  rw [execMts, threadExec_issues _ _ _ _ _ _ hi, State.took_thread, if_pos hsr, reg_lat, BitVec.ofNat_toNat]
  rfl

/-- MTS of any other special register, once issued, is a fault. -/
theorem exec_mts_other (hsr : ¬ (8 ≤ sr.toNat ∧ sr.toNat < 12)) :
    exec (.mts w gp sr ra) s = .next ((s.took w false).faultHere w fcSpecial 0) := by
  change execMts w gp sr ra s = _
  rw [execMts, threadExec_issues _ _ _ _ _ _ hi, if_neg hsr]
  rfl

end

/-- A word of MFS or MTS whose func is above 0x0F is illegal (R74, R77). -/
theorem decode_special_illegal {w : Who} {v : BitVec 32} (hop : wbits v 26 6 = 0x3C ∨ wbits v 26 6 = 0x3D)
    (hfunc : 0x0F < (wbits v 0 8).toNat) : decodeThreadWord w v = none := by
  have hbad : 15#8 < wbits v 0 8 := BitVec.lt_def.2 hfunc
  obtain hop | hop := hop <;> simp [decodeThreadWord, hop, hbad]

/-- Settles O11: MFS and MTS by what their bodies do, the rest by what R76 and R77 say of every instruction. -/
theorem specialRegistersAreReadAndWritten : Obligations.SpecialRegistersAreReadAndWritten := by
  unfold Obligations.SpecialRegistersAreReadAndWritten
  refine ⟨fun w gp rd sr s hi => ⟨_, exec_mfs hi, fun g => ?_, ?_, ?_, ?_⟩, fun w gp sr ra s hi => ⟨fun h8 h12 => ?_, fun hsr => ?_⟩,
    fun w gp sr ra v s ha ht hf hd hp => ?_, fun w gp i v s hrow ha ht hf hop hfunc => ?_⟩
  · exact reg_putReg _ rd g _
  · rw [putReg_eq]; rfl
  · rw [putReg_eq]; rfl
  · exact sameButRegs_putReg_step (s.thread w) false rd _
  · exact ⟨_, exec_mts_counter hi ⟨h8, h12⟩, rfl, fun c => counter_setCounter _ _ c _⟩
  · exact ⟨_, exec_mts_other hi hsr, faulted_faultHere s w fcSpecial 0⟩
  · exact (falseGuardHasNoEffect _ w gp v s rfl ha ht hf).1 hd hp
  · have hd := decode_special_illegal (w := w) hop hfunc
    exact ⟨hd, (falseGuardHasNoEffect i w gp v s hrow ha ht hf).2 hd⟩

end Sys2Proof.Laws.Special

/-!
SUPPORT. START (chapter 03, R73, R98, R99): a write of a register that its requester's way to the page lets through, and what
the write of THR_CTRL.START makes of its thread.
-/

namespace Sys2Proof.Laws.Start

open Sys2Proof Sys2Proof.Machine Sys2Proof.Spec

/-! ### The way of a register write to its page (R414, R424 to R426) -/

/-- An offset of a page is that of its address. -/
theorem pageAddr_mod (p : Page) {off : Nat} (h : off < 4096) : pageAddr p off % 4096 = off := by
  unfold pageAddr regBase; omega

/-- The page that BAR0 shows at an address is the page of that address. -/
theorem pageOfAddr_of_barPage {a : Nat} {p : Page} (h : barPage a = some p) : pageOfAddr a = some p := by
  unfold barPage at h
  split at h
  · exact h
  · cases h

/-- A host write that its page takes, of a size that registers take, acts on the page. -/
theorem hostWriteReg_of_hostTakes {s t : State} {r : HostRow} (h : hostTakes s r t)
    (hsize : sizeOk (r.addr % 4096) r.size = true) :
    s.hostWriteReg r.addr r.size r.val = t.applyWrite .host r.page (r.addr % 4096) r.size r.val := by
  obtain ⟨hpage, hreach, hlive, hanswers, hconf, hwrites, hroom, rfl⟩ := h
  have hnow : s.writeWaits { addr := r.addr, size := r.size, val := r.val } = false := by
    simp [State.writeWaits, hpage, hroom]
  have hpost : (r.page.type = tyDresser && (r.addr % 4096 = 0x12C || (r.addr % 4096 = 0x128 && r.size = 8))) =
      ((r.page.type = tyDresser && r.addr % 4096 = 0x128 && r.size = 8) ||
        (r.page.type = tyDresser && r.addr % 4096 = 0x12C)) := by
    grind
  simp only [State.hostWriteReg, State.hostPut, hwrites, hnow, hpage, hreach, hlive, hanswers, hsize, hpost, hconf]
  rfl

/-- A store accepted at a register page that takes it, of a size that registers take, acts on the page. -/
theorem acceptReg_of_store {s : State} {v : Who} {idx a : Nat} {y : Access} {p : Page} (hpage : pageOfAddr a = some p)
    (hkind : y.kind = .store) (hcheck : s.checkReg (s.agentOf v 1).pid true a = stOk)
    (hsize : sizeOk (a % 4096) y.size = true) :
    s.acceptReg v idx y a =
      (s.gotAccess v idx 0).applyWrite (.thread v) p (a % 4096) y.size (y.data.toNat % 2 ^ (8 * y.size)) := by
  have hstores : y.stores = true := by rw [Access.stores, hkind]
  -- Unfolded as a function, not as an application: there the kernel would evaluate `pageOfAddr a` first, and with it
  -- the subtraction of REGBASE, one by one.
  generalize hf : @State.acceptReg = f
  delta State.acceptReg at hf
  subst hf
  simp [hpage, hstores, hcheck, hsize]

/-- An issued store of a thread to a register page that takes it acts on the page, and is no longer outstanding. -/
theorem acceptMatch_of_store {s : State} {v : Who} {y : Access} {a n val : Nat} {p : Page}
    (haccs : (s.thread v).accs = [y]) (hstage : y.stage = .issued) (hkind : y.kind = .store) (hn : y.size = n)
    (hval : y.data.toNat % 2 ^ (8 * n) = val % 2 ^ (8 * n)) (hup : s.diesUp = true)
    (hplace : s.place (dieOfCore v.core.toNat) y.addr = .reg a) (hpage : pageOfAddr a = some p)
    (hcheck : s.checkReg (s.agentOf v 1).pid true a = stOk) (hsize : sizeOk (a % 4096) n = true) :
    s.acceptMatch v a n (some val) =
      (s.setThread v { s.thread v with accs := [] }).applyWrite (.thread v) p (a % 4096) n (val % 2 ^ (8 * n)) := by
  have hmatch : s.acceptMatch v a n (some val) = s.accept v 0 := by
    simp [State.acceptMatch, haccs, hstage, hn, hplace, Access.stores, hkind, hval]
  have haccept : s.accept v 0 = s.acceptReg v 0 y a := by
    simp [State.accept, haccs, hstage, hup, hplace, State.accDev]
  have hgot : s.gotAccess v 0 0 = s.setThread v { s.thread v with accs := [] } := by
    simp [State.gotAccess, haccs, hkind]
  rw [hmatch, haccept, acceptReg_of_store hpage hkind hcheck (by rwa [hn]), hgot, hn, hval]

/-! ### THR_CTRL -/

/-- The thread that START makes of one: its registers, predicates and counters as after its core's reset, and READY at the PC
that THR_PC holds; loads that were outstanding write no register (log 31). -/
def started (t : State) (w : Who) : Thread :=
  { Thread.reset with
    st := .ready
    pc := BitVec.ofNat 64 (t.rd64 (t.corePage w.core.toNat 0) (thrOff w + 8))
    accs := (t.thread w).accs.map (fun x => { x with rd := 0 }) }

/-- START of a thread that may be started sets it anew (R73, R99). -/
theorem startThread_of_startable {w : Who} {t : State} (h : startable w t) :
    t.startThread w = t.setThread w (started t w) := by
  obtain ⟨heng, hcore, hidle, hwork, q, howner, hst⟩ := h
  exact if_pos ⟨heng, hcore, hidle, hwork, by simpa [howner] using hst⟩

/-- The number of a thread in the package names that thread. -/
theorem whoOf_number (w : Who) : whoOf (16 * w.core.toNat + w.thr.toNat) = w := by
  obtain ⟨core, thr⟩ := w
  have h1 := core.isLt
  have h2 := thr.isLt
  simp only [whoOf, Who.mk.injEq]
  constructor
  · exact BitVec.eq_of_toNat_eq (by rw [BitVec.toNat_ofNat]; omega)
  · exact BitVec.eq_of_toNat_eq (by rw [BitVec.toNat_ofNat]; omega)

/-- The control word of a thread is no 64-bit register (Table 3.10). -/
theorem is64_control {q off : Nat} (h : off % 32 = 0) : is64 (Page.core q 0).type off = false := by
  simp [is64, Page.type]; omega

/-- The word before a thread's control word is no LO of a 64-bit register. -/
theorem is64_before_control {q off : Nat} (h : off % 32 = 0) : is64 (Page.core q 0).type (off - 4) = false := by
  simp [is64, Page.type]; omega

/-- A word of a core's CORE page from 0x100 on is the core's own (Table 3.10). -/
theorem writeWord_core {t : State} {q k off v : Nat} (hcore : t.coreOf (.core q 0) = some k) (hlo : 0x100 ≤ off)
    (hhi : off < 0xC00) : t.writeWord (.core q 0) off v = t.writeCore k off v := by
  have hblock : t.writeBlock (.core q 0) off v = t.writeCore k off v := by simp only [State.writeBlock, hcore]
  rw [← hblock, State.writeWord]
  repeat rw [if_neg (by omega)]

/-- START written to a thread's control word starts the thread. -/
theorem writeCore_start {w : Who} {t : State} (hs : startable w t) :
    t.writeCore w.core.toNat (0x200 + 32 * w.thr.toNat) 1 = t.setThread w (started t w) := by
  have hthr := w.thr.isLt
  have hnum : (0x200 + 32 * w.thr.toNat - 0x200) / 0x20 = w.thr.toNat := by omega
  rw [State.writeCore, if_neg (by omega), if_pos (by omega), hnum, whoOf_number, ← startThread_of_startable hs]
  rfl

/-- The page of a thread is the CORE page of its physical core. -/
theorem threadPage_core {w : Who} {p : Page} {t : State} (h : threadPage w p t) : ∃ q, p = .core q 0 := by
  obtain ⟨hcore, hpage⟩ := h
  unfold State.corePage at hpage
  split at hpage
  · exact ⟨_, hpage.symm⟩
  · subst hpage; cases hcore

/-- A write of START to the control word of a thread's page starts the thread, whoever writes it. -/
theorem applyWrite_start {w : Who} {p : Page} {t : State} (r : Req) (hpage : threadPage w p t) (hs : startable w t) :
    t.applyWrite r p (0x200 + 32 * w.thr.toNat) 4 1 = t.setThread w (started t w) := by
  have hthr := w.thr.isLt
  have halign : (0x200 + 32 * w.thr.toNat) % 32 = 0 := by omega
  obtain ⟨q, rfl⟩ := threadPage_core hpage
  rw [State.applyWrite, if_neg (by decide), if_neg (by simp [is64_control halign]),
    if_neg (by simp [is64_before_control halign]), writeWord_core hpage.1 (by omega) (by omega)]
  exact writeCore_start hs

/-- START is a write of the thread's control word. -/
theorem exec_start (r : Req) (w : Who) (s : State) :
    exec (.start r w) s =
      .next (s.writeBy r (pageAddr (s.corePage w.core.toNat 0) (0x200 + 32 * w.thr.toNat)) 4 1) := by
  change execStart r w s = _
  rw [execStart, thrOff, Nat.mul_comm]

/-- Settles O41: the write of START reaches the thread's page, by the host's way or by the thread's, and leaves `started`. -/
theorem startZeroesTheThread : Obligations.StartZeroesTheThread := by
  unfold Obligations.StartZeroesTheThread
  intro r w s t p hpage hs hhost hthread
  have hthr := w.thr.isLt
  have hoff : 0x200 + 32 * w.thr.toNat < 4096 := by omega
  have hsize : sizeOk (0x200 + 32 * w.thr.toNat) 4 = true := by simp [sizeOk]; omega
  have hexec : exec (.start r w) s = .next (t.setThread w (started t w)) := by
    cases r with
    | host =>
      obtain ⟨x, hrow, hp, htakes⟩ := hhost rfl
      cases hrow
      have hwrite := hostWriteReg_of_hostTakes htakes (by rw [pageAddr_mod _ hoff]; exact hsize)
      rw [pageAddr_mod _ hoff, applyWrite_start _ (hp ▸ hpage) hs] at hwrite
      rw [exec_start, ← hwrite]
      rfl
    | thread v =>
      obtain ⟨y, haccs, hstage, hkind, hy, hdata, hup, hp, hplace, hbar, hcheck, rfl⟩ := hthread v rfl
      have hwrite := acceptMatch_of_store haccs hstage hkind hy (val := 1) (by rw [hdata]; rfl) hup hplace
        (pageOfAddr_of_barPage hbar) hcheck (by rw [pageAddr_mod _ hoff]; exact hsize)
      rw [pageAddr_mod _ hoff] at hwrite
      rw [exec_start, hp, ← applyWrite_start _ hpage hs]
      exact congrArg _ hwrite
  refine ⟨_, hexec, ?_⟩
  rw [State.thread_setThread_same]
  refine ⟨rfl, fun g => ?_, fun q => ?_, fun c => rfl⟩
  · exact ite_self _
  · simp [Thread.pred, started, Thread.reset]

end Sys2Proof.Laws.Start
